-- ==== Sys2Proof/Word.lean ====
section
/-! DEFINITION. Word types of the machine and the sparse table that holds numbered things. -/

namespace Sys2Proof

/-- A register, a code word, a memory word (R46, R58). -/
abbrev Word := BitVec 32
/-- A 64-bit operand or address (R18, R47). -/
abbrev DWord := BitVec 64
/-- A byte of memory. -/
abbrev Byte := BitVec 8
/-- A mask of the 32 lanes of a warp; bit l is lane l (R12). -/
abbrev Mask := BitVec 32

/-- Numbered things, sorted by their number; a number that is not listed stands for the
default value of its use. -/
abbrev Tab (α : Type) := List (Nat × α)

end Sys2Proof
end

