-- ==== Sys2Proof/Config.lean ====
section
/-! DEFINITION. Free values: what the spec leaves open. Each is an opaque constant without a body, so
no proof can see a number; a claim holds for every value. -/

namespace Sys2Proof.Config

/-- Result of a special function within its bound (R135), as a function of the operand (R35, log 5). -/
opaque sfu : Nat → Word → Word
/-- The handle word of a future (R170), by draw; the machine never lets it be zero (log 6). -/
opaque handleWord : Nat → Word
/-- A hash key that the device draws (R345), by draw (log 12). -/
opaque hashKey : Nat → Word
/-- A byte that the spec leaves undefined (R345, R370), by draw (logs 13, 14). -/
opaque freeByte : Nat → Byte
/-- A word that the spec leaves open, by draw: the clock readings of R458 (log 44). -/
opaque freeWord : Nat → Word
/-- Whether training of the memory channels and links fails (R459), by draw (log 31). -/
opaque trainFails : Nat → Bool
/-- The identity key that stage 2 derives from the fused secret (R462, log 16). -/
opaque identityKey : List Byte → Nat
/-- The nonce of an attestation's signature (R462), by draw (log 16). -/
opaque signNonce : Nat → Nat
/-- A byte of the signature of a report that is made before the identity key is derived (R462), by place and draw (log 16). -/
opaque signature : Nat → Nat → Byte

/-- Cycles of the tile-cache clock that a number of CYCLE cycles make at a moment (R332), by draw (log 64). -/
opaque tcCycles : Nat → Nat → Nat
/-- The fill latency that a region's estimate takes at a tile-cache cycle (R332, log 64). -/
opaque fillLatency : Nat → Nat

/-- R225, R400: whether the page of a front-end access that has no leaf cannot be mapped, drawn anew each time. -/
opaque unmappable : Nat → Bool

end Sys2Proof.Config
end

