-- ==== Sys2Proof/Machine/Num.lean ====
section
/-! DEFINITION. Number formats (R91-R98) as exact numbers, rounding once (R95), narrowing (R96) and the
K4 readings (R97, R98). -/

namespace Sys2Proof.Machine

/-- An exact number of the formats: a NaN, an infinity, or (-1)^neg * m * 2^e (R92). -/
inductive Fp where
  | nan
  | inf (neg : Bool)
  | fin (neg : Bool) (m : Nat) (e : Int)
  deriving DecidableEq, Repr

/-- A floating-point layout (R92); without infinity only the all-ones pattern is NaN (E4M3). -/
structure Fmt where
  eb : Nat
  fb : Nat
  bias : Nat
  hasInf : Bool
  deriving DecidableEq, Repr

/-- FP32 (R92). -/
def fp32 : Fmt := ⟨8, 23, 127, true⟩
/-- BF16 (R92). -/
def bf16 : Fmt := ⟨8, 7, 127, true⟩
/-- FP16 (R92). -/
def fp16 : Fmt := ⟨5, 10, 15, true⟩
/-- E4M3 (R92). -/
def e4m3 : Fmt := ⟨4, 3, 7, false⟩
/-- E5M2 (R92). -/
def e5m2 : Fmt := ⟨5, 2, 15, true⟩

/-- Exponent of the smallest subnormal. -/
def Fmt.emin (F : Fmt) : Int := 1 - (F.bias : Int) - F.fb
/-- Magnitude pattern just above the largest finite one. -/
def Fmt.top (F : Fmt) : Nat :=
  if F.hasInf then (2 ^ F.eb - 1) * 2 ^ F.fb else 2 ^ (F.eb + F.fb) - 1
/-- Bits of the format. -/
def Fmt.width (F : Fmt) : Nat := 1 + F.eb + F.fb

/-- R92: the number that a pattern encodes. -/
def Fmt.decode (F : Fmt) (v : Nat) : Fp :=
  let neg := v / 2 ^ (F.eb + F.fb) % 2 == 1
  let ex := v / 2 ^ F.fb % 2 ^ F.eb
  let fr := v % 2 ^ F.fb
  if F.hasInf && ex == 2 ^ F.eb - 1 then (if fr = 0 then .inf neg else .nan)
  else if !F.hasInf && v % 2 ^ (F.eb + F.fb) == 2 ^ (F.eb + F.fb) - 1 then .nan
  else if ex = 0 then .fin neg fr F.emin
  else .fin neg (2 ^ F.fb + fr) (F.emin + (ex - 1 : Nat))

/-- The rounding modes of FMT.RND (R103): 0 RNE, 1 RZ, 2 RDN, 3 RUP. -/
inductive Rnd where
  | rne | rz | rdn | rup
  deriving DecidableEq, Repr

/-- FMT.RND (R103). -/
def Rnd.ofBits (b : BitVec 2) : Rnd :=
  if b = 0 then .rne else if b = 1 then .rz else if b = 2 then .rdn else .rup

/-- Whether the magnitude m / 2^k, whose integer part is n, rounds up. -/
def roundsUp (r : Rnd) (neg : Bool) (m k n : Nat) : Bool :=
  let rem := m % 2 ^ k
  match r with
  | .rz => false
  | .rdn => neg && rem != 0
  | .rup => !neg && rem != 0
  | .rne => 2 ^ k < 2 * rem || (2 * rem == 2 ^ k && n % 2 == 1 && rem != 0)

/-- m * 2^e rounded to a whole number of 2^q. -/
def roundAt (r : Rnd) (neg : Bool) (m : Nat) (e q : Int) : Nat :=
  if q ≤ e then m * 2 ^ (e - q).toNat
  else
    let k := (q - e).toNat
    let n := m / 2 ^ k
    if roundsUp r neg m k n then n + 1 else n

/-- The spacing exponent of p significant bits at m * 2^e. -/
def spacing (p m : Nat) (e : Int) : Int := e + Nat.log2 m - ((p : Int) - 1)

/-- Puts a rounded magnitude n * 2^q, q at least emin, into a pattern. -/
def Fmt.magnitude (F : Fmt) (n : Nat) (q : Int) : Nat := (q - F.emin).toNat * 2 ^ F.fb + n

/-- Sets the sign bit. -/
def Fmt.signed (F : Fmt) (neg : Bool) (mag : Nat) : Nat :=
  if neg then 2 ^ (F.eb + F.fb) + mag else mag

/-- R95: one rounding by RNE with full subnormals, overflow to infinity; c is the canonical NaN. -/
def Fmt.roundRNE (F : Fmt) (c : Nat) : Fp → Nat
  | .nan => c
  | .inf neg => F.signed neg F.top
  | .fin neg m e =>
    if m = 0 then F.signed neg 0
    else
      let q := max F.emin (spacing (F.fb + 1) m e)
      F.signed neg (min (F.magnitude (roundAt .rne neg m e q) q) F.top)

/-- R93: canonical FP32 NaN. -/
def nan32 : Nat := 0x7FC00000
/-- R93: canonical FP16 NaN. -/
def nan16 : Nat := 0x7E00

/-- A word read as FP32. -/
def f32 (w : Word) : Fp := fp32.decode w.toNat
/-- Rounded once to FP32 (R95). -/
def to32 (x : Fp) : Word := BitVec.ofNat 32 (fp32.roundRNE nan32 x)

/-- The number with the opposite sign. -/
def Fp.neg : Fp → Fp
  | .nan => .nan
  | .inf s => .inf (!s)
  | .fin s m e => .fin (!s) m e

/-- Exact signed sum of two finite numbers over their common exponent. -/
def addFin (s : Bool) (m : Nat) (e : Int) (t : Bool) (n : Nat) (f : Int) : Fp :=
  let q := min e f
  let a : Int := (m * 2 ^ (e - q).toNat : Nat)
  let b : Int := (n * 2 ^ (f - q).toNat : Nat)
  let z := (if s then -a else a) + (if t then -b else b)
  .fin (if z = 0 then s && t else z < 0) z.natAbs q

/-- Exact sum (R129): opposite infinities give NaN; an exact zero is +0 unless both operands are negative. -/
def Fp.add : Fp → Fp → Fp
  | .nan, _ => .nan
  | _, .nan => .nan
  | .inf s, .inf t => if s = t then .inf s else .nan
  | .inf s, .fin _ _ _ => .inf s
  | .fin _ _ _, .inf t => .inf t
  | .fin s m e, .fin t n f => addFin s m e t n f

/-- Exact product (R129): zero times infinity gives NaN. -/
def Fp.mul : Fp → Fp → Fp
  | .nan, _ => .nan
  | _, .nan => .nan
  | .inf s, .inf t => .inf (s != t)
  | .inf s, .fin t m _ => if m = 0 then .nan else .inf (s != t)
  | .fin s m _, .inf t => if m = 0 then .nan else .inf (s != t)
  | .fin s m e, .fin t n f => .fin (s != t) (m * n) (e + f)

/-- The number is NaN. -/
def Fp.isNan : Fp → Bool
  | .nan => true
  | _ => false

/-- Order of two numbers that are not NaN; both zeros compare equal (R132). -/
def Fp.lt : Fp → Fp → Bool
  | .nan, _ => false
  | _, .nan => false
  | .inf s, .inf t => s && !t
  | .inf s, .fin _ _ _ => s
  | .fin _ _ _, .inf t => !t
  | .fin s m e, .fin t n f =>
    match addFin s m e (!t) n f with
    | .fin neg d _ => neg && d != 0
    | _ => false

/-- Equality of two numbers that are not NaN (R132). -/
def Fp.eqv (x y : Fp) : Bool := !x.isNan && !y.isNan && !x.lt y && !y.lt x

/-- FADD (R129). -/
def fadd (a b : Word) : Word := to32 ((f32 a).add (f32 b))
/-- FSUB (R129). -/
def fsub (a b : Word) : Word := to32 ((f32 a).add (f32 b).neg)
/-- FMUL (R129). -/
def fmul (a b : Word) : Word := to32 ((f32 a).mul (f32 b))
/-- x * y + z rounded once (R129, R139). -/
def ffma (x y z : Word) : Word := to32 (((f32 x).mul (f32 y)).add (f32 z))
/-- z - x * y rounded once (R139). -/
def ffman (x y z : Word) : Word := to32 ((f32 z).add ((f32 x).mul (f32 y)).neg)

/-- The smaller (or larger) of two patterns under R130; v is the width's sign value. -/
def fpick (F : Fmt) (c : Nat) (larger : Bool) (a b : Nat) : Nat :=
  let x := F.decode a
  let y := F.decode b
  if x.isNan && y.isNan then c
  else if x.isNan then b
  else if y.isNan then a
  else
    let aBelow := x.lt y || (!y.lt x && decide (2 ^ (F.eb + F.fb) ≤ a))
    if aBelow == larger then b else a

/-- FMIN (R130). -/
def fmin (a b : Word) : Word := BitVec.ofNat 32 (fpick fp32 nan32 false a.toNat b.toNat)
/-- FMAX (R130). -/
def fmax (a b : Word) : Word := BitVec.ofNat 32 (fpick fp32 nan32 true a.toNat b.toNat)

/-- FRND (R133): 0 RNE, 1 FLOOR, 2 CEIL, 3 TRUNC. -/
def frnd (mode : BitVec 2) (a : Word) : Word :=
  match f32 a with
  | .nan => BitVec.ofNat 32 nan32
  | .inf _ => a
  | .fin neg m e =>
    if 0 ≤ e || m = 0 then a
    else
      let r : Rnd := if mode = 0 then .rne else if mode = 1 then .rdn else if mode = 2 then .rup else .rz
      BitVec.ofNat 32 (fp32.roundRNE nan32 (.fin neg (roundAt r neg m e 0) 0))

/-- A function of each FP16 half (R136, R139). -/
def halves (f : Nat → Nat → Nat → Nat) (a b c : Word) : Word :=
  let lo := f (a.toNat % 65536) (b.toNat % 65536) (c.toNat % 65536)
  let hi := f (a.toNat / 65536) (b.toNat / 65536) (c.toNat / 65536)
  BitVec.ofNat 32 (hi % 65536 * 65536 + lo % 65536)

/-- HADD2 (R136). -/
def hadd2 (a b : Word) : Word :=
  halves (fun x y _ => fp16.roundRNE nan16 ((fp16.decode x).add (fp16.decode y))) a b 0
/-- HMUL2 (R136). -/
def hmul2 (a b : Word) : Word :=
  halves (fun x y _ => fp16.roundRNE nan16 ((fp16.decode x).mul (fp16.decode y))) a b 0
/-- HMAX2 (R136). -/
def hmax2 (a b : Word) : Word := halves (fun x y _ => fpick fp16 nan16 true x y) a b 0
/-- HFMA2 (R139). -/
def hfma2 (a b c : Word) : Word :=
  halves (fun x y z =>
    fp16.roundRNE nan16 (((fp16.decode x).mul (fp16.decode y)).add (fp16.decode z))) a b c

/-! Conversions (R96, R137). -/

/-- R93: the NaN that a conversion writes: all-ones for E4M3, else exponent and top fraction bit. -/
def Fmt.convNan (F : Fmt) : Nat := if F.hasInf then F.top + 2 ^ (F.fb - 1) else F.top

/-- R96 step 4: what overflow gives. -/
def Fmt.overflow (F : Fmt) (r : Rnd) (sat neg : Bool) : Nat :=
  let big := F.top - 1
  if !F.hasInf || sat then F.signed neg big
  else
    match r with
    | .rne => F.signed neg F.top
    | .rz => F.signed neg big
    | .rdn => F.signed neg (if neg then F.top else big)
    | .rup => F.signed neg (if neg then big else F.top)

/-- R96: narrowing; precision first with an unbounded exponent, then the subnormal spacing. nanNeg is
the sign of a NaN source. -/
def Fmt.narrow (F : Fmt) (r : Rnd) (sat nanNeg : Bool) : Fp → Nat
  | .nan => F.signed nanNeg F.convNan
  | .inf neg => if F.hasInf && !sat then F.signed neg F.top else F.signed neg (F.top - 1)
  | .fin neg m e =>
    if m = 0 then F.signed neg 0
    else
      let q := spacing (F.fb + 1) m e
      let n := roundAt r neg m e q
      let q' := max q F.emin
      let mag := F.magnitude (roundAt r neg n q q') q'
      if F.top ≤ mag then F.overflow r sat neg else F.signed neg mag

/-- Rounded to an integer in the mode and clamped; a NaN gives 0 (R96, R137). -/
def toIntClamp (r : Rnd) (lo hi : Int) : Fp → Int
  | .nan => 0
  | .inf neg => if neg then lo else hi
  | .fin neg m e =>
    let n : Int := roundAt r neg m e 0
    max lo (min hi (if neg then -n else n))

/-- A widening conversion (R96, R137): exact, and a NaN keeps its sign and fraction bits. -/
def Fmt.widen (F : Fmt) (v : Nat) : Word :=
  match F.decode v with
  | .nan =>
    BitVec.ofNat 32 (fp32.signed (v / 2 ^ (F.eb + F.fb) % 2 == 1)
      (0x7F800000 + v % 2 ^ F.fb * 2 ^ (23 - F.fb)))
  | x => to32 x

/-- An exact integer. -/
def Fp.ofInt (z : Int) : Fp := .fin (z < 0) z.natAbs 0

/-- CVT (R137); kinds that are not defined never reach here. -/
def cvt (k : Nat) (r : Rnd) (sat : Bool) (a : Word) : Word :=
  let x := f32 a
  let s := a.getLsbD 31
  if k = 0 then BitVec.ofNat 32 (bf16.narrow r sat s x)
  else if k = 1 then BitVec.ofNat 32 (fp16.narrow r sat s x)
  else if k = 2 then BitVec.ofNat 32 (e4m3.narrow r sat s x)
  else if k = 3 then BitVec.ofNat 32 (e5m2.narrow r sat s x)
  else if k = 4 then BitVec.ofInt 32 (toIntClamp r (-128) 127 x)
  else if k = 5 then BitVec.ofInt 32 (toIntClamp r (-2147483648) 2147483647 x)
  else if k = 6 then BitVec.ofInt 32 (toIntClamp r 0 4294967295 x)
  else if k = 7 then BitVec.ofNat 32 (fp32.narrow r false false (.ofInt a.toInt))
  else if k = 8 then BitVec.ofNat 32 (fp32.narrow r false false (.ofInt a.toNat))
  else if k < 18 then bf16.widen (a.toNat / 2 ^ (16 * (k - 16)) % 65536)
  else if k < 20 then fp16.widen (a.toNat / 2 ^ (16 * (k - 18)) % 65536)
  else if k < 24 then e4m3.widen (a.toNat / 2 ^ (8 * (k - 20)) % 256)
  else if k < 28 then e5m2.widen (a.toNat / 2 ^ (8 * (k - 24)) % 256)
  else to32 (.ofInt ((BitVec.ofNat 8 (a.toNat / 2 ^ (8 * (k - 28)))).toInt))

/-! The K4 family (R97, R98). -/

/-- R98: the value of code c under scale byte sb; every zero is +0. -/
def k4Value (c sb : Nat) : Fp :=
  let e := sb % 64
  let ty := sb / 64 % 4
  let s := c / 8 % 2 == 1
  if e = 63 then .nan
  else
    let x : Bool × Nat × Int :=
      if ty = 0 then (s, if s then 16 - c % 16 else c % 16, 0)
      else if ty = 1 then
        let ex := c / 2 % 4
        let f := c % 2
        (s, if ex = 0 then f else 2 ^ (ex - 1) * (2 + f), -1)
      else if ty = 2 then
        let p := c % 8
        (s, if p = 0 then 0 else 2 ^ (p - 1), -3)
      else (s, if c / 4 % 2 = 0 then c % 4 else 4 * 2 ^ (c % 4), 0)
    if x.2.1 = 0 then .fin false 0 0 else .fin x.1 x.2.1 (x.2.2 + (e : Int) - 32)

/-- K4DEC (R138). -/
def k4dec (a b : Word) : Word :=
  let i := b.toNat / 256 % 8
  to32 (k4Value (a.toNat / 16 ^ i % 16) (b.toNat % 256))

end Sys2Proof.Machine
end

