-- ==== Sys2Proof/Syntax.lean ====
section
/-! DEFINITION. The instructions of the opcode table: 210 encoded instructions (R58-R77) and 129
steps of the other agents (spec/95_what_each_step_holds.md), one constructor a row. -/

namespace Sys2Proof

/-- Second source of VR and UR: a register with its wait bit, or the literal word (R59, R67). -/
inductive SrcB where
  | reg (w : Bool) (r : BitVec 6)
  | lit (v : Word)
  deriving DecidableEq, Repr

/-- VR and UR with d, a and b (R59); in SSEL g names the selecting predicate (R148). -/
structure R3 where
  g : BitVec 3
  wA : Bool
  d : BitVec 6
  a : BitVec 6
  b : SrcB
  deriving DecidableEq, Repr

/-- VR and UR with d and a (R59). -/
structure R2 where
  g : BitVec 3
  wA : Bool
  d : BitVec 6
  a : BitVec 6
  deriving DecidableEq, Repr

/-- UR with a alone (R159). -/
structure R1 where
  g : BitVec 3
  wA : Bool
  a : BitVec 6
  deriving DecidableEq, Repr

/-- UR with its guard alone. -/
structure G where
  g : BitVec 3
  deriving DecidableEq, Repr

/-- Compares: condition and destination predicate in d (R59). -/
structure RCmp where
  g : BitVec 3
  wA : Bool
  c : BitVec 3
  p : BitVec 3
  a : BitVec 6
  b : SrcB
  deriving DecidableEq, Repr

/-- FRND: the mode in b (R133). -/
structure RFrnd where
  g : BitVec 3
  wA : Bool
  d : BitVec 6
  a : BitVec 6
  m : BitVec 2
  deriving DecidableEq, Repr

/-- CVT: the kind in b (R137). -/
structure RCvt where
  g : BitVec 3
  wA : Bool
  d : BitVec 6
  a : BitVec 6
  k : BitVec 6
  deriving DecidableEq, Repr

/-- VF (R60). -/
structure F4 where
  c : BitVec 6
  d : BitVec 6
  a : BitVec 6
  b : BitVec 6
  deriving DecidableEq, Repr

/-- VC (R61). -/
structure C3 where
  g : BitVec 3
  wA : Bool
  d : BitVec 6
  a : BitVec 6
  k : BitVec 8
  deriving DecidableEq, Repr

/-- MOVCB (R61, R142). -/
structure CMov where
  g : BitVec 3
  d : BitVec 6
  k : BitVec 8
  deriving DecidableEq, Repr

/-- Plain VM and UM (R62); in SLDCB o is the unsigned word index (R235). -/
structure M where
  g : BitVec 3
  w : Bool
  d : BitVec 6
  a : BitVec 6
  o : BitVec 8
  deriving DecidableEq, Repr

/-- Scoped VM and UM (R62). -/
structure MS where
  g : BitVec 3
  w : Bool
  d : BitVec 6
  a : BitVec 6
  s : BitVec 3
  deriving DecidableEq, Repr

/-- CBSET (R236). -/
structure CbSet where
  g : BitVec 3
  w : Bool
  a : BitVec 6
  n : BitVec 4
  deriving DecidableEq, Repr

/-- VOTE (R163). -/
structure Vote where
  g : BitVec 3
  m : BitVec 3
  p : BitVec 3
  t : BitVec 3
  deriving DecidableEq, Repr

/-- BALLOT (R163). -/
structure Ballot where
  g : BitVec 3
  d : BitVec 6
  t : BitVec 3
  deriving DecidableEq, Repr

/-- Reductions (R165). -/
structure Red where
  g : BitVec 3
  wA : Bool
  n : BitVec 2
  a : BitVec 6
  deriving DecidableEq, Repr

/-- PLOP and QLOP (R149, R163). -/
structure PLop where
  g : BitVec 3
  f : BitVec 3
  p : BitVec 3
  t : BitVec 3
  u : BitVec 3
  deriving DecidableEq, Repr

/-- BRD (R63, R157): t is the target offset, j the rejoin literal. -/
structure BrdOps where
  p : BitVec 3
  n : Bool
  x : Bool
  t : BitVec 18
  j : Word
  deriving DecidableEq, Repr

/-- JMPV (R158). -/
structure JmpV where
  wA : Bool
  a : BitVec 6
  b : SrcB
  deriving DecidableEq, Repr

/-- CSRV (R164). -/
structure CsrV where
  g : BitVec 3
  d : BitVec 6
  b : BitVec 6
  deriving DecidableEq, Repr

/-- VK and UK (R64). -/
structure K where
  d : BitVec 6
  i : BitVec 20
  deriving DecidableEq, Repr

/-- UB (R63). -/
structure UB where
  g : BitVec 3
  n : Bool
  o : BitVec 20
  deriving DecidableEq, Repr

/-- LOOP (R77, R159): o is the literal word offset. -/
structure LoopOps where
  g : BitVec 3
  d : BitVec 6
  o : Word
  deriving DecidableEq, Repr

/-- TRAP (R179): b is the cause code. -/
structure TrapOps where
  g : BitVec 3
  wA : Bool
  a : BitVec 6
  b : BitVec 6
  deriving DecidableEq, Repr

/-- SLEEP (R159). -/
structure SleepOps where
  g : BitVec 3
  b : SrcB
  deriving DecidableEq, Repr

/-- UC (R65): d is the destination of CSRR and the source of CSRW. -/
structure UC where
  g : BitVec 3
  d : BitVec 6
  i : BitVec 12
  deriving DecidableEq, Repr

/-- SETFMT (R173). -/
structure SetFmtOps where
  g : BitVec 3
  d : BitVec 6
  b : SrcB
  deriving DecidableEq, Repr

/-- TBINIT and TBWAIT (R244, R246). -/
structure TbOps where
  g : BitVec 3
  wA : Bool
  a : BitVec 6
  b : SrcB
  deriving DecidableEq, Repr

/-- FENCE (R65): the scope. -/
structure Sc where
  s : BitVec 3
  deriving DecidableEq, Repr

/-- FTEST and FCANCEL (R171). -/
structure FTestOps where
  g : BitVec 3
  p : BitVec 3
  a : BitVec 6
  deriving DecidableEq, Repr

/-- FMOVE and FWAIT (R171). -/
structure FMoveOps where
  g : BitVec 3
  d : BitVec 6
  a : BitVec 6
  deriving DecidableEq, Repr

/-- SHRMAP (R168): maps a range, or ends the mapping (`SHRMAP vz`). -/
inductive Shr where
  | map (g : BitVec 3) (wA : Bool) (f : BitVec 6) (a : BitVec 6) (c : BitVec 4)
  | unmap (g : BitVec 3)
  deriving DecidableEq, Repr

/-- SQRD (R167). -/
structure SqRdOps where
  g : BitVec 3
  d : BitVec 6
  n : BitVec 2
  b : SrcB
  deriving DecidableEq, Repr

/-- UE (R65) with d and a; b and c hold 63. -/
structure E2 where
  d : BitVec 6
  a : BitVec 6
  deriving DecidableEq, Repr

/-- UE with d, a and b. -/
structure E3 where
  d : BitVec 6
  a : BitVec 6
  b : BitVec 6
  deriving DecidableEq, Repr

/-- UE with every field. -/
structure E4 where
  d : BitVec 6
  a : BitVec 6
  b : BitVec 6
  c : BitVec 6
  deriving DecidableEq, Repr

/-- UE with d and c (MMAZ, R286). -/
structure EDC where
  d : BitVec 6
  c : BitVec 6
  deriving DecidableEq, Repr

/-- UE with d, a and c. -/
structure EDAC where
  d : BitVec 6
  a : BitVec 6
  c : BitVec 6
  deriving DecidableEq, Repr

/-- Where the dispatcher puts a block (R351): logical cluster and W-core, first warp slot, first byte of its CSM. -/
structure Place where
  cluster : Nat
  core : Nat
  slot : Nat
  base : Nat
  deriving DecidableEq, Repr

/-- The header and data of a fabric flit (R447). -/
structure Flit where
  kind : BitVec 8
  len : BitVec 8
  srcDev : BitVec 12
  princ : Word
  atag : BitVec 16
  spart : BitVec 8
  op : BitVec 8
  seq : Word
  pa : DWord
  fcount : Word
  status : BitVec 8
  data : List Byte
  deriving DecidableEq, Repr

/-- An inbound request that a gate may park (R430): kind 0 write, 1 atomic, 2 COPYX update. -/
structure InReq where
  kind : Nat
  op : Nat
  pa : Nat
  src : Nat
  data : List Byte
  deriving DecidableEq, Repr

/-- The register spaces that the hypervisor and the driver write (R414, R437-R439, R446, R458). -/
inductive RegSpace where
  /-- Control space of the partition whose id is p (R414). -/
  | part (p : Nat)
  /-- Control space of region r (R424). -/
  | region (r : Nat)
  /-- Control space of fabric port n (R446). -/
  | port (n : Nat)
  /-- VFMAP (R438). -/
  | vfmap
  /-- FABCFG (R446). -/
  | fabcfg
  /-- Management registers (R458). -/
  | mgmt
  /-- Doorbell page of package VF n (R439). -/
  | doorbell (n : Nat)
  deriving DecidableEq, Repr

/-- One constructor a row of spec/opcode_table.json. -/
inductive Instr where
  /-- IADD (R126): Adds two 32-bit integers in each active lane. -/
  | iadd (f : R3)
  /-- ISUB (R126): Subtracts two 32-bit integers in each active lane. -/
  | isub (f : R3)
  /-- IMUL (R126): Writes the low 32 bits of an integer product in each lane. -/
  | imul (f : R3)
  /-- IMULH (R126): Writes the high 32 bits of a signed product in each lane. -/
  | imulh (f : R3)
  /-- IMULHU (R126): Writes the high 32 bits of an unsigned product in each lane. -/
  | imulhu (f : R3)
  /-- IMIN (R126): Writes the signed minimum in each lane. -/
  | imin (f : R3)
  /-- IMAX (R126): Writes the signed maximum in each lane. -/
  | imax (f : R3)
  /-- IMINU (R126): Writes the unsigned minimum in each lane. -/
  | iminu (f : R3)
  /-- IMAXU (R126): Writes the unsigned maximum in each lane. -/
  | imaxu (f : R3)
  /-- IABS (R126): Writes the absolute value of a signed integer in each lane. -/
  | iabs (f : R2)
  /-- AND (R126): Bitwise AND in each lane. -/
  | and (f : R3)
  /-- OR (R126): Bitwise OR in each lane. -/
  | or (f : R3)
  /-- XOR (R126): Bitwise XOR in each lane. -/
  | xor (f : R3)
  /-- ANDN (R126): A AND NOT B in each lane. -/
  | andn (f : R3)
  /-- SHL (R126): Shifts left by the whole 32-bit count, giving 0 above 31. -/
  | shl (f : R3)
  /-- SHR (R126): Shifts right logically by the whole 32-bit count. -/
  | shr (f : R3)
  /-- SAR (R126): Shifts right arithmetically by the whole 32-bit count. -/
  | sar (f : R3)
  /-- ROL (R126): Rotates left by B[4:0] in each lane. -/
  | rol (f : R3)
  /-- POPC (R126): Counts set bits in each lane. -/
  | popc (f : R2)
  /-- CLZ (R126): Counts leading zero bits in each lane. -/
  | clz (f : R2)
  /-- BREV (R126): Reverses the bit order in each lane. -/
  | brev (f : R2)
  /-- LEAW (R127): Forms a 64-bit address pair plus a word-scaled index. -/
  | leaw (f : R3)
  /-- LEAD (R127): Forms a 64-bit address pair plus a doubleword-scaled index. -/
  | lead (f : R3)
  /-- ICMP (R128): Compares integers and writes a lane predicate. -/
  | icmp (f : RCmp)
  /-- FADD (R129): FP32 addition rounded by RNE in each lane. -/
  | fadd (f : R3)
  /-- FSUB (R129): FP32 subtraction rounded by RNE in each lane. -/
  | fsub (f : R3)
  /-- FMUL (R129): FP32 multiplication rounded by RNE in each lane. -/
  | fmul (f : R3)
  /-- FMAR (R129): Fused D × A + B with one rounding, reading d as a source. -/
  | fmar (f : R3)
  /-- FMIN (R130): FP32 minimum with NaN and signed-zero rules. -/
  | fmin (f : R3)
  /-- FMAX (R130): FP32 maximum with NaN and signed-zero rules. -/
  | fmax (f : R3)
  /-- FABS (R131): Clears the sign bit in each lane. -/
  | fabs (f : R2)
  /-- FNEG (R131): Inverts the sign bit in each lane. -/
  | fneg (f : R2)
  /-- FCMP (R132): Compares FP32 values and writes a lane predicate. -/
  | fcmp (f : RCmp)
  /-- FRND (R133): Rounds FP32 to an integral value in the selected mode. -/
  | frnd (f : RFrnd)
  /-- FRCP (R134): Long-latency reciprocal; destination EMPTY until written. -/
  | frcp (f : R2)
  /-- FRSQ (R134): Long-latency reciprocal square root. -/
  | frsq (f : R2)
  /-- FSQRT (R134): Long-latency correctly rounded square root. -/
  | fsqrt (f : R2)
  /-- FEXP2 (R134): Long-latency base-2 exponential. -/
  | fexp2 (f : R2)
  /-- FLOG2 (R134): Long-latency base-2 logarithm. -/
  | flog2 (f : R2)
  /-- FSIN (R134): Long-latency sine. -/
  | fsin (f : R2)
  /-- FCOS (R134): Long-latency cosine. -/
  | fcos (f : R2)
  /-- FTANH (R134): Long-latency hyperbolic tangent. -/
  | ftanh (f : R2)
  /-- HADD2 (R136): Adds two packed FP16 halves. -/
  | hadd2 (f : R3)
  /-- HMUL2 (R136): Multiplies two packed FP16 halves. -/
  | hmul2 (f : R3)
  /-- HMAX2 (R136): Maximum of two packed FP16 halves. -/
  | hmax2 (f : R3)
  /-- CVT (R137): Converts between formats by the kind in b, narrowing under FMT. -/
  | cvt (f : RCvt)
  /-- K4DEC (R138): Decodes one K4 code under a scale byte to FP32. -/
  | k4dec (f : R3)
  /-- IMAD (R139): Integer A × B + C modulo 2^32. -/
  | imad (f : F4)
  /-- BFX (R140): Extracts a bit field with optional sign extension. -/
  | bfx (f : F4)
  /-- BFI (R141): Inserts a bit field into B. -/
  | bfi (f : F4)
  /-- SEL (R139): Selects A or B by whether C is nonzero. -/
  | sel (f : F4)
  /-- FFMA (R139): FP32 A × B + C rounded once. -/
  | ffma (f : F4)
  /-- FFMAN (R139): FP32 C − A × B rounded once. -/
  | ffman (f : F4)
  /-- HFMA2 (R139): Packed FP16 fused multiply-add in each half. -/
  | hfma2 (f : F4)
  /-- FADDCB (R142): Adds a constant-bank word to A. -/
  | faddcb (f : C3)
  /-- FMULCB (R142): Multiplies A by a constant-bank word. -/
  | fmulcb (f : C3)
  /-- FMARCB (R142): D × A + constant word, rounded once. -/
  | fmarcb (f : C3)
  /-- MOVCB (R142): Moves a constant-bank word into each lane. -/
  | movcb (f : CMov)
  /-- LDBS (R227): Loads a sign-extended byte per lane. -/
  | ldbs (f : M)
  /-- LDBU (R227): Loads a zero-extended byte per lane. -/
  | ldbu (f : M)
  /-- LDHS (R227): Loads a sign-extended halfword per lane. -/
  | ldhs (f : M)
  /-- LDHU (R227): Loads a zero-extended halfword per lane. -/
  | ldhu (f : M)
  /-- LDW (R227): Loads a word per lane. -/
  | ldw (f : M)
  /-- LDD (R227): Loads a doubleword into a pair per lane. -/
  | ldd (f : M)
  /-- LDQ (R227): Loads 16 bytes into a quad per lane. -/
  | ldq (f : M)
  /-- LDP (R228): Polling word load served past the L1, demoting the split. -/
  | ldp (f : M)
  /-- LDACQ (R229): Acquire load of a word at a scope. -/
  | ldacq (f : MS)
  /-- STB (R227): Stores a byte per lane through the store FIFO. -/
  | stb (f : M)
  /-- STH (R227): Stores a halfword per lane. -/
  | sth (f : M)
  /-- STW (R227): Stores a word per lane. -/
  | stw (f : M)
  /-- STD (R227): Stores a doubleword from a pair per lane. -/
  | std (f : M)
  /-- STQ (R227): Stores 16 bytes from a quad per lane. -/
  | stq (f : M)
  /-- STREL (R229): Release store of a word at a scope, draining the FIFO. -/
  | strel (f : MS)
  /-- LDLF (R231): Waits until a CSM granule is FULL and reads it. -/
  | ldlf (f : M)
  /-- LDLC (R231): Waits until FULL, reads and sets the granule EMPTY. -/
  | ldlc (f : M)
  /-- STLF (R231): Stores a granule that becomes FULL when the entry leaves. -/
  | stlf (f : M)
  /-- ATADD (R232): Atomic add returning the old word. -/
  | atadd (f : MS)
  /-- ATMIN (R232): Atomic signed minimum. -/
  | atmin (f : MS)
  /-- ATMAX (R232): Atomic signed maximum. -/
  | atmax (f : MS)
  /-- ATAND (R232): Atomic AND. -/
  | atand (f : MS)
  /-- ATOR (R232): Atomic OR. -/
  | ator (f : MS)
  /-- ATXOR (R232): Atomic XOR. -/
  | atxor (f : MS)
  /-- ATXCH (R232): Atomic exchange. -/
  | atxch (f : MS)
  /-- ATCAS (R232): Atomic compare-and-swap, demoting the split on failure. -/
  | atcas (f : MS)
  /-- ATFADD (R232): Atomic FP32 add. -/
  | atfadd (f : MS)
  /-- TLDG (R230): Tagged gather load returning word and denied flag. -/
  | tldg (f : M)
  /-- SHFLI (R162): Shuffle from an indexed lane. -/
  | shfli (f : R3)
  /-- SHFLU (R162): Shuffle from a lower lane. -/
  | shflu (f : R3)
  /-- SHFLD (R162): Shuffle from a higher lane. -/
  | shfld (f : R3)
  /-- SHFLX (R162): Shuffle from the XOR-indexed lane. -/
  | shflx (f : R3)
  /-- VOTE (R163): Votes a lane predicate into a uniform predicate. -/
  | vote (f : Vote)
  /-- BALLOT (R163): Writes a lane predicate's mask to a scalar. -/
  | ballot (f : Ballot)
  /-- REDADD (R165): Integer sum reduction into an sq register. -/
  | redadd (f : Red)
  /-- REDMIN (R165): Signed minimum reduction into an sq register. -/
  | redmin (f : Red)
  /-- REDMAX (R165): Signed maximum reduction into an sq register. -/
  | redmax (f : Red)
  /-- REDFADD (R166): FP32 tree-sum reduction into an sq register. -/
  | redfadd (f : Red)
  /-- READLANE (R163): Reads one lane's value into a scalar. -/
  | readlane (f : R3)
  /-- BCAST (R163): Broadcasts a scalar to each participating lane. -/
  | bcast (f : R2)
  /-- PLOP (R163): Combines two lane predicates per lane. -/
  | plop (f : PLop)
  /-- BRD (R157): Divergent branch that may divide, defer or export paths. -/
  | brd (f : BrdOps)
  /-- JMPV (R158): Per-lane indirect jump peeling off groups of equal targets. -/
  | jmpv (f : JmpV)
  /-- CSRV (R164): Writes a per-lane value such as LANE or SPLITID. -/
  | csrv (f : CsrV)
  /-- FADDK (R143): Adds a float immediate to d. -/
  | faddk (f : K)
  /-- FMULK (R143): Multiplies d by a float immediate. -/
  | fmulk (f : K)
  /-- FMOVK (R143): Moves a float immediate into d. -/
  | fmovk (f : K)
  /-- IADDK (R143): Adds a sign-extended immediate to d. -/
  | iaddk (f : K)
  /-- IMOVK (R143): Moves a sign-extended immediate into d. -/
  | imovk (f : K)
  /-- ANDK (R143): ANDs d with an immediate. -/
  | andk (f : K)
  /-- ORK (R143): ORs d with an immediate. -/
  | ork (f : K)
  /-- XORK (R143): XORs d with an immediate. -/
  | xork (f : K)
  /-- SADD (R145): Scalar add. -/
  | sadd (f : R3)
  /-- SSUB (R145): Scalar subtract. -/
  | ssub (f : R3)
  /-- SMUL (R145): Scalar multiply, low 32 bits. -/
  | smul (f : R3)
  /-- SMULH (R145): Scalar signed multiply, high 32 bits. -/
  | smulh (f : R3)
  /-- SAND (R145): Scalar AND. -/
  | sand (f : R3)
  /-- SOR (R145): Scalar OR. -/
  | sor (f : R3)
  /-- SXOR (R145): Scalar XOR. -/
  | sxor (f : R3)
  /-- SSHL (R145): Scalar shift left. -/
  | sshl (f : R3)
  /-- SSHR (R145): Scalar logical shift right. -/
  | sshr (f : R3)
  /-- SSAR (R145): Scalar arithmetic shift right. -/
  | ssar (f : R3)
  /-- SMIN (R145): Scalar signed minimum. -/
  | smin (f : R3)
  /-- SMAX (R145): Scalar signed maximum. -/
  | smax (f : R3)
  /-- SMINU (R145): Scalar unsigned minimum. -/
  | sminu (f : R3)
  /-- SMAXU (R145): Scalar unsigned maximum. -/
  | smaxu (f : R3)
  /-- SCMP (R146): Compares scalars and writes a uniform predicate. -/
  | scmp (f : RCmp)
  /-- SLEA (R147): Adds a byte offset to a 64-bit scalar pair. -/
  | slea (f : R3)
  /-- SPOPC (R145): Scalar population count. -/
  | spopc (f : R2)
  /-- SCLZ (R145): Scalar leading-zero count. -/
  | sclz (f : R2)
  /-- SSEL (R148): Selects A or B by a uniform predicate. -/
  | ssel (f : R3)
  /-- QLOP (R149): Combines two uniform predicates. -/
  | qlop (f : PLop)
  /-- SLDW (R233): Scalar word load. -/
  | sldw (f : M)
  /-- SLDD (R233): Scalar doubleword load. -/
  | sldd (f : M)
  /-- SLDQ (R233): Scalar 16-byte load. -/
  | sldq (f : M)
  /-- SSTW (R233): Scalar word store. -/
  | sstw (f : M)
  /-- SSTD (R233): Scalar doubleword store. -/
  | sstd (f : M)
  /-- SLDCB (R235): Reads a constant-bank word at a scalar index. -/
  | sldcb (f : M)
  /-- CBSET (R236): Binds a constant bank to global memory. -/
  | cbset (f : CbSet)
  /-- SLDACQ (R234): Scalar acquire load. -/
  | sldacq (f : MS)
  /-- SSTREL (R234): Scalar release store. -/
  | sstrel (f : MS)
  /-- SATADD (R234): Scalar atomic add. -/
  | satadd (f : MS)
  /-- SATCAS (R234): Scalar atomic compare-and-swap. -/
  | satcas (f : MS)
  /-- WAITV (R237): Sleeps until a word differs from the expected value. -/
  | waitv (f : MS)
  /-- BRA (R159): Conditional branch of the issuing split. -/
  | bra (f : UB)
  /-- JMP (R159): Jumps to a scalar code offset. -/
  | jmp (f : R1)
  /-- CALL (R159): Pushes a call entry and branches. -/
  | call (f : UB)
  /-- CALLR (R159): Pushes a call entry and jumps to a scalar offset. -/
  | callr (f : R1)
  /-- RET (R159): Pops a call entry and returns. -/
  | ret (f : G)
  /-- LOOP (R159): Decrements a scalar and branches while nonzero. -/
  | loop (f : LoopOps)
  /-- TRAP (R179): Raises a named user cause with TRAPAUX from a scalar. -/
  | trap (f : TrapOps)
  /-- ERET (R178): Returns from the user or supervisor handler. -/
  | eret (f : G)
  /-- YIELD (R184): Stop point where a requested stop is taken. -/
  | yield (f : G)
  /-- BKPT (R185): Raises BREAK, halting the warp under debug. -/
  | bkpt (f : G)
  /-- EXIT (R154): Exits every lane of the split's mask. -/
  | exit (f : G)
  /-- NOP (R159): Does nothing. -/
  | nop (f : G)
  /-- SLEEP (R159): The split issues nothing for a number of cycles. -/
  | sleep (f : SleepOps)
  /-- CSRR (R174): Reads a CSR into a scalar. -/
  | csrr (f : UC)
  /-- CSRW (R174): Writes a CSR from a scalar. -/
  | csrw (f : UC)
  /-- SETFMT (R173): Swaps the split's FMT with a value. -/
  | setfmt (f : SetFmtOps)
  /-- BAR (R238): Arrives at the block barrier and waits for completion. -/
  | bar (f : G)
  /-- BARA (R238): Arrives at the block barrier without waiting. -/
  | bara (f : G)
  /-- BARW (R238): Waits on the block barrier, arriving if not yet arrived. -/
  | barw (f : G)
  /-- CBARA (R238): Arrives at the cluster barrier without waiting. -/
  | cbara (f : G)
  /-- CBARW (R238): Waits on the cluster barrier. -/
  | cbarw (f : G)
  /-- TBINIT (R244): Initialises a transaction barrier granule. -/
  | tbinit (f : TbOps)
  /-- TBARV (R245): Arrives and adds expected sectors to a transaction barrier. -/
  | tbarv (f : R3)
  /-- TBWAIT (R246): Waits until a transaction barrier's phase changes. -/
  | tbwait (f : TbOps)
  /-- FENCE_ACQ (R241): Acquire fence at a scope. -/
  | fenceAcq (f : Sc)
  /-- FENCE_REL (R241): Release fence at a scope. -/
  | fenceRel (f : Sc)
  /-- FENCE_AR (R241): Acquire-release fence in a total fence order. -/
  | fenceAr (f : Sc)
  /-- FENCE_ENG (R241): AR fence that also waits for earlier engine operations. -/
  | fenceEng (f : Sc)
  /-- FTEST (R171): Tests whether a handle register is FULL. -/
  | ftest (f : FTestOps)
  /-- FMOVE (R171): Moves a future and its pending completion to another register. -/
  | fmove (f : FMoveOps)
  /-- FCANCEL (R171): Requests cancellation of a pending engine operation. -/
  | fcancel (f : FTestOps)
  /-- FWAIT (R171): Waits for a future to turn FULL and copies its status. -/
  | fwait (f : FMoveOps)
  /-- SHRMAP (R168): Maps a shared vector register range with a peer warp. -/
  | shrmap (f : Shr)
  /-- SQRD (R167): Waits for an sq sequence number and reads the value. -/
  | sqrd (f : SqRdOps)
  /-- COPY (R252): Issues a tensor LOAD or STORE copy from a descriptor. -/
  | copy (f : E2)
  /-- COPYX (R254): Issues a reducing copy into a tensor or CSM. -/
  | copyx (f : E2)
  /-- COPYL (R255): Issues a CSM-to-CSM copy. -/
  | copyl (f : E2)
  /-- MCAST (R341): Multicasts tiles into CSM of several cores. -/
  | mcast (f : E4)
  /-- FILLZ (R256): Fills a CSM range with zeros. -/
  | fillz (f : E4)
  /-- MMA (R279): Issues a matrix pass into an accumulator slot. -/
  | mma (f : E4)
  /-- MMAZ (R286): Clears a range of accumulator slots. -/
  | mmaz (f : EDC)
  /-- ACCRD (R288): Reads slot data or top-k lists into CSM. -/
  | accrd (f : E4)
  /-- ACCST (R289): Stores a slot image to global memory. -/
  | accst (f : EDAC)
  /-- ACCLD (R289): Loads a slot image from global memory. -/
  | accld (f : EDAC)
  /-- OSLD (R264): Loads overhead-store pages, optionally by deadline. -/
  | osld (f : E4)
  /-- TOPKR (R287): Resets a slot's top-k state. -/
  | topkr (f : EDAC)
  /-- TLOOK (R323): Looks up a tile's presence without fetching. -/
  | tlook (f : E2)
  /-- TPREF (R324): Prefetches a tile and selected neighbours. -/
  | tpref (f : E3)
  /-- THALO (R325): Assembles a tile with a halo into CSM. -/
  | thalo (f : E4)
  /-- TINV (R326): Invalidates a whole tensor by bumping its generation. -/
  | tinv (f : EDAC)
  /-- TWB (R327): Writes back dirty sectors of a run of tiles. -/
  | twb (f : E3)
  /-- TDEAD (R328): Enqueues deadline fills of consecutive tiles. -/
  | tdead (f : E4)
  /-- TVIEW (R329): Makes or removes a view of a tensor. -/
  | tview (f : E4)
  /-- LAUNCH (R357): Creates a child launch from a descriptor. -/
  | launch (f : E3)
  /-- JOIN (R362): Collective wait for named children, suspending the block. -/
  | join (f : E2)
  /-- REPRINT (R384): Creates a child REPRINT of a recorded launch. -/
  | reprint (f : E3)
  /-- WQPUSH (R390): Appends a CSM record to a work queue. -/
  | wqpush (f : E3)
  /-- WQPOP (R391): Removes the head record of a work queue into CSM. -/
  | wqpop (f : E3)
  /-- WQWAIT (R392): Sleeps until a work queue holds a record or closes. -/
  | wqwait (f : E2)
  /-- TRACEX (R377): Adds trace runs or sets trace flags for the block. -/
  | tracex (f : E4)
  /-- SADDK (R144): Adds an immediate to a scalar. -/
  | saddk (f : K)
  /-- SMOVK (R144): Moves an immediate into a scalar. -/
  | smovk (f : K)
  /-- SANDK (R144): ANDs a scalar with an immediate. -/
  | sandk (f : K)
  /-- SORK (R144): ORs a scalar with an immediate. -/
  | sork (f : K)
  /-- SXORK (R144): XORs a scalar with an immediate. -/
  | sxork (f : K)
  /-- SMULK (R144): Multiplies a scalar by an immediate. -/
  | smulk (f : K)
  /-- SSHLK (R144): Shifts a scalar left by an immediate. -/
  | sshlk (f : K)
  /-- SSHRK (R144): Shifts a scalar right by an immediate. -/
  | sshrk (f : K)
  /-- COLLECTOR_DISPATCH (R116): A V-set instruction whose operands are read dispatches to the V-pipe. -/
  | collectorDispatch (core n : Nat)
  /-- RESULT_WRITEBACK (R118): A short-latency result is written to its register bank after its latency. -/
  | resultWriteback (core n : Nat)
  /-- LONG_LATENCY_RESULT (R50): A load or atomic result arrives and its destination turns FULL. -/
  | longLatencyResult (acc : Nat)
  /-- SFU_RESULT (R134): A special-function result is written and its register turns FULL. -/
  | sfuResult (op : Nat)
  /-- REDUCTION_COMPLETE (R165): A reduction writes its sq register and advances its sequence number. -/
  | reductionComplete (w n : Nat)
  /-- STORE_FIFO_DRAIN (R221): A store FIFO entry is accepted at its destination and leaves. -/
  | storeFifoDrain (w : Nat) (frag : Option Nat)
  /-- CONSTANT_FILL (R121): A constant-cache miss fill lands and releases its collector. -/
  | constantFill (w sp : Nat)
  /-- REJOIN_DEADLOCK_DETECT (R155): After 1024 idle cycles of waiting splits the device raises REJOIN_DEADLOCK. -/
  | rejoinDeadlockDetect (w : Nat)
  /-- SLEEP_EXPIRE (R159): A SLEEP count runs out and the split becomes eligible. -/
  | sleepExpire (w sp : Nat)
  /-- WAITV_WAKE (R237): A WAITV split wakes on a store to its word or after 65 536 cycles and reloads. -/
  | waitvWake (w sp : Nat)
  /-- DEFERRED_CAUSE_RAISE (R225): A cause found at a slice is raised in a split at its next instruction boundary. -/
  | deferredCauseRaise (w : Nat)
  /-- DEFERRED_ENGINE_CAUSE (R278): A cause found after issue by the matrix engine is raised in the issuing warp. -/
  | deferredEngineCause (w : Nat)
  /-- SUPERVISOR_TRAP_ENTRY (R180): A supervisor-class cause enters the partition's supervisor handler in a handling split. -/
  | supervisorTrapEntry (w : Nat)
  /-- EXPORT (R193): An EXPORT message arrives and a fragment slot starts. -/
  | exportMsg (w sp : Nat)
  /-- PULLREQ (R196): A PULLREQ arrives at the parent, which answers or refuses. -/
  | pullreq (w sp r : Nat)
  /-- PULLDATA (R195): Pulled register values arrive in the fragment slot. -/
  | pulldata (w sp r : Nat)
  /-- OVERPUSH (R198): Export-time register values pushed before a parent write arrive in the slot. -/
  | overpush (w sp r : Nat)
  /-- BACKPUSH (R199): A fragment's dirty register reaches the parent and is written in its lanes. -/
  | backpush (w sp r : Nat)
  /-- SREAD (R190): A fragment's scalar, uniform, sq or CSR read is served at the parent. -/
  | sread (w sp : Nat)
  /-- SWRITE (R190): A fragment's scalar, uniform, sq or CSR write takes effect at the parent. -/
  | swrite (w : Nat)
  /-- BARARR (R206): A fragment's barrier arrival with a thread count reaches the barrier unit. -/
  | bararr (w sp : Nat)
  /-- BARRIER_COMPLETION_MESSAGE (R206): A completed barrier releases a waiting fragment. -/
  | barrierCompletionMessage (w sp : Nat)
  /-- JOINDEC (R204): A fragment's rejoin or recall decrements the join counter and tries to merge. -/
  | joindec (w sp : Nat)
  /-- CAUSE (R209): A cause raised in a fragment reaches the parent and is held pending. -/
  | cause (w sp : Nat)
  /-- FRAGMENT_RECALL (R203): A fragment is stopped and made a local split of its warp. -/
  | fragmentRecall (w sp : Nat)
  /-- FRAGMENT_CAUSE_DELIVERY (R209): A pending fragment cause is delivered once every local split waits or a stop comes. -/
  | fragmentCauseDelivery (w : Nat)
  /-- COPY_UNIT_DELIVERED (R253): A 128-byte unit of a copy lands and decrements its barrier's sectors. -/
  | copyUnitDelivered (op u : Nat)
  /-- COPY_OP_COMPLETE (R257): A copy-engine operation completes and writes its status word. -/
  | copyOpComplete (op : Nat)
  /-- TILE_REQUEST (R303): A request is performed at a tile's home slice, hitting or missing. -/
  | tileRequest (acc k : Nat)
  /-- PAGE_WALK_COMPLETE (R320): A walk finishes, filling, faulting or refusing the waiting requests. -/
  | pageWalkComplete (acc k : Nat)
  /-- TILE_FILL_COMPLETE (R304): Fetched sectors land in an entry and waiting requests proceed. -/
  | tileFillComplete (acc k : Nat)
  /-- MCAST_SECTOR_SEND (R344): A home slice sends a sector once for replication to destinations. -/
  | mcastSectorSend (op u : Nat)
  /-- TILE_OP_GRANT (R330): A queued tile-cache operation is granted and starts. -/
  | tileOpGrant (op : Nat)
  /-- TILE_OP_COMPLETE (R322): A tile-cache operation completes and writes its status word. -/
  | tileOpComplete (op : Nat)
  /-- TINV_SWEEP_DONE (R326): The sweep of an invalidated generation ends and TINV completes. -/
  | tinvSweepDone (op : Nat)
  /-- DEADLINE_FILL_START (R332): The deadline queue starts its earliest-deadline fill within budget. -/
  | deadlineFillStart (region : Nat)
  /-- DEADLINE_FILL_CANCEL (R332): A fill that cannot meet or has passed its deadline is cancelled LATE. -/
  | deadlineFillCancel (region n : Nat)
  /-- RESERVATION_GRANT (R273): A matrix-engine unit grants a reservation-table entry. -/
  | reservationGrant (op : Nat)
  /-- MATRIX_OP_COMPLETE (R274): A matrix-engine operation completes and its future turns FULL. -/
  | matrixOpComplete (op : Nat)
  /-- OSLD_PAGE_LOADED (R264): An overhead-store page's last byte lands and the page becomes VALID. -/
  | osldPageLoaded (op : Nat)
  /-- GANG_LATCH_TIMEOUT (R294): An unfilled gang latch is released after 2^20 cycles. -/
  | gangLatchTimeout (cluster n : Nat)
  /-- A_FETCH_XLATE_FAULT (R296): A global A fetch faults; the slot is restored from its shadow. -/
  | aFetchXlateFault (op : Nat)
  /-- LAUNCH_READY (R350): A checked launch whose counter wait is met joins the dispatch queue. -/
  | launchReady (l : Nat)
  /-- BLOCK_DISPATCH (R351): A region dispatcher starts a block or cluster group on a core. -/
  | blockDispatch (l : Nat) (ps : List Place)
  /-- BLOCK_STOPPED (R364): Every warp of a stopping block reaches a stop point. -/
  | blockStopped (b : Nat)
  /-- BLOCK_RESUME (R366): A block waiting to resume is restored on a chosen core. -/
  | blockResume (b : Nat) (ps : List Place)
  /-- PREEMPT_SOFT_DEADLINE (R365): The soft deadline expires and PREEMPT is delivered to unstopped warps. -/
  | preemptSoftDeadline (b : Nat)
  /-- PREEMPT_HARD_DEADLINE (R365): The hard deadline expires and the launch is discarded. -/
  | preemptHardDeadline (b : Nat)
  /-- BLOCK_END (R354): A block's threads have exited and its operations completed. -/
  | blockEnd (b : Nat)
  /-- LAUNCH_COMPLETE (R354): A launch completes: epoch, record, signal, future release and counter. -/
  | launchComplete (l : Nat)
  /-- STAMP_SWEEP_DONE (R383): The stamp sweep ends and held epoch advances proceed. -/
  | stampSweepDone (part : Nat)
  /-- REPRINT_SELECT (R385): A REPRINT checks its sheet and selects the blocks to re-run. -/
  | reprintSelect (l : Nat)
  /-- ORPHAN_FORMATION (R387): After re-run blocks end, orphan write runs are zeroed or kept and listed. -/
  | orphanFormation (l : Nat)
  /-- SERVE_QUEUE (R401): A free front-end lane takes a notified queue and accepts its packets. -/
  | serveQueue (lane : Nat)
  /-- PARKED_QUEUE_WAKE (R401): A parked queue is notified again when its wait may be satisfied. -/
  | parkedQueueWake (vf q : Nat)
  /-- TIME_SLICE_END (R407): A VF's time slice expires and its resident blocks are stopped. -/
  | timeSliceEnd (part : Nat)
  /-- FENCE_PACKET (R400): Completes once earlier packets and a counter condition are met. -/
  | fencePacket (lane : Nat)
  /-- SIGNAL_PACKET (R400): Stores a value as a release and increments a counter. -/
  | signalPacket (lane : Nat)
  /-- LAUNCH_PACKET (R400): Checks and queues a host launch, taking a queue slot. -/
  | launchPacket (lane : Nat)
  /-- REPRINT_PACKET (R400): Starts a host REPRINT of a recorded launch. -/
  | reprintPacket (lane : Nat)
  /-- FEED (R400): Appends records to a work queue, waiting for room. -/
  | feed (lane : Nat)
  /-- COPY_PACKET (R400): Copies bytes between virtual addresses and stamps by page. -/
  | copyPacket (lane : Nat)
  /-- MIGRATE_TO_HOST (R442): Moves pages to the host, setting HOST and copying them out. -/
  | migrateToHost (lane : Nat)
  /-- MIGRATE_TO_DEVICE (R442): Moves pages to the device, copying them in and clearing HOST. -/
  | migrateToDevice (lane : Nat)
  /-- TENSOR_REGISTER (R307): Registers a tensor descriptor and initialises its stamps. -/
  | tensorRegister (lane : Nat)
  /-- TENSOR_UNREGISTER (R305): Unregisters a tensor, writing back and dropping its entries. -/
  | tensorUnregister (lane : Nat)
  /-- WQCFG_CONFIGURE (R400): Configures a work queue for an address space. -/
  | wqcfgConfigure (lane : Nat)
  /-- WQCFG_CLOSE (R400): Closes a work queue and wakes every sleeper. -/
  | wqcfgClose (lane : Nat)
  /-- WQCFG_FREE (R400): Frees an empty work queue with no sleepers. -/
  | wqcfgFree (lane : Nat)
  /-- DCSET (R400): Sets a dependence counter to a value. -/
  | dcset (lane : Nat)
  /-- NOP_PACKET (R400): A packet that completes at acceptance. -/
  | nopPacket (lane : Nat)
  /-- QUEUE_NOTIFY (R396): A VFNOTIFY write marks queues notified. -/
  | queueNotify (vf : Nat) (v : Word)
  /-- FEATURE_NEGOTIATION (R409): A VFNOTIFY write with NEG agrees feature bits and sets READY. -/
  | featureNegotiation (vf : Nat)
  /-- VF_CREATE (R418): VFCMD CREATE reads a VF context record and creates the VF. -/
  | vfCreate (part vf : Nat)
  /-- VF_FLR (R419): VFCMD FLR ends the VF's work and scrubs its state. -/
  | vfFlr (part vf : Nat)
  /-- VF_DESTROY (R418): VFCMD DESTROY performs an FLR and frees the ASID. -/
  | vfDestroy (part vf : Nat)
  /-- MIG_FREEZE (R430): VFMIG FREEZE stops the VF and starts parking inbound traffic. -/
  | migFreeze (part vf : Nat)
  /-- VF_FROZEN (R430): Every block of a freezing VF is saved and FROZEN is set. -/
  | vfFrozen (part : Nat)
  /-- GATE_PARK (R430): A gate parks an inbound write, atomic or update for a frozen VF. -/
  | gatePark (region : Nat) (rq : InReq)
  /-- MIG_RESUME (R430): VFMIG RESUME re-creates the VF at the destination. -/
  | migResume (part vf : Nat)
  /-- MIG_REPLAY (R430): VFMIG REPLAY sends parked entries to the destination. -/
  | migReplay (part vf : Nat)
  /-- REPLAY_DONE (R430): The last replayed entry is performed and destination gates open. -/
  | replayDone (part : Nat)
  /-- MIG_ABORT (R431): VFMIG ABORT resumes the VF at the source. -/
  | migAbort (part vf : Nat)
  /-- PARTITION_SHAPE (R415): A PCFG write changes the partition's shape. -/
  | partitionShape (part : Nat) (v : Word)
  /-- PARTITION_RUN (R415): Setting PCFG.RUN starts the partition. -/
  | partitionRun (part : Nat)
  /-- PARTITION_SUSPEND (R415): Clearing PCFG.RUN stops packet acceptance and requests stops. -/
  | partitionSuspend (part : Nat)
  /-- PARTITION_SUSPENDED (R415): Every block is stopped or discarded and STATE becomes SUSPENDED. -/
  | partitionSuspended (part : Nat)
  /-- REMAP_COMMIT (R45): PRMAPC COMMIT checks the remap table and starts the copy. -/
  | remapCommit (part : Nat)
  /-- REMAP_COPY_DONE (R44): The remap table reaches every per-unit table and BUSY clears. -/
  | remapCopyDone (part : Nat)
  /-- TABLE_UPDATE (R321): TUCTL GO writes a page-table entry and starts invalidation. -/
  | tableUpdate (part : Nat)
  /-- TABLE_UPDATE_DONE (R321): The update's drops and write-backs finish and BUSY clears. -/
  | tableUpdateDone (part : Nat)
  /-- TCCFG_WRITE (R345): A TCCFG write resplits cache and scratchpad, dropping every entry. -/
  | tccfgWrite (part : Nat) (v : Word)
  /-- POLBASE_WRITE (R335): A POLBASE write invalidates every cached policy line. -/
  | polbaseWrite (part : Nat) (v : Word)
  /-- DEBUG_RESUME (R186): DBGCMD RESUME releases a halted warp or block. -/
  | debugResume (part : Nat) (v : Word)
  /-- DEBUG_STEP (R186): DBGCMD STEP lets one split issue one instruction. -/
  | debugStep (part : Nat) (v : Word)
  /-- DEBUG_HALT (R186): DBGCMD HALT stops a warp as a BREAK would. -/
  | debugHalt (part : Nat) (v : Word)
  /-- REGION_RESET (R425): RCTL RESET closes the gate, ends work and starts the scrub. -/
  | regionReset (region : Nat)
  /-- REGION_RESET_DONE (R425): The scrub ends, windows clear and the gate reopens. -/
  | regionResetDone (region : Nat)
  /-- WINDOW_OPEN (R421): A window entry write making it VALID lends a range. -/
  | windowOpen (region win : Nat) (v : Word)
  /-- WINDOW_CLOSE (R423): Clearing VALID on a window entry starts closing it. -/
  | windowClose (region win : Nat)
  /-- WINDOW_CLOSE_DONE (R423): Admitted requests are performed and the close completes. -/
  | windowCloseDone (region win : Nat)
  /-- PORT_ASSIGN (R446): A PORTCFG write assigns or reassigns a fabric port. -/
  | portAssign (port : Nat) (v : Word)
  /-- RECOVERY_LOAD (R461): MBOOT GO loads and verifies a recovery image from the host. -/
  | recoveryLoad
  /-- ATTESTATION (R462): MATCTL GO starts a signed attestation report. -/
  | attestation
  /-- ATTESTATION_DONE (R462): The report is written and BUSY clears. -/
  | attestationDone
  /-- REGISTER_WRITE (R4): A write to a control register without behaviour of its own. -/
  | registerWrite (sp : RegSpace) (off size : Nat) (v : DWord)
  /-- PACKAGE_RESET (R459): The ROM loader verifies, trains and readies the device. -/
  | packageReset
  /-- POWER_CAP_EXCEEDED (R456): Averaged package power exceeds the cap and partitions are shed. -/
  | powerCapExceeded (watts : Nat)
  /-- POWER_CAP_RELIEVED (R456): Power stays 5 % below the cap for 10 ms and shedding is undone. -/
  | powerCapRelieved (watts : Nat)
  /-- THERMAL_HOT (R457): A die reaches 105 °C and its regions enter SLOW. -/
  | thermalHot (die degC : Nat)
  /-- THERMAL_COOL (R457): A hot die falls below 95 °C and its regions leave SLOW. -/
  | thermalCool (die degC : Nat)
  /-- THERMAL_TRIP (R457): A die reaches 115 °C, faulting partitions and cutting its rails. -/
  | thermalTrip (die degC : Nat)
  /-- MACHINE_FAULT (R428): An uncontainable error ends the partition's work and suspends it. -/
  | machineFault (region : Nat)
  /-- PATROL_SCRUB (R427): A patrol scrub pass runs when its period expires. -/
  | patrolScrub (region hbmErrs sramErrs : Nat)
  /-- IDLE_POWER_ENTRY (R434): A region idle for 1 µs enters the deepest allowed power state. -/
  | idlePowerEntry (region : Nat)
  /-- POWER_WAKE (R434): A request wakes a low-power region after its exit latency. -/
  | powerWake (region : Nat)
  /-- PORT_LINK_UP (R446): A fabric port trains and learns its peer's fabric id. -/
  | portLinkUp (port peer : Nat)
  /-- PORT_LINK_DOWN (R454): A port's link drops; in-flight requests fail and PORTBLK is set. -/
  | portLinkDown (port : Nat)
  /-- READ_FLIT (R447): An inbound READ flit is checked against windows and served. -/
  | readFlit (port : Nat) (f : Flit)
  /-- WRITE_FLIT (R447): An inbound WRITE flit is checked and performed at its home slice. -/
  | writeFlit (port : Nat) (f : Flit)
  /-- ATOMIC_FLIT (R451): An inbound ATOMIC flit is performed at SYSTEM scope. -/
  | atomicFlit (port : Nat) (f : Flit)
  /-- REDUCE_FLIT (R451): An inbound REDUCE flit updates elements of a sector. -/
  | reduceFlit (port : Nat) (f : Flit)
  /-- RESPONSE_FLIT (R447): A response completes an outbound request with its status. -/
  | responseFlit (port : Nat) (f : Flit)
  /-- FENCE_FLIT (R453): A fence token is held until its path's count is forwarded. -/
  | fenceFlit (port : Nat) (f : Flit)
  /-- FENCEACK_FLIT (R453): A fence acknowledgement may release a held release store. -/
  | fenceackFlit (port : Nat) (f : Flit)
  /-- UNDEFINED_FLIT (R447): A flit with an undefined KIND is dropped without response. -/
  | undefinedFlit (port : Nat) (f : Flit)
  /-- ILLEGAL_ENCODING (R69): A word that is a reserved opcode or breaks a must-be-zero, unused-field or selector rule reaches decode and raises ILLEGAL whatever its guard holds. -/
  | illegalEncoding (w : Word)
  /-- WQ_OP_COMPLETE (R391): A WQPUSH, WQPOP or TRACEX operation of the launch engine finishes, writing any popped record's granules FULL and its UNIT 3 status word. -/
  | wqOpComplete (op : Nat)
  /-- INSTRUCTION_FETCH (R72): Fetched code words arrive in a split's instruction buffer, or the fetch meets a missing execute right, an OWN page or a translation fault. -/
  | instructionFetch (n : Nat)
  deriving DecidableEq, Repr

end Sys2Proof
end

