-- ==== Sys2Proof/WellFormed.lean ====
section
/-! DEFINITION. The checks that R47 and R69 make on the fields of an instruction word: register
pairs and quads, scopes, selectors, CSR indices, trap causes and shared ranges. -/

namespace Sys2Proof

/-- Why a word with a known opcode is still ILLEGAL (R69). -/
inductive WfError where
  /-- A register that does not name a pair (R47). -/
  | badPair (r : BitVec 6)
  /-- A register that does not name a quad (R47). -/
  | badQuad (r : BitVec 6)
  /-- Scope 6 or 7, or compare-and-swap at SYSTEM (R22). -/
  | badScope (s : BitVec 3)
  /-- A selector outside its defined values (R137, R163, R164). -/
  | badSelector (n : Nat)
  /-- A CSR index that is not in the map (R55). -/
  | badCsr (i : BitVec 12)
  /-- A TRAP cause that is not of the user class, or PREEMPT (R179). -/
  | badCause (c : BitVec 6)
  /-- A shared range that runs past v62 (R168). -/
  | badRange (f : BitVec 6) (c : BitVec 4)
  deriving DecidableEq, Repr

/-- R47: an even register other than 62, or the zero name. -/
def pairOk (r : BitVec 6) : Bool := r == 63 || (!r.getLsbD 0 && r != 62)

/-- R47: a multiple of four other than 60, or the zero name. -/
def quadOk (r : BitVec 6) : Bool := r == 63 || (r.extractLsb' 0 2 == 0 && r != 60)

/-- R137: the conversion kinds that are defined. -/
def cvtOk (k : BitVec 6) : Bool := k ≤ 8 || (16 ≤ k && k ≤ 31)

/-- R55, R164: the per-lane values that CSRV names. -/
def csrvOk (i : BitVec 6) : Bool := i ≤ 3 || i == 5

/-- R55: the CSR index map. -/
def csrOk (i : BitVec 12) : Bool :=
  i ≤ 0x00A || (0x010 ≤ i && i ≤ 0x013) || (0x018 ≤ i && i ≤ 0x01D) ||
  (0x020 ≤ i && i ≤ 0x022) || i == 0x030 || i == 0x031 || (0x100 ≤ i && i ≤ 0x145)

/-- R36, R179: the causes of the user class but PREEMPT. -/
def trapCauseOk (c : BitVec 6) : Bool :=
  (1 ≤ c && c ≤ 3) || (5 ≤ c && c ≤ 0xA) || c == 0xD || (0xF ≤ c && c ≤ 0x11) || c == 0x13

/-- The first check that fails names the error. -/
def firstError : List (Bool × WfError) → Option WfError
  | [] => none
  | (ok, e) :: rest => if ok then firstError rest else some e

/-- A register field that names a pair (R47). -/
def needPair (r : BitVec 6) : Bool × WfError := (pairOk r, .badPair r)
/-- A register field that names a quad (R47). -/
def needQuad (r : BitVec 6) : Bool × WfError := (quadOk r, .badQuad r)
/-- A scope field whose largest code is m (R21, R22). -/
def needScope (m s : BitVec 3) : Bool × WfError := (s ≤ m, .badScope s)

/-- The checks of each instruction (R47, R69); an event has no word and no check. -/
def check (i : Instr) : Option WfError :=
  match i with
  | .iadd _ => none
  | .isub _ => none
  | .imul _ => none
  | .imulh _ => none
  | .imulhu _ => none
  | .imin _ => none
  | .imax _ => none
  | .iminu _ => none
  | .imaxu _ => none
  | .iabs _ => none
  | .and _ => none
  | .or _ => none
  | .xor _ => none
  | .andn _ => none
  | .shl _ => none
  | .shr _ => none
  | .sar _ => none
  | .rol _ => none
  | .popc _ => none
  | .clz _ => none
  | .brev _ => none
  | .leaw f => firstError [needPair f.d, needPair f.a]
  | .lead f => firstError [needPair f.d, needPair f.a]
  | .icmp _ => none
  | .fadd _ => none
  | .fsub _ => none
  | .fmul _ => none
  | .fmar _ => none
  | .fmin _ => none
  | .fmax _ => none
  | .fabs _ => none
  | .fneg _ => none
  | .fcmp _ => none
  | .frnd _ => none
  | .frcp _ => none
  | .frsq _ => none
  | .fsqrt _ => none
  | .fexp2 _ => none
  | .flog2 _ => none
  | .fsin _ => none
  | .fcos _ => none
  | .ftanh _ => none
  | .hadd2 _ => none
  | .hmul2 _ => none
  | .hmax2 _ => none
  | .cvt f => firstError [(cvtOk f.k, .badSelector f.k.toNat)]
  | .k4dec _ => none
  | .imad _ => none
  | .bfx _ => none
  | .bfi _ => none
  | .sel _ => none
  | .ffma _ => none
  | .ffman _ => none
  | .hfma2 _ => none
  | .faddcb _ => none
  | .fmulcb _ => none
  | .fmarcb _ => none
  | .movcb _ => none
  | .ldbs f => firstError [needPair f.a]
  | .ldbu f => firstError [needPair f.a]
  | .ldhs f => firstError [needPair f.a]
  | .ldhu f => firstError [needPair f.a]
  | .ldw f => firstError [needPair f.a]
  | .ldd f => firstError [needPair f.d, needPair f.a]
  | .ldq f => firstError [needPair f.a, needQuad f.d]
  | .ldp f => firstError [needPair f.a]
  | .ldacq f => firstError [needPair f.a, needScope 5 f.s]
  | .stb f => firstError [needPair f.a]
  | .sth f => firstError [needPair f.a]
  | .stw f => firstError [needPair f.a]
  | .std f => firstError [needPair f.d, needPair f.a]
  | .stq f => firstError [needPair f.a, needQuad f.d]
  | .strel f => firstError [needPair f.a, needScope 5 f.s]
  | .ldlf f => firstError [needQuad f.d]
  | .ldlc f => firstError [needQuad f.d]
  | .stlf f => firstError [needQuad f.d]
  | .atadd f => firstError [needPair f.a, needScope 5 f.s]
  | .atmin f => firstError [needPair f.a, needScope 5 f.s]
  | .atmax f => firstError [needPair f.a, needScope 5 f.s]
  | .atand f => firstError [needPair f.a, needScope 5 f.s]
  | .ator f => firstError [needPair f.a, needScope 5 f.s]
  | .atxor f => firstError [needPair f.a, needScope 5 f.s]
  | .atxch f => firstError [needPair f.a, needScope 5 f.s]
  | .atcas f => firstError [needPair f.d, needPair f.a, needScope 4 f.s]
  | .atfadd f => firstError [needPair f.a, needScope 5 f.s]
  | .tldg f => firstError [needPair f.d, needPair f.a]
  | .shfli _ => none
  | .shflu _ => none
  | .shfld _ => none
  | .shflx _ => none
  | .vote f => firstError [(f.m ≤ 2, .badSelector f.m.toNat)]
  | .ballot _ => none
  | .redadd _ => none
  | .redmin _ => none
  | .redmax _ => none
  | .redfadd _ => none
  | .readlane _ => none
  | .bcast _ => none
  | .plop _ => none
  | .brd _ => none
  | .jmpv _ => none
  | .csrv f => firstError [(csrvOk f.b, .badSelector f.b.toNat)]
  | .faddk _ => none
  | .fmulk _ => none
  | .fmovk _ => none
  | .iaddk _ => none
  | .imovk _ => none
  | .andk _ => none
  | .ork _ => none
  | .xork _ => none
  | .sadd _ => none
  | .ssub _ => none
  | .smul _ => none
  | .smulh _ => none
  | .sand _ => none
  | .sor _ => none
  | .sxor _ => none
  | .sshl _ => none
  | .sshr _ => none
  | .ssar _ => none
  | .smin _ => none
  | .smax _ => none
  | .sminu _ => none
  | .smaxu _ => none
  | .scmp _ => none
  | .slea f => firstError [needPair f.d, needPair f.a]
  | .spopc _ => none
  | .sclz _ => none
  | .ssel _ => none
  | .qlop _ => none
  | .sldw f => firstError [needPair f.a]
  | .sldd f => firstError [needPair f.d, needPair f.a]
  | .sldq f => firstError [needPair f.a, needQuad f.d]
  | .sstw f => firstError [needPair f.a]
  | .sstd f => firstError [needPair f.d, needPair f.a]
  | .sldcb _ => none
  | .cbset f => firstError [needPair f.a]
  | .sldacq f => firstError [needPair f.a, needScope 5 f.s]
  | .sstrel f => firstError [needPair f.a, needScope 5 f.s]
  | .satadd f => firstError [needPair f.a, needScope 5 f.s]
  | .satcas f => firstError [needPair f.d, needPair f.a, needScope 4 f.s]
  | .waitv f => firstError [needPair f.a, needScope 5 f.s]
  | .bra _ => none
  | .jmp _ => none
  | .call _ => none
  | .callr _ => none
  | .ret _ => none
  | .loop _ => none
  | .trap f => firstError [(trapCauseOk f.b, .badCause f.b)]
  | .eret _ => none
  | .yield _ => none
  | .bkpt _ => none
  | .exit _ => none
  | .nop _ => none
  | .sleep _ => none
  | .csrr f => firstError [(csrOk f.i, .badCsr f.i)]
  | .csrw f => firstError [(csrOk f.i, .badCsr f.i)]
  | .setfmt _ => none
  | .bar _ => none
  | .bara _ => none
  | .barw _ => none
  | .cbara _ => none
  | .cbarw _ => none
  | .tbinit _ => none
  | .tbarv _ => none
  | .tbwait _ => none
  | .fenceAcq f => firstError [needScope 5 f.s]
  | .fenceRel f => firstError [needScope 5 f.s]
  | .fenceAr f => firstError [needScope 5 f.s]
  | .fenceEng f => firstError [needScope 5 f.s]
  | .ftest _ => none
  | .fmove _ => none
  | .fcancel _ => none
  | .fwait _ => none
  | .shrmap (.map _ _ f _ c) => firstError [(f.toNat + c.toNat + 1 ≤ 63, .badRange f c)]
  | .shrmap (.unmap _) => none
  | .sqrd _ => none
  | .copy _ => none
  | .copyx _ => none
  | .copyl _ => none
  | .mcast f => firstError [needPair f.a]
  | .fillz _ => none
  | .mma f => firstError [needPair f.a]
  | .mmaz _ => none
  | .accrd _ => none
  | .accst f => firstError [needPair f.a]
  | .accld f => firstError [needPair f.a]
  | .osld f => firstError [needPair f.a]
  | .topkr _ => none
  | .tlook f => firstError [needPair f.a]
  | .tpref f => firstError [needPair f.a]
  | .thalo f => firstError [needPair f.a]
  | .tinv _ => none
  | .twb f => firstError [needPair f.a]
  | .tdead f => firstError [needPair f.a]
  | .tview _ => none
  | .launch f => firstError [needPair f.a]
  | .join _ => none
  | .reprint f => firstError [needPair f.a]
  | .wqpush _ => none
  | .wqpop _ => none
  | .wqwait _ => none
  | .tracex f => firstError [needPair f.a]
  | .saddk _ => none
  | .smovk _ => none
  | .sandk _ => none
  | .sork _ => none
  | .sxork _ => none
  | .smulk _ => none
  | .sshlk _ => none
  | .sshrk _ => none
  | .collectorDispatch _ _ => none
  | .resultWriteback _ _ => none
  | .longLatencyResult _ => none
  | .sfuResult _ => none
  | .reductionComplete _ _ => none
  | .storeFifoDrain _ _ => none
  | .constantFill _ _ => none
  | .rejoinDeadlockDetect _ => none
  | .sleepExpire _ _ => none
  | .waitvWake _ _ => none
  | .deferredCauseRaise _ => none
  | .deferredEngineCause _ => none
  | .supervisorTrapEntry _ => none
  | .exportMsg _ _ => none
  | .pullreq _ _ _ => none
  | .pulldata _ _ _ => none
  | .overpush _ _ _ => none
  | .backpush _ _ _ => none
  | .sread _ _ => none
  | .swrite _ => none
  | .bararr _ _ => none
  | .barrierCompletionMessage _ _ => none
  | .joindec _ _ => none
  | .cause _ _ => none
  | .fragmentRecall _ _ => none
  | .fragmentCauseDelivery _ => none
  | .copyUnitDelivered _ _ => none
  | .copyOpComplete _ => none
  | .tileRequest _ _ => none
  | .pageWalkComplete _ _ => none
  | .tileFillComplete _ _ => none
  | .mcastSectorSend _ _ => none
  | .tileOpGrant _ => none
  | .tileOpComplete _ => none
  | .tinvSweepDone _ => none
  | .deadlineFillStart _ => none
  | .deadlineFillCancel _ _ => none
  | .reservationGrant _ => none
  | .matrixOpComplete _ => none
  | .osldPageLoaded _ => none
  | .gangLatchTimeout _ _ => none
  | .aFetchXlateFault _ => none
  | .launchReady _ => none
  | .blockDispatch _ _ => none
  | .blockStopped _ => none
  | .blockResume _ _ => none
  | .preemptSoftDeadline _ => none
  | .preemptHardDeadline _ => none
  | .blockEnd _ => none
  | .launchComplete _ => none
  | .stampSweepDone _ => none
  | .reprintSelect _ => none
  | .orphanFormation _ => none
  | .serveQueue _ => none
  | .parkedQueueWake _ _ => none
  | .timeSliceEnd _ => none
  | .fencePacket _ => none
  | .signalPacket _ => none
  | .launchPacket _ => none
  | .reprintPacket _ => none
  | .feed _ => none
  | .copyPacket _ => none
  | .migrateToHost _ => none
  | .migrateToDevice _ => none
  | .tensorRegister _ => none
  | .tensorUnregister _ => none
  | .wqcfgConfigure _ => none
  | .wqcfgClose _ => none
  | .wqcfgFree _ => none
  | .dcset _ => none
  | .nopPacket _ => none
  | .queueNotify _ _ => none
  | .featureNegotiation _ => none
  | .vfCreate _ _ => none
  | .vfFlr _ _ => none
  | .vfDestroy _ _ => none
  | .migFreeze _ _ => none
  | .vfFrozen _ => none
  | .gatePark _ _ => none
  | .migResume _ _ => none
  | .migReplay _ _ => none
  | .replayDone _ => none
  | .migAbort _ _ => none
  | .partitionShape _ _ => none
  | .partitionRun _ => none
  | .partitionSuspend _ => none
  | .partitionSuspended _ => none
  | .remapCommit _ => none
  | .remapCopyDone _ => none
  | .tableUpdate _ => none
  | .tableUpdateDone _ => none
  | .tccfgWrite _ _ => none
  | .polbaseWrite _ _ => none
  | .debugResume _ _ => none
  | .debugStep _ _ => none
  | .debugHalt _ _ => none
  | .regionReset _ => none
  | .regionResetDone _ => none
  | .windowOpen _ _ _ => none
  | .windowClose _ _ => none
  | .windowCloseDone _ _ => none
  | .portAssign _ _ => none
  | .recoveryLoad => none
  | .attestation => none
  | .attestationDone => none
  | .registerWrite _ _ _ _ => none
  | .packageReset => none
  | .powerCapExceeded _ => none
  | .powerCapRelieved _ => none
  | .thermalHot _ _ => none
  | .thermalCool _ _ => none
  | .thermalTrip _ _ => none
  | .machineFault _ => none
  | .patrolScrub _ _ _ => none
  | .idlePowerEntry _ => none
  | .powerWake _ => none
  | .portLinkUp _ _ => none
  | .portLinkDown _ => none
  | .readFlit _ _ => none
  | .writeFlit _ _ => none
  | .atomicFlit _ _ => none
  | .reduceFlit _ _ => none
  | .responseFlit _ _ => none
  | .fenceFlit _ _ => none
  | .fenceackFlit _ _ => none
  | .undefinedFlit _ _ => none
  | .illegalEncoding _ => none
  | .wqOpComplete _ => none
  | .instructionFetch _ => none

/-- Every check of R47 and R69 passes. -/
def wellFormed (i : Instr) : Bool := (check i).isNone

end Sys2Proof
end

