-- ==== Sys2Proof/Decode.lean ====
section
/-! DEFINITION. Words to instructions (R58-R77), total, each refusal of R69 by name; and the encoder,
from the same format tables. -/

namespace Sys2Proof

/-- Why a word is ILLEGAL (R69). -/
inductive Reject where
  /-- An opcode that R73 or R76 reserves. -/
  | reservedOp (op : Nat)
  /-- A must-be-zero field that is not zero. -/
  | mustBeZero
  /-- A field that the instruction does not use holds another value than 63 (R68). -/
  | unusedField
  /-- The wait bit of a field that is not used is set (R68), or a handle source's (R171). -/
  | waitBit
  /-- L is 1 where b is a selector or is not taken (R67). -/
  | literalNotTaken
  /-- L is 1 and b or wB is not 0 (R67). -/
  | literalB
  /-- LOOP without its literal (R77). -/
  | loopNoLiteral
  /-- JMPV or another unguarded form with a guard (R158). -/
  | guarded
  /-- VB with bit 18 equal to 0 (R69). -/
  | vbBit18
  /-- A check of R47 or R69 on a field's value. -/
  | illFormed (e : WfError)
  deriving DecidableEq, Repr

/-- A reader of one format: the word and the literal word that follows it. -/
abbrev Reader := Word → Word → Except Reject Instr

/-- An encoded instruction: its word and its literal word (R58). -/
structure Code where
  word : Word
  lit : Option Word
  deriving DecidableEq, Repr

/-! Format layouts (R59-R65). -/

/-- VR and UR (R59): op, g, wA, wB, L, d, a, b. -/
def wordR (op : BitVec 8) (g : BitVec 3) (wA wB l : BitVec 1) (d a b : BitVec 6) : Word :=
  op ++ g ++ wA ++ wB ++ l ++ d ++ a ++ b
/-- VF (R60) and UE (R65): op and four register fields. -/
def wordF (op : BitVec 8) (c d a b : BitVec 6) : Word := op ++ c ++ d ++ a ++ b
/-- VC (R61), VM and UM (R62): op, g, w, d, a, k. -/
def wordM (op : BitVec 8) (g : BitVec 3) (w : BitVec 1) (d a : BitVec 6) (k : BitVec 8) : Word :=
  op ++ g ++ w ++ d ++ a ++ k
/-- VB (R63): op, p, n, X, bit 18, target. -/
def wordVB (op : BitVec 8) (p : BitVec 3) (n x m : BitVec 1) (t : BitVec 18) : Word :=
  op ++ p ++ n ++ x ++ m ++ t
/-- UB (R63): op, q, n, offset. -/
def wordUB (op : BitVec 8) (q : BitVec 3) (n : BitVec 1) (o : BitVec 20) : Word := op ++ q ++ n ++ o
/-- VK and UK (R64): set, 0b11 and op3 in six bits, d, imm20. -/
def wordK (k : BitVec 6) (d : BitVec 6) (i : BitVec 20) : Word := k ++ d ++ i
/-- UC (R65): op, q, three zero bits, d, index. -/
def wordUC (op : BitVec 8) (q z : BitVec 3) (d : BitVec 6) (i : BitVec 12) : Word := op ++ q ++ z ++ d ++ i
/-- FENCE (R65): op, scope, kind, zeros. -/
def wordFence (op : BitVec 8) (s : BitVec 3) (k : BitVec 2) (z : BitVec 19) : Word := op ++ s ++ k ++ z

/-- The field of len bits at lo. -/
abbrev fld (w : Word) (lo len : Nat) : BitVec len := w.extractLsb' lo len
/-- One bit of a word. -/
abbrev bit (w : Word) (n : Nat) : Bool := fld w n 1 == 1#1

/-- Refuses with r unless the check holds. -/
def want (ok : Bool) (r : Reject) (k : Except Reject α) : Except Reject α :=
  if ok then k else .error r

/-! The second source (R59, R67). -/

/-- wB of the encoding; 0 beside a literal (R67). -/
def SrcB.waitBit : SrcB → BitVec 1
  | .reg w _ => BitVec.ofBool w
  | .lit _ => 0
/-- L of the encoding. -/
def SrcB.litBit : SrcB → BitVec 1
  | .reg _ _ => 0
  | .lit _ => 1
/-- Field b of the encoding; 0 beside a literal (R67). -/
def SrcB.field : SrcB → BitVec 6
  | .reg _ r => r
  | .lit _ => 0
/-- The literal word, when there is one. -/
def SrcB.literal : SrcB → Option Word
  | .reg _ _ => none
  | .lit v => some v

/-- Reads wB, L and b (R59, R67). -/
def readB (w lit : Word) (k : SrcB → Except Reject Instr) : Except Reject Instr :=
  if fld w 18 1 = 1#1 then
    want (fld w 19 1 == 0 && fld w 0 6 == 0) .literalB (k (.lit lit))
  else k (.reg (bit w 19) (fld w 0 6))

/-- L must be 0 where b is a selector or is not taken (R67), and wB with it (R68). -/
def noLit (w : Word) (k : Except Reject Instr) : Except Reject Instr :=
  want (fld w 18 1 == 0) .literalNotTaken (want (fld w 19 1 == 0) .waitBit k)
/-- As noLit, and wA is 0 as well. -/
def noWait (w : Word) (k : Except Reject Instr) : Except Reject Instr :=
  noLit w (want (fld w 20 1 == 0) .waitBit k)
/-- Field d at [17:12] holds 63 (R68). -/
def noD (w : Word) (k : Except Reject Instr) : Except Reject Instr := want (fld w 12 6 == 63) .unusedField k
/-- Field a at [11:6] holds 63 (R68). -/
def noA (w : Word) (k : Except Reject Instr) : Except Reject Instr := want (fld w 6 6 == 63) .unusedField k
/-- Field b (or c of UE) at [5:0] holds 63 (R68). -/
def noB (w : Word) (k : Except Reject Instr) : Except Reject Instr := want (fld w 0 6 == 63) .unusedField k

/-! Readers and encoders, one pair a format. -/

/-- VR and UR with d, a and b. -/
def readR3 (mk : R3 → Instr) : Reader := fun w lit =>
  readB w lit fun b => .ok (mk ⟨fld w 21 3, bit w 20, fld w 12 6, fld w 6 6, b⟩)
/-- Encoding of R3. -/
def R3.code (op : BitVec 8) (f : R3) : Code :=
  ⟨wordR op f.g (.ofBool f.wA) f.b.waitBit f.b.litBit f.d f.a f.b.field, f.b.literal⟩

/-- VR and UR with d and a. -/
def readR2 (mk : R2 → Instr) : Reader := fun w _ =>
  noLit w (noB w (.ok (mk ⟨fld w 21 3, bit w 20, fld w 12 6, fld w 6 6⟩)))
/-- Encoding of R2. -/
def R2.code (op : BitVec 8) (f : R2) : Code := ⟨wordR op f.g (.ofBool f.wA) 0 0 f.d f.a 63, none⟩

/-- UR with a alone. -/
def readR1 (mk : R1 → Instr) : Reader := fun w _ =>
  noLit w (noD w (noB w (.ok (mk ⟨fld w 21 3, bit w 20, fld w 6 6⟩))))
/-- Encoding of R1. -/
def R1.code (op : BitVec 8) (f : R1) : Code := ⟨wordR op f.g (.ofBool f.wA) 0 0 63 f.a 63, none⟩

/-- UR with its guard alone. -/
def readG (mk : G → Instr) : Reader := fun w _ =>
  noWait w (noD w (noA w (noB w (.ok (mk ⟨fld w 21 3⟩)))))
/-- Encoding of G. -/
def G.code (op : BitVec 8) (f : G) : Code := ⟨wordR op f.g 0 0 0 63 63 63, none⟩

/-- Compares (R59): condition and predicate in d. -/
def readRCmp (mk : RCmp → Instr) : Reader := fun w lit =>
  readB w lit fun b => .ok (mk ⟨fld w 21 3, bit w 20, fld w 15 3, fld w 12 3, fld w 6 6, b⟩)
/-- Encoding of RCmp. -/
def RCmp.code (op : BitVec 8) (f : RCmp) : Code :=
  ⟨wordR op f.g (.ofBool f.wA) f.b.waitBit f.b.litBit (f.c ++ f.p) f.a f.b.field, f.b.literal⟩

/-- FRND (R133). -/
def readRFrnd (mk : RFrnd → Instr) : Reader := fun w _ =>
  noLit w (want (fld w 2 4 == 0) (.illFormed (.badSelector (fld w 0 6).toNat))
    (.ok (mk ⟨fld w 21 3, bit w 20, fld w 12 6, fld w 6 6, fld w 0 2⟩)))
/-- Encoding of RFrnd. -/
def RFrnd.code (op : BitVec 8) (f : RFrnd) : Code :=
  ⟨wordR op f.g (.ofBool f.wA) 0 0 f.d f.a (0#4 ++ f.m), none⟩

/-- CVT (R137). -/
def readRCvt (mk : RCvt → Instr) : Reader := fun w _ =>
  noLit w (.ok (mk ⟨fld w 21 3, bit w 20, fld w 12 6, fld w 6 6, fld w 0 6⟩))
/-- Encoding of RCvt. -/
def RCvt.code (op : BitVec 8) (f : RCvt) : Code := ⟨wordR op f.g (.ofBool f.wA) 0 0 f.d f.a f.k, none⟩

/-- SFU (R73): the function in b. -/
def readSfu (w _lit : Word) : Except Reject Instr :=
  noLit w (
    let f : R2 := ⟨fld w 21 3, bit w 20, fld w 12 6, fld w 6 6⟩
    let n := (fld w 0 6).toNat
    if n = 0 then .ok (.frcp f) else if n = 1 then .ok (.frsq f) else if n = 2 then .ok (.fsqrt f)
    else if n = 3 then .ok (.fexp2 f) else if n = 4 then .ok (.flog2 f) else if n = 5 then .ok (.fsin f)
    else if n = 6 then .ok (.fcos f) else if n = 7 then .ok (.ftanh f)
    else .error (.illFormed (.badSelector n)))
/-- Encoding of an SFU function n. -/
def R2.sfuCode (n : BitVec 6) (f : R2) : Code := ⟨wordR 0x22 f.g (.ofBool f.wA) 0 0 f.d f.a n, none⟩

/-- VF (R60). -/
def readF4 (mk : F4 → Instr) : Reader := fun w _ =>
  .ok (mk ⟨fld w 18 6, fld w 12 6, fld w 6 6, fld w 0 6⟩)
/-- Encoding of F4. -/
def F4.code (op : BitVec 8) (f : F4) : Code := ⟨wordF op f.c f.d f.a f.b, none⟩

/-- VC (R61). -/
def readC3 (mk : C3 → Instr) : Reader := fun w _ =>
  .ok (mk ⟨fld w 21 3, bit w 20, fld w 14 6, fld w 8 6, fld w 0 8⟩)
/-- Encoding of C3. -/
def C3.code (op : BitVec 8) (f : C3) : Code := ⟨wordM op f.g (.ofBool f.wA) f.d f.a f.k, none⟩

/-- MOVCB (R142): a holds 63 and wA 0. -/
def readCMov (mk : CMov → Instr) : Reader := fun w _ =>
  want (fld w 20 1 == 0) .waitBit (want (fld w 8 6 == 63) .unusedField
    (.ok (mk ⟨fld w 21 3, fld w 14 6, fld w 0 8⟩)))
/-- Encoding of CMov. -/
def CMov.code (op : BitVec 8) (f : CMov) : Code := ⟨wordM op f.g 0 f.d 63 f.k, none⟩

/-- Plain VM and UM (R62). -/
def readM (mk : M → Instr) : Reader := fun w _ =>
  .ok (mk ⟨fld w 21 3, bit w 20, fld w 14 6, fld w 8 6, fld w 0 8⟩)
/-- Encoding of M. -/
def M.code (op : BitVec 8) (f : M) : Code := ⟨wordM op f.g (.ofBool f.w) f.d f.a f.o, none⟩

/-- Scoped VM and UM (R62). -/
def readMS (mk : MS → Instr) : Reader := fun w _ =>
  want (fld w 0 5 == 0) .mustBeZero (.ok (mk ⟨fld w 21 3, bit w 20, fld w 14 6, fld w 8 6, fld w 5 3⟩))
/-- Encoding of MS. -/
def MS.code (op : BitVec 8) (f : MS) : Code := ⟨wordM op f.g (.ofBool f.w) f.d f.a (f.s ++ 0#5), none⟩

/-- CBSET (R236). -/
def readCbSet (mk : CbSet → Instr) : Reader := fun w _ =>
  want (fld w 14 6 == 63) .unusedField (want (fld w 4 4 == 0) .mustBeZero
    (.ok (mk ⟨fld w 21 3, bit w 20, fld w 8 6, fld w 0 4⟩)))
/-- Encoding of CbSet. -/
def CbSet.code (op : BitVec 8) (f : CbSet) : Code := ⟨wordM op f.g (.ofBool f.w) 63 f.a (0#4 ++ f.n), none⟩

/-- VOTE (R163). -/
def readVote (mk : Vote → Instr) : Reader := fun w _ =>
  noWait w (noB w (want (fld w 9 3 == 0) .mustBeZero
    (.ok (mk ⟨fld w 21 3, fld w 15 3, fld w 12 3, fld w 6 3⟩))))
/-- Encoding of Vote. -/
def Vote.code (op : BitVec 8) (f : Vote) : Code := ⟨wordR op f.g 0 0 0 (f.m ++ f.p) (0#3 ++ f.t) 63, none⟩

/-- BALLOT (R163). -/
def readBallot (mk : Ballot → Instr) : Reader := fun w _ =>
  noWait w (noB w (want (fld w 9 3 == 0) .mustBeZero
    (.ok (mk ⟨fld w 21 3, fld w 12 6, fld w 6 3⟩))))
/-- Encoding of Ballot. -/
def Ballot.code (op : BitVec 8) (f : Ballot) : Code := ⟨wordR op f.g 0 0 0 f.d (0#3 ++ f.t) 63, none⟩

/-- Reductions (R165). -/
def readRed (mk : Red → Instr) : Reader := fun w _ =>
  noLit w (noB w (want (fld w 14 4 == 0) .mustBeZero
    (.ok (mk ⟨fld w 21 3, bit w 20, fld w 12 2, fld w 6 6⟩))))
/-- Encoding of Red. -/
def Red.code (op : BitVec 8) (f : Red) : Code := ⟨wordR op f.g (.ofBool f.wA) 0 0 (0#4 ++ f.n) f.a 63, none⟩

/-- PLOP and QLOP (R149, R163). -/
def readPLop (mk : PLop → Instr) : Reader := fun w _ =>
  noWait w (want (fld w 9 3 == 0 && fld w 3 3 == 0) .mustBeZero
    (.ok (mk ⟨fld w 21 3, fld w 15 3, fld w 12 3, fld w 6 3, fld w 0 3⟩)))
/-- Encoding of PLop. -/
def PLop.code (op : BitVec 8) (f : PLop) : Code :=
  ⟨wordR op f.g 0 0 0 (f.f ++ f.p) (0#3 ++ f.t) (0#3 ++ f.u), none⟩

/-- BRD (R63). -/
def readBrdOps (mk : BrdOps → Instr) : Reader := fun w lit =>
  want (fld w 18 1 == 1) .vbBit18 (.ok (mk ⟨fld w 21 3, bit w 20, bit w 19, fld w 0 18, lit⟩))
/-- Encoding of BrdOps. -/
def BrdOps.code (op : BitVec 8) (f : BrdOps) : Code :=
  ⟨wordVB op f.p (.ofBool f.n) (.ofBool f.x) 1 f.t, some f.j⟩

/-- JMPV (R158): unguarded, d holds 63. -/
def readJmpV (mk : JmpV → Instr) : Reader := fun w lit =>
  want (fld w 21 3 == 7) .guarded (noD w (readB w lit fun b => .ok (mk ⟨bit w 20, fld w 6 6, b⟩)))
/-- Encoding of JmpV. -/
def JmpV.code (op : BitVec 8) (f : JmpV) : Code :=
  ⟨wordR op 7 (.ofBool f.wA) f.b.waitBit f.b.litBit 63 f.a f.b.field, f.b.literal⟩

/-- CSRV (R164). -/
def readCsrV (mk : CsrV → Instr) : Reader := fun w _ =>
  noWait w (noA w (.ok (mk ⟨fld w 21 3, fld w 12 6, fld w 0 6⟩)))
/-- Encoding of CsrV. -/
def CsrV.code (op : BitVec 8) (f : CsrV) : Code := ⟨wordR op f.g 0 0 0 f.d 63 f.b, none⟩

/-- VK and UK (R64). -/
def readK (mk : K → Instr) : Reader := fun w _ => .ok (mk ⟨fld w 20 6, fld w 0 20⟩)
/-- Encoding of K under the six bits of set, 0b11 and op3 (R75). -/
def K.code (k : BitVec 6) (f : K) : Code := ⟨wordK k f.d f.i, none⟩

/-- UB (R63). -/
def readUB (mk : UB → Instr) : Reader := fun w _ => .ok (mk ⟨fld w 21 3, bit w 20, fld w 0 20⟩)
/-- Encoding of UB. -/
def UB.code (op : BitVec 8) (f : UB) : Code := ⟨wordUB op f.g (.ofBool f.n) f.o, none⟩

/-- LOOP (R77, R159): the literal is required. -/
def readLoopOps (mk : LoopOps → Instr) : Reader := fun w lit =>
  want (fld w 18 1 == 1) .loopNoLiteral (want (fld w 19 1 == 0 && fld w 0 6 == 0) .literalB
    (want (fld w 20 1 == 0) .waitBit (noA w (.ok (mk ⟨fld w 21 3, fld w 12 6, lit⟩)))))
/-- Encoding of LoopOps. -/
def LoopOps.code (op : BitVec 8) (f : LoopOps) : Code := ⟨wordR op f.g 0 0 1 f.d 63 0, some f.o⟩

/-- TRAP (R179). -/
def readTrapOps (mk : TrapOps → Instr) : Reader := fun w _ =>
  noLit w (noD w (.ok (mk ⟨fld w 21 3, bit w 20, fld w 6 6, fld w 0 6⟩)))
/-- Encoding of TrapOps. -/
def TrapOps.code (op : BitVec 8) (f : TrapOps) : Code := ⟨wordR op f.g (.ofBool f.wA) 0 0 63 f.a f.b, none⟩

/-- SLEEP (R159). -/
def readSleepOps (mk : SleepOps → Instr) : Reader := fun w lit =>
  want (fld w 20 1 == 0) .waitBit (noD w (noA w (readB w lit fun b => .ok (mk ⟨fld w 21 3, b⟩))))
/-- Encoding of SleepOps. -/
def SleepOps.code (op : BitVec 8) (f : SleepOps) : Code :=
  ⟨wordR op f.g 0 f.b.waitBit f.b.litBit 63 63 f.b.field, f.b.literal⟩

/-- UC (R65). -/
def readUC (mk : UC → Instr) : Reader := fun w _ =>
  want (fld w 18 3 == 0) .mustBeZero (.ok (mk ⟨fld w 21 3, fld w 12 6, fld w 0 12⟩))
/-- Encoding of UC. -/
def UC.code (op : BitVec 8) (f : UC) : Code := ⟨wordUC op f.g 0 f.d f.i, none⟩

/-- SETFMT (R173). -/
def readSetFmtOps (mk : SetFmtOps → Instr) : Reader := fun w lit =>
  want (fld w 20 1 == 0) .waitBit (noA w (readB w lit fun b => .ok (mk ⟨fld w 21 3, fld w 12 6, b⟩)))
/-- Encoding of SetFmtOps. -/
def SetFmtOps.code (op : BitVec 8) (f : SetFmtOps) : Code :=
  ⟨wordR op f.g 0 f.b.waitBit f.b.litBit f.d 63 f.b.field, f.b.literal⟩

/-- TBINIT and TBWAIT (R244, R246). -/
def readTbOps (mk : TbOps → Instr) : Reader := fun w lit =>
  noD w (readB w lit fun b => .ok (mk ⟨fld w 21 3, bit w 20, fld w 6 6, b⟩))
/-- Encoding of TbOps. -/
def TbOps.code (op : BitVec 8) (f : TbOps) : Code :=
  ⟨wordR op f.g (.ofBool f.wA) f.b.waitBit f.b.litBit 63 f.a f.b.field, f.b.literal⟩

/-- FENCE (R65): the kind chooses the constructor. -/
def readFence (w _lit : Word) : Except Reject Instr :=
  want (fld w 0 19 == 0) .mustBeZero (
    let f : Sc := ⟨fld w 21 3⟩
    if fld w 19 2 = 0 then .ok (.fenceAcq f) else if fld w 19 2 = 1 then .ok (.fenceRel f)
    else if fld w 19 2 = 2 then .ok (.fenceAr f) else .ok (.fenceEng f))
/-- Encoding of a FENCE of kind k. -/
def Sc.code (k : BitVec 2) (f : Sc) : Code := ⟨wordFence 0xB8 f.s k 0, none⟩

/-- FTEST and FCANCEL (R171). -/
def readFTestOps (mk : FTestOps → Instr) : Reader := fun w _ =>
  noWait w (noB w (want (fld w 15 3 == 0) .mustBeZero (.ok (mk ⟨fld w 21 3, fld w 12 3, fld w 6 6⟩))))
/-- Encoding of FTestOps. -/
def FTestOps.code (op : BitVec 8) (f : FTestOps) : Code := ⟨wordR op f.g 0 0 0 (0#3 ++ f.p) f.a 63, none⟩

/-- FMOVE and FWAIT (R171). -/
def readFMoveOps (mk : FMoveOps → Instr) : Reader := fun w _ =>
  noWait w (noB w (.ok (mk ⟨fld w 21 3, fld w 12 6, fld w 6 6⟩)))
/-- Encoding of FMoveOps. -/
def FMoveOps.code (op : BitVec 8) (f : FMoveOps) : Code := ⟨wordR op f.g 0 0 0 f.d f.a 63, none⟩

/-- SHRMAP (R168): d, a and b all 63 ends the mapping. -/
def readShr (mk : Shr → Instr) : Reader := fun w _ =>
  noLit w (
    if fld w 12 6 = 63 ∧ fld w 6 6 = 63 ∧ fld w 0 6 = 63 then
      want (fld w 20 1 == 0) .waitBit (.ok (mk (.unmap (fld w 21 3))))
    else want (fld w 4 2 == 0) .mustBeZero
      (.ok (mk (.map (fld w 21 3) (bit w 20) (fld w 12 6) (fld w 6 6) (fld w 0 4)))))
/-- Encoding of Shr. -/
def Shr.code (op : BitVec 8) : Shr → Code
  | .map g wA f a c => ⟨wordR op g (.ofBool wA) 0 0 f a (0#2 ++ c), none⟩
  | .unmap g => ⟨wordR op g 0 0 0 63 63 63, none⟩

/-- SQRD (R167). -/
def readSqRdOps (mk : SqRdOps → Instr) : Reader := fun w lit =>
  want (fld w 20 1 == 0) .waitBit (want (fld w 8 4 == 0) .mustBeZero
    (readB w lit fun b => .ok (mk ⟨fld w 21 3, fld w 12 6, fld w 6 2, b⟩)))
/-- Encoding of SqRdOps. -/
def SqRdOps.code (op : BitVec 8) (f : SqRdOps) : Code :=
  ⟨wordR op f.g 0 f.b.waitBit f.b.litBit f.d (0#4 ++ f.n) f.b.field, f.b.literal⟩

/-- UE with d and a (R65). -/
def readE2 (mk : E2 → Instr) : Reader := fun w _ => noA w (noB w (.ok (mk ⟨fld w 18 6, fld w 12 6⟩)))
/-- Encoding of E2. -/
def E2.code (op : BitVec 8) (f : E2) : Code := ⟨wordF op f.d f.a 63 63, none⟩
/-- UE with d, a and b. -/
def readE3 (mk : E3 → Instr) : Reader := fun w _ => noB w (.ok (mk ⟨fld w 18 6, fld w 12 6, fld w 6 6⟩))
/-- Encoding of E3. -/
def E3.code (op : BitVec 8) (f : E3) : Code := ⟨wordF op f.d f.a f.b 63, none⟩
/-- UE with every field. -/
def readE4 (mk : E4 → Instr) : Reader := fun w _ =>
  .ok (mk ⟨fld w 18 6, fld w 12 6, fld w 6 6, fld w 0 6⟩)
/-- Encoding of E4. -/
def E4.code (op : BitVec 8) (f : E4) : Code := ⟨wordF op f.d f.a f.b f.c, none⟩
/-- UE with d and c. -/
def readEDC (mk : EDC → Instr) : Reader := fun w _ => noD w (noA w (.ok (mk ⟨fld w 18 6, fld w 0 6⟩)))
/-- Encoding of EDC. -/
def EDC.code (op : BitVec 8) (f : EDC) : Code := ⟨wordF op f.d 63 63 f.c, none⟩
/-- UE with d, a and c. -/
def readEDAC (mk : EDAC → Instr) : Reader := fun w _ =>
  noA w (.ok (mk ⟨fld w 18 6, fld w 12 6, fld w 0 6⟩))
/-- Encoding of EDAC. -/
def EDAC.code (op : BitVec 8) (f : EDAC) : Code := ⟨wordF op f.d f.a 63 f.c, none⟩

/-! The opcode maps (R73-R77); the key is bits [31:24]. -/

/-- V-set opcodes 0x00-0x2E (R73). -/
def rowsV0 : List (Nat × Reader) :=
  [(0x00, readR3 .iadd),
   (0x01, readR3 .isub),
   (0x02, readR3 .imul),
   (0x03, readR3 .imulh),
   (0x04, readR3 .imulhu),
   (0x05, readR3 .imin),
   (0x06, readR3 .imax),
   (0x07, readR3 .iminu),
   (0x08, readR3 .imaxu),
   (0x09, readR2 .iabs),
   (0x0A, readR3 .and),
   (0x0B, readR3 .or),
   (0x0C, readR3 .xor),
   (0x0D, readR3 .andn),
   (0x0E, readR3 .shl),
   (0x0F, readR3 .shr),
   (0x10, readR3 .sar),
   (0x11, readR3 .rol),
   (0x12, readR2 .popc),
   (0x13, readR2 .clz),
   (0x14, readR2 .brev),
   (0x15, readR3 .leaw),
   (0x16, readR3 .lead),
   (0x17, readRCmp .icmp),
   (0x18, readR3 .fadd),
   (0x19, readR3 .fsub),
   (0x1A, readR3 .fmul),
   (0x1B, readR3 .fmar),
   (0x1C, readR3 .fmin),
   (0x1D, readR3 .fmax),
   (0x1E, readR2 .fabs),
   (0x1F, readR2 .fneg),
   (0x20, readRCmp .fcmp),
   (0x21, readRFrnd .frnd),
   (0x22, readSfu),
   (0x23, readR3 .hadd2),
   (0x24, readR3 .hmul2),
   (0x25, readR3 .hmax2),
   (0x26, readRCvt .cvt),
   (0x27, readR3 .k4dec),
   (0x28, readF4 .imad),
   (0x29, readF4 .bfx),
   (0x2A, readF4 .bfi),
   (0x2B, readF4 .sel),
   (0x2C, readF4 .ffma),
   (0x2D, readF4 .ffman),
   (0x2E, readF4 .hfma2)]

/-- V-set opcodes 0x30-0x5F (R73). -/
def rowsV1 : List (Nat × Reader) :=
  [(0x30, readC3 .faddcb),
   (0x31, readC3 .fmulcb),
   (0x32, readC3 .fmarcb),
   (0x33, readCMov .movcb),
   (0x34, readM .ldbs),
   (0x35, readM .ldbu),
   (0x36, readM .ldhs),
   (0x37, readM .ldhu),
   (0x38, readM .ldw),
   (0x39, readM .ldd),
   (0x3A, readM .ldq),
   (0x3B, readM .ldp),
   (0x3C, readMS .ldacq),
   (0x3D, readM .stb),
   (0x3E, readM .sth),
   (0x3F, readM .stw),
   (0x40, readM .std),
   (0x41, readM .stq),
   (0x42, readMS .strel),
   (0x43, readM .ldlf),
   (0x44, readM .ldlc),
   (0x45, readM .stlf),
   (0x46, readMS .atadd),
   (0x47, readMS .atmin),
   (0x48, readMS .atmax),
   (0x49, readMS .atand),
   (0x4A, readMS .ator),
   (0x4B, readMS .atxor),
   (0x4C, readMS .atxch),
   (0x4D, readMS .atcas),
   (0x4E, readMS .atfadd),
   (0x4F, readM .tldg),
   (0x50, readR3 .shfli),
   (0x51, readR3 .shflu),
   (0x52, readR3 .shfld),
   (0x53, readR3 .shflx),
   (0x54, readVote .vote),
   (0x55, readBallot .ballot),
   (0x56, readRed .redadd),
   (0x57, readRed .redmin),
   (0x58, readRed .redmax),
   (0x59, readRed .redfadd),
   (0x5A, readR3 .readlane),
   (0x5B, readR2 .bcast),
   (0x5C, readPLop .plop),
   (0x5D, readBrdOps .brd),
   (0x5E, readJmpV .jmpv),
   (0x5F, readCsrV .csrv)]

/-- U-set opcodes 0x00-0x2F (R76). -/
def rowsU0 : List (Nat × Reader) :=
  [(0x80, readR3 .sadd),
   (0x81, readR3 .ssub),
   (0x82, readR3 .smul),
   (0x83, readR3 .smulh),
   (0x84, readR3 .sand),
   (0x85, readR3 .sor),
   (0x86, readR3 .sxor),
   (0x87, readR3 .sshl),
   (0x88, readR3 .sshr),
   (0x89, readR3 .ssar),
   (0x8A, readR3 .smin),
   (0x8B, readR3 .smax),
   (0x8C, readR3 .sminu),
   (0x8D, readR3 .smaxu),
   (0x8E, readRCmp .scmp),
   (0x8F, readR3 .slea),
   (0x90, readR2 .spopc),
   (0x91, readR2 .sclz),
   (0x92, readR3 .ssel),
   (0x93, readPLop .qlop),
   (0x94, readM .sldw),
   (0x95, readM .sldd),
   (0x96, readM .sldq),
   (0x97, readM .sstw),
   (0x98, readM .sstd),
   (0x99, readM .sldcb),
   (0x9A, readCbSet .cbset),
   (0x9B, readMS .sldacq),
   (0x9C, readMS .sstrel),
   (0x9D, readMS .satadd),
   (0x9E, readMS .satcas),
   (0x9F, readMS .waitv),
   (0xA0, readUB .bra),
   (0xA1, readR1 .jmp),
   (0xA2, readUB .call),
   (0xA3, readR1 .callr),
   (0xA4, readG .ret),
   (0xA5, readLoopOps .loop),
   (0xA6, readTrapOps .trap),
   (0xA7, readG .eret),
   (0xA8, readG .yield),
   (0xA9, readG .bkpt),
   (0xAA, readG .exit),
   (0xAB, readG .nop),
   (0xAC, readSleepOps .sleep),
   (0xAD, readUC .csrr),
   (0xAE, readUC .csrw),
   (0xAF, readSetFmtOps .setfmt)]

/-- U-set opcodes 0x30-0x5F (R76). -/
def rowsU1 : List (Nat × Reader) :=
  [(0xB0, readG .bar),
   (0xB1, readG .bara),
   (0xB2, readG .barw),
   (0xB3, readG .cbara),
   (0xB4, readG .cbarw),
   (0xB5, readTbOps .tbinit),
   (0xB6, readR3 .tbarv),
   (0xB7, readTbOps .tbwait),
   (0xB8, readFence),
   (0xB9, readFTestOps .ftest),
   (0xBA, readFMoveOps .fmove),
   (0xBB, readFTestOps .fcancel),
   (0xBC, readFMoveOps .fwait),
   (0xBD, readShr .shrmap),
   (0xBE, readSqRdOps .sqrd),
   (0xC0, readE2 .copy),
   (0xC1, readE2 .copyx),
   (0xC2, readE2 .copyl),
   (0xC3, readE4 .mcast),
   (0xC4, readE4 .fillz),
   (0xC8, readE4 .mma),
   (0xC9, readEDC .mmaz),
   (0xCA, readE4 .accrd),
   (0xCB, readEDAC .accst),
   (0xCC, readEDAC .accld),
   (0xCD, readE4 .osld),
   (0xCE, readEDAC .topkr),
   (0xD0, readE2 .tlook),
   (0xD1, readE3 .tpref),
   (0xD2, readE4 .thalo),
   (0xD3, readEDAC .tinv),
   (0xD4, readE3 .twb),
   (0xD5, readE4 .tdead),
   (0xD6, readE4 .tview),
   (0xD8, readE3 .launch),
   (0xD9, readE2 .join),
   (0xDA, readE3 .reprint),
   (0xDB, readE3 .wqpush),
   (0xDC, readE3 .wqpop),
   (0xDD, readE2 .wqwait),
   (0xDE, readE4 .tracex)]

/-- VK and UK (R75); the key is the set bit above op3. -/
def rowsK : List (Nat × Reader) :=
  [(0, readK .faddk),
   (1, readK .fmulk),
   (2, readK .fmovk),
   (3, readK .iaddk),
   (4, readK .imovk),
   (5, readK .andk),
   (6, readK .ork),
   (7, readK .xork),
   (8, readK .saddk),
   (9, readK .smovk),
   (10, readK .sandk),
   (11, readK .sork),
   (12, readK .sxork),
   (13, readK .smulk),
   (14, readK .sshlk),
   (15, readK .sshrk)]

/-- The reader listed under a key. -/
def findRow (k : Nat) : List (Nat × Reader) → Option Reader
  | [] => none
  | (n, r) :: rest => if n = k then some r else findRow k rest

/-- The reader of a word (R73-R77): by op3 where bits [30:29] are 0b11 (R75), else by [31:24]. -/
def readerOf (w : Word) : Option Reader :=
  if fld w 29 2 = 3 then findRow ((fld w 31 1 ++ fld w 26 3 : BitVec 4)).toNat rowsK
  else
    let k := (fld w 24 8).toNat
    if k < 0x30 then findRow k rowsV0 else if k < 0x60 then findRow k rowsV1
    else if k < 0xB0 then findRow k rowsU0 else findRow k rowsU1

/-- The fields of a word, before the checks on their values. -/
def readWord (w lit : Word) : Except Reject Instr :=
  match readerOf w with
  | none => .error (.reservedOp (fld w 24 8).toNat)
  | some r => r w lit

/-- R69: every word is an instruction or is refused by name; lit is the word that follows it. -/
def decode (w lit : Word) : Except Reject Instr :=
  match readWord w lit with
  | .error r => .error r
  | .ok i =>
    match check i with
    | some e => .error (.illFormed e)
    | none => .ok i

/-- R74, R77: the opcodes [31:24] whose format has an L bit. -/
def formatHasL (k : Nat) : Bool :=
  k < 0x28 || (0x50 ≤ k && k < 0x60 && k != 0x5D) || (0x80 ≤ k && k < 0x94) ||
  k == 0xA1 || (0xA3 ≤ k && k < 0xAD) || (0xAF ≤ k && k < 0xB8) || (0xB9 ≤ k && k < 0xBF)

/-- R58: the instruction is followed by one literal word. -/
def takesLiteral (w : Word) : Bool :=
  let k := (fld w 24 8).toNat
  k == 0x5D || (formatHasL k && fld w 18 1 == 1)

/-- R58: length of the instruction in bytes. -/
def wordLength (w : Word) : Nat := if takesLiteral w then 8 else 4

/-- The words of an instruction (R58-R65, R73-R77); an event has none. -/
def encode (i : Instr) : Option Code :=
  match i with
  | .iadd f => some (f.code 0x00)
  | .isub f => some (f.code 0x01)
  | .imul f => some (f.code 0x02)
  | .imulh f => some (f.code 0x03)
  | .imulhu f => some (f.code 0x04)
  | .imin f => some (f.code 0x05)
  | .imax f => some (f.code 0x06)
  | .iminu f => some (f.code 0x07)
  | .imaxu f => some (f.code 0x08)
  | .iabs f => some (f.code 0x09)
  | .and f => some (f.code 0x0A)
  | .or f => some (f.code 0x0B)
  | .xor f => some (f.code 0x0C)
  | .andn f => some (f.code 0x0D)
  | .shl f => some (f.code 0x0E)
  | .shr f => some (f.code 0x0F)
  | .sar f => some (f.code 0x10)
  | .rol f => some (f.code 0x11)
  | .popc f => some (f.code 0x12)
  | .clz f => some (f.code 0x13)
  | .brev f => some (f.code 0x14)
  | .leaw f => some (f.code 0x15)
  | .lead f => some (f.code 0x16)
  | .icmp f => some (f.code 0x17)
  | .fadd f => some (f.code 0x18)
  | .fsub f => some (f.code 0x19)
  | .fmul f => some (f.code 0x1A)
  | .fmar f => some (f.code 0x1B)
  | .fmin f => some (f.code 0x1C)
  | .fmax f => some (f.code 0x1D)
  | .fabs f => some (f.code 0x1E)
  | .fneg f => some (f.code 0x1F)
  | .fcmp f => some (f.code 0x20)
  | .frnd f => some (f.code 0x21)
  | .frcp f => some (f.sfuCode 0)
  | .frsq f => some (f.sfuCode 1)
  | .fsqrt f => some (f.sfuCode 2)
  | .fexp2 f => some (f.sfuCode 3)
  | .flog2 f => some (f.sfuCode 4)
  | .fsin f => some (f.sfuCode 5)
  | .fcos f => some (f.sfuCode 6)
  | .ftanh f => some (f.sfuCode 7)
  | .hadd2 f => some (f.code 0x23)
  | .hmul2 f => some (f.code 0x24)
  | .hmax2 f => some (f.code 0x25)
  | .cvt f => some (f.code 0x26)
  | .k4dec f => some (f.code 0x27)
  | .imad f => some (f.code 0x28)
  | .bfx f => some (f.code 0x29)
  | .bfi f => some (f.code 0x2A)
  | .sel f => some (f.code 0x2B)
  | .ffma f => some (f.code 0x2C)
  | .ffman f => some (f.code 0x2D)
  | .hfma2 f => some (f.code 0x2E)
  | .faddcb f => some (f.code 0x30)
  | .fmulcb f => some (f.code 0x31)
  | .fmarcb f => some (f.code 0x32)
  | .movcb f => some (f.code 0x33)
  | .ldbs f => some (f.code 0x34)
  | .ldbu f => some (f.code 0x35)
  | .ldhs f => some (f.code 0x36)
  | .ldhu f => some (f.code 0x37)
  | .ldw f => some (f.code 0x38)
  | .ldd f => some (f.code 0x39)
  | .ldq f => some (f.code 0x3A)
  | .ldp f => some (f.code 0x3B)
  | .ldacq f => some (f.code 0x3C)
  | .stb f => some (f.code 0x3D)
  | .sth f => some (f.code 0x3E)
  | .stw f => some (f.code 0x3F)
  | .std f => some (f.code 0x40)
  | .stq f => some (f.code 0x41)
  | .strel f => some (f.code 0x42)
  | .ldlf f => some (f.code 0x43)
  | .ldlc f => some (f.code 0x44)
  | .stlf f => some (f.code 0x45)
  | .atadd f => some (f.code 0x46)
  | .atmin f => some (f.code 0x47)
  | .atmax f => some (f.code 0x48)
  | .atand f => some (f.code 0x49)
  | .ator f => some (f.code 0x4A)
  | .atxor f => some (f.code 0x4B)
  | .atxch f => some (f.code 0x4C)
  | .atcas f => some (f.code 0x4D)
  | .atfadd f => some (f.code 0x4E)
  | .tldg f => some (f.code 0x4F)
  | .shfli f => some (f.code 0x50)
  | .shflu f => some (f.code 0x51)
  | .shfld f => some (f.code 0x52)
  | .shflx f => some (f.code 0x53)
  | .vote f => some (f.code 0x54)
  | .ballot f => some (f.code 0x55)
  | .redadd f => some (f.code 0x56)
  | .redmin f => some (f.code 0x57)
  | .redmax f => some (f.code 0x58)
  | .redfadd f => some (f.code 0x59)
  | .readlane f => some (f.code 0x5A)
  | .bcast f => some (f.code 0x5B)
  | .plop f => some (f.code 0x5C)
  | .brd f => some (f.code 0x5D)
  | .jmpv f => some (f.code 0x5E)
  | .csrv f => some (f.code 0x5F)
  | .faddk f => some (f.code 0x18)
  | .fmulk f => some (f.code 0x19)
  | .fmovk f => some (f.code 0x1A)
  | .iaddk f => some (f.code 0x1B)
  | .imovk f => some (f.code 0x1C)
  | .andk f => some (f.code 0x1D)
  | .ork f => some (f.code 0x1E)
  | .xork f => some (f.code 0x1F)
  | .sadd f => some (f.code 0x80)
  | .ssub f => some (f.code 0x81)
  | .smul f => some (f.code 0x82)
  | .smulh f => some (f.code 0x83)
  | .sand f => some (f.code 0x84)
  | .sor f => some (f.code 0x85)
  | .sxor f => some (f.code 0x86)
  | .sshl f => some (f.code 0x87)
  | .sshr f => some (f.code 0x88)
  | .ssar f => some (f.code 0x89)
  | .smin f => some (f.code 0x8A)
  | .smax f => some (f.code 0x8B)
  | .sminu f => some (f.code 0x8C)
  | .smaxu f => some (f.code 0x8D)
  | .scmp f => some (f.code 0x8E)
  | .slea f => some (f.code 0x8F)
  | .spopc f => some (f.code 0x90)
  | .sclz f => some (f.code 0x91)
  | .ssel f => some (f.code 0x92)
  | .qlop f => some (f.code 0x93)
  | .sldw f => some (f.code 0x94)
  | .sldd f => some (f.code 0x95)
  | .sldq f => some (f.code 0x96)
  | .sstw f => some (f.code 0x97)
  | .sstd f => some (f.code 0x98)
  | .sldcb f => some (f.code 0x99)
  | .cbset f => some (f.code 0x9A)
  | .sldacq f => some (f.code 0x9B)
  | .sstrel f => some (f.code 0x9C)
  | .satadd f => some (f.code 0x9D)
  | .satcas f => some (f.code 0x9E)
  | .waitv f => some (f.code 0x9F)
  | .bra f => some (f.code 0xA0)
  | .jmp f => some (f.code 0xA1)
  | .call f => some (f.code 0xA2)
  | .callr f => some (f.code 0xA3)
  | .ret f => some (f.code 0xA4)
  | .loop f => some (f.code 0xA5)
  | .trap f => some (f.code 0xA6)
  | .eret f => some (f.code 0xA7)
  | .yield f => some (f.code 0xA8)
  | .bkpt f => some (f.code 0xA9)
  | .exit f => some (f.code 0xAA)
  | .nop f => some (f.code 0xAB)
  | .sleep f => some (f.code 0xAC)
  | .csrr f => some (f.code 0xAD)
  | .csrw f => some (f.code 0xAE)
  | .setfmt f => some (f.code 0xAF)
  | .bar f => some (f.code 0xB0)
  | .bara f => some (f.code 0xB1)
  | .barw f => some (f.code 0xB2)
  | .cbara f => some (f.code 0xB3)
  | .cbarw f => some (f.code 0xB4)
  | .tbinit f => some (f.code 0xB5)
  | .tbarv f => some (f.code 0xB6)
  | .tbwait f => some (f.code 0xB7)
  | .fenceAcq f => some (f.code 0)
  | .fenceRel f => some (f.code 1)
  | .fenceAr f => some (f.code 2)
  | .fenceEng f => some (f.code 3)
  | .ftest f => some (f.code 0xB9)
  | .fmove f => some (f.code 0xBA)
  | .fcancel f => some (f.code 0xBB)
  | .fwait f => some (f.code 0xBC)
  | .shrmap f => some (f.code 0xBD)
  | .sqrd f => some (f.code 0xBE)
  | .copy f => some (f.code 0xC0)
  | .copyx f => some (f.code 0xC1)
  | .copyl f => some (f.code 0xC2)
  | .mcast f => some (f.code 0xC3)
  | .fillz f => some (f.code 0xC4)
  | .mma f => some (f.code 0xC8)
  | .mmaz f => some (f.code 0xC9)
  | .accrd f => some (f.code 0xCA)
  | .accst f => some (f.code 0xCB)
  | .accld f => some (f.code 0xCC)
  | .osld f => some (f.code 0xCD)
  | .topkr f => some (f.code 0xCE)
  | .tlook f => some (f.code 0xD0)
  | .tpref f => some (f.code 0xD1)
  | .thalo f => some (f.code 0xD2)
  | .tinv f => some (f.code 0xD3)
  | .twb f => some (f.code 0xD4)
  | .tdead f => some (f.code 0xD5)
  | .tview f => some (f.code 0xD6)
  | .launch f => some (f.code 0xD8)
  | .join f => some (f.code 0xD9)
  | .reprint f => some (f.code 0xDA)
  | .wqpush f => some (f.code 0xDB)
  | .wqpop f => some (f.code 0xDC)
  | .wqwait f => some (f.code 0xDD)
  | .tracex f => some (f.code 0xDE)
  | .saddk f => some (f.code 0x38)
  | .smovk f => some (f.code 0x39)
  | .sandk f => some (f.code 0x3A)
  | .sork f => some (f.code 0x3B)
  | .sxork f => some (f.code 0x3C)
  | .smulk f => some (f.code 0x3D)
  | .sshlk f => some (f.code 0x3E)
  | .sshrk f => some (f.code 0x3F)
  | .collectorDispatch _ _ => none
  | .resultWriteback _ _ => none
  | .longLatencyResult _ => none
  | .sfuResult _ => none
  | .reductionComplete _ _ => none
  | .storeFifoDrain _ _ => none
  | .constantFill _ _ => none
  | .rejoinDeadlockDetect _ => none
  | .sleepExpire _ _ => none
  | .waitvWake _ _ => none
  | .deferredCauseRaise _ => none
  | .deferredEngineCause _ => none
  | .supervisorTrapEntry _ => none
  | .exportMsg _ _ => none
  | .pullreq _ _ _ => none
  | .pulldata _ _ _ => none
  | .overpush _ _ _ => none
  | .backpush _ _ _ => none
  | .sread _ _ => none
  | .swrite _ => none
  | .bararr _ _ => none
  | .barrierCompletionMessage _ _ => none
  | .joindec _ _ => none
  | .cause _ _ => none
  | .fragmentRecall _ _ => none
  | .fragmentCauseDelivery _ => none
  | .copyUnitDelivered _ _ => none
  | .copyOpComplete _ => none
  | .tileRequest _ _ => none
  | .pageWalkComplete _ _ => none
  | .tileFillComplete _ _ => none
  | .mcastSectorSend _ _ => none
  | .tileOpGrant _ => none
  | .tileOpComplete _ => none
  | .tinvSweepDone _ => none
  | .deadlineFillStart _ => none
  | .deadlineFillCancel _ _ => none
  | .reservationGrant _ => none
  | .matrixOpComplete _ => none
  | .osldPageLoaded _ => none
  | .gangLatchTimeout _ _ => none
  | .aFetchXlateFault _ => none
  | .launchReady _ => none
  | .blockDispatch _ _ => none
  | .blockStopped _ => none
  | .blockResume _ _ => none
  | .preemptSoftDeadline _ => none
  | .preemptHardDeadline _ => none
  | .blockEnd _ => none
  | .launchComplete _ => none
  | .stampSweepDone _ => none
  | .reprintSelect _ => none
  | .orphanFormation _ => none
  | .serveQueue _ => none
  | .parkedQueueWake _ _ => none
  | .timeSliceEnd _ => none
  | .fencePacket _ => none
  | .signalPacket _ => none
  | .launchPacket _ => none
  | .reprintPacket _ => none
  | .feed _ => none
  | .copyPacket _ => none
  | .migrateToHost _ => none
  | .migrateToDevice _ => none
  | .tensorRegister _ => none
  | .tensorUnregister _ => none
  | .wqcfgConfigure _ => none
  | .wqcfgClose _ => none
  | .wqcfgFree _ => none
  | .dcset _ => none
  | .nopPacket _ => none
  | .queueNotify _ _ => none
  | .featureNegotiation _ => none
  | .vfCreate _ _ => none
  | .vfFlr _ _ => none
  | .vfDestroy _ _ => none
  | .migFreeze _ _ => none
  | .vfFrozen _ => none
  | .gatePark _ _ => none
  | .migResume _ _ => none
  | .migReplay _ _ => none
  | .replayDone _ => none
  | .migAbort _ _ => none
  | .partitionShape _ _ => none
  | .partitionRun _ => none
  | .partitionSuspend _ => none
  | .partitionSuspended _ => none
  | .remapCommit _ => none
  | .remapCopyDone _ => none
  | .tableUpdate _ => none
  | .tableUpdateDone _ => none
  | .tccfgWrite _ _ => none
  | .polbaseWrite _ _ => none
  | .debugResume _ _ => none
  | .debugStep _ _ => none
  | .debugHalt _ _ => none
  | .regionReset _ => none
  | .regionResetDone _ => none
  | .windowOpen _ _ _ => none
  | .windowClose _ _ => none
  | .windowCloseDone _ _ => none
  | .portAssign _ _ => none
  | .recoveryLoad => none
  | .attestation => none
  | .attestationDone => none
  | .registerWrite _ _ _ _ => none
  | .packageReset => none
  | .powerCapExceeded _ => none
  | .powerCapRelieved _ => none
  | .thermalHot _ _ => none
  | .thermalCool _ _ => none
  | .thermalTrip _ _ => none
  | .machineFault _ => none
  | .patrolScrub _ _ _ => none
  | .idlePowerEntry _ => none
  | .powerWake _ => none
  | .portLinkUp _ _ => none
  | .portLinkDown _ => none
  | .readFlit _ _ => none
  | .writeFlit _ _ => none
  | .atomicFlit _ _ => none
  | .reduceFlit _ _ => none
  | .responseFlit _ _ => none
  | .fenceFlit _ _ => none
  | .fenceackFlit _ _ => none
  | .undefinedFlit _ _ => none
  | .illegalEncoding _ => none
  | .wqOpComplete _ => none
  | .instructionFetch _ => none

/-- The instruction that the decoder reads from nbits bits of w; the first word is bits [31:0] and
the literal word bits [63:32]. -/
def decodeTableWord (nbits w : Nat) : Option Instr :=
  let bits := w % 2 ^ nbits
  match decode (BitVec.ofNat 32 bits) (BitVec.ofNat 32 (bits >>> 32)) with
  | .ok i => some i
  | .error _ => none

end Sys2Proof
end

