-- ==== Sys2Proof/Machine/State.lean ====
section
/-! DEFINITION. The machine's state as plain data: every register, memory and record that the spec
names, and the model's own agenda, cursor and counters. -/

namespace Sys2Proof.Machine

/-! ## Warps (R12, R46-R57) -/

/-- State of a vector or scalar register (R49). -/
inductive RegState where
  | full | empty | future
  deriving DecidableEq, Repr

/-- Reduction result register (R46, R165). -/
structure SqReg where
  value : Word
  seq : BitVec 16
  deriving DecidableEq, Repr

/-- The CSRs that a warp holds (R55, R56, R175, R181, R290). -/
structure Csrs where
  exthr : Word
  ganga : Word
  gangb : Word
  trapv : Word
  trapc : Word
  trappc : Word
  trapal : Word
  trapah : Word
  trapaux : Word
  hintdrop : Word
  cbank : Word
  cycleh : Word
  princ : Word
  savebase : Word
  strapc : Word
  strappc : Word
  strapal : Word
  strapah : Word
  strapaux : Word
  deriving DecidableEq, Repr

/-- The scalar side of a warp: what a fragment reaches only through the RTN (R188, R190). cancel has a
bit for each scalar register marked cancelled (R172), the supervisor bank's from 64 on; the sup fields are the supervisor bank (R182). -/
structure Scal where
  s : Tab Word
  st : Tab RegState
  cancel : BitVec 128
  q : BitVec 8
  sq : Tab SqReg
  csr : Csrs
  supS : Tab Word
  supSt : Tab RegState
  supQ : BitVec 8
  deriving DecidableEq, Repr

/-- A join entry (R151) with its join counter (R205); id names it for links. -/
structure JoinE where
  id : Nat
  j : Word
  mask : Mask
  arrived : Mask
  fmt : Word
  defer : Option (Word × Mask)
  joins : Nat
  deriving DecidableEq, Repr

/-- An entry of a reconvergence stack (R151). -/
inductive StackE where
  | join (e : JoinE)
  | call (ret : Word)
  deriving DecidableEq, Repr

/-! ## Memory accesses (R221) -/

/-- Where the bytes of an access lie (R18-R20, R182). -/
inductive Target where
  /-- CSM: physical core and byte of its slice. -/
  | csm (core byte : Nat)
  /-- Region scratchpad: physical region and byte. -/
  | rsp (region byte : Nat)
  | glob
  /-- Supervisor physical window. -/
  | phys (pa : Nat)
  /-- Supervisor control window. -/
  | ctrl (off : Nat)
  deriving DecidableEq, Repr

/-- One lane of an access; val is the store data or atomic operand, val2 the new word of a
compare-and-swap, res what it returned. -/
structure LaneAcc where
  lane : Nat
  ea : Nat
  tgt : Target
  val : Nat
  val2 : Nat
  res : Nat
  denied : Bool
  /-- Forwarded from the store FIFO, or performed: res holds what it read (R222). -/
  got : Bool
  deriving DecidableEq, Repr

/-- An entry of a store FIFO or slot store queue (R221). -/
structure StoreE where
  size : Nat
  /-- Scope of a release store (R229). -/
  rel : Option Nat
  /-- STLF: the granule becomes FULL (R231). -/
  stlf : Bool
  lanes : List LaneAcc
  pc : Word
  split : Nat
  sup : Bool
  /-- Number of the next record when the store issued: accesses below it are older (R25). -/
  age : Nat
  /-- The issuing split's own number, and the threads that store. -/
  uid : Nat
  threads : Mask
  deriving DecidableEq, Repr

/-- What a split waits for between issues. -/
inductive Wait where
  /-- Nothing: the instruction at PC may issue. -/
  | none
  /-- At the join entry with this id (R153). -/
  | atJoin (e : Nat)
  /-- Arrived at the block barrier in this phase (R238). -/
  | bar (phase : Nat)
  /-- The same through BARW, which is no keep site (R240). -/
  | barw (phase : Nat)
  /-- Arrived at the cluster barrier in this phase (R238). -/
  | cbar (phase : Nat)
  /-- Waits for the completion of this phase, at which the lanes of rest, marked before they issued the instruction,
  arrive at the next phase (R239): cluster barrier, whether they wait then. -/
  | barRest (cl stay : Bool) (phase : Nat) (rest : Mask)
  /-- SLEEP for n cycles (R159). -/
  | sleep (n : Nat)
  /-- WAITV: its load is outstanding (R237). -/
  | waitvLoad (acc : Nat)
  /-- WAITV: asleep on the word at this address, which held this value (R237). -/
  | waitvSleep (ea val : Nat)
  /-- At the join point of a JOIN whose destination is this scalar register (R362). -/
  | joinPoint (d : Nat)
  /-- WQWAIT: asleep on a work queue, to write this scalar register, of a bank (R392). -/
  | wqwait (q : Nat) (dst : Bool × Nat)
  /-- WQWAIT: woken while its block is saved; the register and what it is to hold (R392). -/
  | wqDone (dst : Bool × Nat) (v : Word)
  /-- A fragment whose supervisor-class cause is being serviced (R210). -/
  | service
  /-- Stood at a YIELD when its block was saved (R184). -/
  | atYield
  deriving DecidableEq, Repr

/-- Stages of a fragment on its N-core (R193, R203, R204, R209). -/
inductive FragStage where
  /-- EXPORT has not arrived. -/
  | exporting
  | running
  /-- Stopped before an instruction that recalls, or at a stop (R202, R211). -/
  | recalling
  /-- At the J of its link, sending back its registers (R204). -/
  | rejoining
  /-- Stopped with a user-class cause (R209): cause, address, aux. -/
  | stopped (cause : Nat) (addr aux : Nat) (sent : Bool)
  deriving DecidableEq, Repr

/-- A register transfer under way to a slot (R195, R198): values of the fragment's lanes by lane. -/
structure Xfer where
  pushed : Bool
  vals : List Word
  deriving DecidableEq, Repr

/-- An N-core slot and what is held for the fragment in it (R188, R191). -/
structure Slot where
  ncore : Nat
  slot : Nat
  stage : FragStage
  lanes : Mask
  present : BitVec 64
  dirty : BitVec 64
  vst : Tab RegState
  /-- Registers by number, as 32 lanes. -/
  v : Tab (List Word)
  p : Tab Mask
  pDirty : BitVec 8
  /-- Export-pending bits, held at the parent (R194). -/
  pending : BitVec 64
  /-- Registers asked for by PULLREQ and not answered, with the wait bit of the source (R195, R196). -/
  pulls : Tab Bool
  /-- PULLDATA and OVERPUSH messages under way. -/
  xfers : Tab Xfer
  /-- A refused pull: the register that is EMPTY at the parent (R196). -/
  refused : Option Nat
  /-- Scalar sources asked for by SREAD: file (q 64-71, sq 72-75, csr 76), wait bit (R190). -/
  sreq : Option (Tab Bool)
  /-- The parent's scalar side as the SREAD found it (R190). -/
  snap : Option Scal
  /-- Barrier arrival to send: cluster barrier, lanes (R206). -/
  barReq : Option (Bool × Mask)
  hintdrop : Word
  cycleh : Word
  /-- The slot's store queue (R207). -/
  queue : List StoreE
  /-- Entries of the warp's FIFO older than the export that have not left (R194). -/
  older : Nat
  /-- When the slot issued last (R189). -/
  last : Nat
  deriving DecidableEq, Repr

/-- Where a split runs (R12, R150). -/
inductive Home where
  | wcore
  | ncore (f : Slot)
  deriving DecidableEq, Repr

/-- A VC instruction that has issued and waits for its constant (R121, R142): the constant's address and set, the lanes, and
the operands as it read them. -/
structure ConstUse where
  addr : Nat
  set : Nat
  lanes : Mask
  a : List Word
  d : List Word
  deriving DecidableEq, Repr

/-- A split, local or exported (R12, R150-R155). -/
structure Split where
  id : Nat
  /-- Tells the split from another that takes its id later (R180, R225). The model's own. -/
  uid : Nat
  age : Nat
  pc : Word
  mask : Mask
  fmt : Word
  /-- Top first; entries beyond the eighth are in the spill area (R151). -/
  stack : List StackE
  link : Option Nat
  wait : Wait
  sup : Bool
  /-- Stack depth at supervisor entry, and the wait that the return restores (R180). -/
  supBase : Nat
  savedWait : Wait
  /-- The barrier or join point at which PREEMPT took the split, and its PC there (R365). -/
  trapWait : Option (Wait × Word)
  service : Bool
  /-- Made by a divergent instruction of the supervisor handler: its link is of that code. -/
  supChild : Bool
  /-- Made by a divergent instruction of the running user handler, which does not hold it (R177). -/
  usrChild : Bool
  /-- Granules that the LDLC at PC has consumed, by lane (R231). -/
  taken : Tab (List Byte)
  /-- What interrupted LDLCs have consumed, and where they stand, innermost handler first (R231). -/
  kept : List (Word × Tab (List Byte))
  /-- Constant word that the instruction at PC waits for (R121): address, and the set of its line. -/
  cwant : Option (Nat × Nat)
  /-- The VC at PC holds an operand collector while its constant comes (R121). -/
  cheld : Bool
  /-- The VC at PC has issued, with these operands. -/
  cuse : Option ConstUse
  /-- The instruction at PC waited, at its last attempt, in a way that the spec calls a stop point (R167, R249, R271, R332). -/
  stalled : Bool
  /-- Words fetched, by code offset (R72). -/
  ibuf : Tab Word
  home : Home
  deriving DecidableEq, Repr

/-! ## Accesses on their way (R224, R225) -/

/-- What an outstanding access does (R227-R237). -/
inductive AccKind where
  | load (size : Nat) (signed : Bool)
  /-- LDP (R228). -/
  | poll
  /-- LDACQ and SLDACQ at a scope (R229). -/
  | acq (scope : Nat)
  | tldg
  /-- Atomics: 0 ADD, 1 MIN, 2 MAX, 3 AND, 4 OR, 5 XOR, 6 XCH, 7 CAS, 8 FADD (R232). -/
  | atom (op scope : Nat)
  /-- The load of a WAITV (R237). -/
  | waitv (scope : Nat)
  /-- A store entry accepted by the L1, on its way to the slices (R221). -/
  | store (size : Nat) (rel : Option Nat)
  /-- A load whose destination is a zero name (R70): whether it fills the L1, and whether it has counted in HINTDROP. -/
  | hint (size : Nat) (l1 counted : Bool)
  deriving DecidableEq, Repr

/-- Progress of the part of an access that one tile holds (R303, R320). -/
inductive SubSt where
  | waiting | walking
  /-- A supervisor-class cause is being serviced (R225). -/
  | xlate
  /-- The page belongs to the host (R443). -/
  | host
  /-- A request to a fabric address is under way (R448). -/
  | remote
  | filling | done
  deriving DecidableEq, Repr

/-- The part of an access that lies in one flat tile; fail is a deferred cause: code, reason. -/
structure Sub where
  tile : Nat
  st : SubSt
  fail : Option (Nat × Nat)
  deriving DecidableEq, Repr

/-- A load, atomic or drained store that has issued and not completed (R224, R225). -/
structure Access where
  warp : Nat
  split : Nat
  uid : Nat
  frag : Bool
  /-- The threads whose program order the access stands in (R14, R24). -/
  threads : Mask
  /-- Of a store, the number below which accesses are older in program order (R25). -/
  age : Nat
  sup : Bool
  pc : Word
  kind : AccKind
  scalar : Bool
  /-- Destination registers in order; a register of the supervisor bank as 64 + its number. -/
  dst : List Nat
  lanes : List LaneAcc
  subs : List Sub
  /-- A release of the warp followed this store (R314). -/
  released : Bool
  /-- Launch, core, slot and PRINC of a store whose warp has ended (R212, R361). The model's own. -/
  gone : Option (Nat × Nat × Nat × Word)
  deriving DecidableEq, Repr

/-! ## Warp -/

/-- A supervisor-class cause waiting for its handler (R180). -/
structure SupCause where
  cause : Nat
  split : Nat
  uid : Nat
  frag : Bool
  addr : Nat
  aux : Nat
  /-- What waits on it: 0 an access, 1 an engine operation, 2 an instruction. -/
  kind : Nat
  ref : Nat
  sub : Nat
  deriving DecidableEq, Repr

/-- A user cause found after issue (R225, R278). -/
structure DefCause where
  cause : Nat
  reason : Nat
  addr : Nat
  split : Nat
  uid : Nat
  pc : Word
  /-- TRAPAUX of an engine cause as a whole (R278); none for R225's layout. -/
  aux : Option Nat
  /-- Raised by supervisor code (R183). -/
  sup : Bool
  deriving DecidableEq, Repr

/-- An issued special function (R134): operand by lane. -/
structure SfuOp where
  warp : Nat
  split : Nat
  frag : Bool
  fn : Nat
  d : Nat
  lanes : Mask
  args : List Word
  deriving DecidableEq, Repr

/-- A scalar, predicate, sq or CSR write of a fragment on its way (R190). -/
inductive SWrite where
  | reg (r : Nat) (v : Word) (st : RegState)
  /-- The handle of operation op (R208). -/
  | future (r op : Nat) (handle : Word)
  /-- FCANCEL of register r into predicate n (R171). -/
  | cancel (n r : Nat)
  /-- FMOVE (R171). -/
  | move (d a : Nat)
  /-- FWAIT clears a mark (R171). -/
  | unmark (r : Nat)
  | q (n : Nat) (v : Bool)
  | csr (i : Nat) (v : Word)
  deriving DecidableEq, Repr

/-- What the save area does not hold of a split: its wait, what PREEMPT took it from, and whether the running user handler
made it. A wait at a join entry names the entry by its depth in the stack. The model's own. -/
structure SplitNote where
  uid : Nat
  wait : Wait
  trapWait : Option (Wait × Word)
  usrChild : Bool
  deriving DecidableEq, Repr

/-- A waiting SHRMAP (R168): first register, count, the peer's WARPID, and the split that waits, at its instruction. -/
structure ShrReq where
  first : Nat
  count : Nat
  peer : Nat
  split : Nat
  pc : Word
  deriving DecidableEq, Repr

/-- A warp (R12). -/
structure Warp where
  block : Nat
  idx : Nat
  core : Nat
  slot : Nat
  /-- Registers by number, as 32 lanes. -/
  v : Tab (List Word)
  vst : Tab RegState
  p : Tab Mask
  sc : Scal
  splits : List Split
  covered : Mask
  exited : Mask
  fifo : List StoreE
  /-- Reductions issued and not complete: register and value (R165). -/
  reds : List (Nat × Word)
  /-- The supervisor-class cause being handled, and those held (R180). -/
  supNow : Option SupCause
  supQ : List SupCause
  defQ : List DefCause
  engQ : List DefCause
  /-- Scalar writes of fragments, in order of arrival (R190). -/
  swrites : List SWrite
  /-- Lanes marked arrived at the block and the cluster barrier (R238). -/
  barArr : Mask
  cbarArr : Mask
  /-- Mapped shared range: first, count, peer warp (R168). -/
  shr : Option (Nat × Nat × Nat)
  /-- A waiting SHRMAP (R168). -/
  shrReq : Option ShrReq
  /-- CBSET bindings by bank (R236). -/
  cbset : Tab Nat
  openDirty : Bool
  floor : Nat
  /-- Halted for the debug agent (R185), and the split that may step (R186). -/
  halted : Bool
  step : Option Nat
  /-- PREEMPT was delivered for the pending stop (R365). -/
  preempted : Bool
  /-- The user handler was left while a fragment's cause was pending (R209). -/
  causeDue : Bool
  /-- Of each split of a saved warp, by id, what the save area does not say. The model's own. -/
  waits : Tab SplitNote
  nextAge : Nat
  nextJoin : Nat
  lastV : Nat
  lastU : Nat
  deriving DecidableEq, Repr

/-! ## Cores and clusters -/

/-- A V-set instruction in a collector or the pipe (R116-R119). -/
structure PipeE where
  warp : Nat
  split : Nat
  srcs : List Nat
  dst : List Nat
  dispatched : Bool
  deriving DecidableEq, Repr

/-- A line of a constant cache (R121): image or bound address space and address, 16 words. -/
structure CLine where
  set : Nat
  sup : Bool
  asid : Nat
  addr : Nat
  words : List Word
  used : Nat
  deriving DecidableEq, Repr

/-- A line of an instruction cache (R72): 16 words. -/
structure ILine where
  sup : Bool
  asid : Nat
  addr : Nat
  words : List Word
  deriving DecidableEq, Repr

/-- A W-core with its CSM slice and the N-core of the same number (R8, R187, R216). -/
structure Core where
  cycle : DWord
  ncycle : DWord
  pipe : List PipeE
  ccache : List CLine
  icache : List ILine
  csm : Tab Byte
  /-- Granules that are EMPTY (R216); unlisted ones are FULL. -/
  csmEmpty : List Nat
  /-- Fragment slots of the N-core in use (R188). -/
  nslots : List Nat
  deriving DecidableEq, Repr

/-- A line of the cluster L1 (R220): 128 bytes of global memory. -/
structure L1Line where
  asid : Nat
  addr : Nat
  data : List Byte
  deriving DecidableEq, Repr

/-! ## Tile cache (R303-R308, R332, R343) -/

/-- A tensor descriptor as an operation captured it (R306, R311); parent, origin and grid of a view are
already resolved to the root (R316). -/
structure Tensor where
  id : Nat
  base : Nat
  rank : Nat
  format : Nat
  swizzle : Nat
  isOpen : Bool
  atag : Nat
  gen : Nat
  flags : Nat
  stamps : Nat
  extent : List Nat
  stride : List Nat
  text : List Nat
  /-- Root tensor, its tile grid and the tile origin within it (R316). -/
  root : Nat
  origin : List Nat
  rootGrid : List Nat
  deriving DecidableEq, Repr

/-- A tile-cache entry (R303) with its tile data. -/
structure Ent where
  set : Nat
  xp : Bool
  fill : Nat
  opn : Bool
  stv : Bool
  wr : Bool
  asid : Nat
  tensor : Nat
  tile : Nat
  gen : Nat
  atag : Nat
  stamp : Nat
  fowc : Nat
  sdirty : Word
  svalid : Word
  data : Tab Byte
  /-- Per 16-byte granule, its physical address and present nibbles, for the write-back; the model's own. -/
  grans : List (Nat × Nat)
  used : Nat
  deriving DecidableEq, Repr

/-- A queued deadline fill (R332): operation, tile of its run, deadline in tile-cache cycles. -/
structure DFill where
  op : Nat
  idx : Nat
  deadline : Nat
  deriving DecidableEq, Repr

/-- A send list that a home slice keeps for a tile that it is sending (R343): the tile, for an OPEN tensor the floor of
those it serves (R314), the operations on it in the order in which they joined, and the offsets of the sectors sent to all. -/
structure SendList where
  slice : Nat
  asid : Nat
  tensor : Nat
  tile : Nat
  gen : Nat
  floor : Option Nat
  members : List Nat
  sent : List Nat
  deriving DecidableEq, Repr

/-! ## Engine operations (R30, R170) -/

/-- A copy descriptor (R248). -/
structure CopyDesc where
  dir : Nat
  swz : Nat
  red : Nat
  xtype : Nat
  csmRef : Nat
  tb : Option Nat
  origin : List Int
  box : List Nat
  src : Nat
  len : Nat
  deriving DecidableEq, Repr

/-- A captured MMA (R279): A source, B reference and packed operand; gang in order (R291). -/
structure MmaOps where
  aLo : Nat
  aHi : Nat
  bref : Nat
  packed : Nat
  gang : List Nat
  deriving DecidableEq, Repr

/-- What an engine operation does, with the operands captured at issue (R30). -/
inductive OpKind where
  | copy (c : CopyDesc) (t : Option Tensor)
  /-- FILLZ (R256): reference, length, barrier. -/
  | fillz (ref len : Nat) (tb : Option Nat)
  /-- MCAST (R341): tensor, first tile, count, destinations as (core, byte of the allocation's first unit), barrier offset. -/
  | mcast (t : Tensor) (tile n : Nat) (dests : List (Nat × Nat)) (tb : Option (List (Nat × Nat)))
  | mma (m : MmaOps) (t : Option Tensor)
  | mmaz (first n : Nat)
  /-- ACCRD (R288): destination reference, scale, packed operand. -/
  | accrd (ref : Nat) (scale : Word) (packed : Nat)
  | accst (va slot : Nat)
  | accld (va slot : Nat)
  /-- OSLD (R264): source, first page, pages, deadline. -/
  | osld (va page n deadline : Nat)
  /-- TOPKR (R287): base, slot, K, order. -/
  | topkr (base slot k order : Nat)
  | tlook (t : Tensor) (tile : Nat)
  | tpref (t : Tensor) (tiles : List Nat)
  /-- THALO (R325): tile, destination reference, H, dimension mask. -/
  | thalo (t : Tensor) (tile ref h dims : Nat)
  | tinv (t : Tensor) (discard : Bool)
  /-- TWB (R327): first tile, count (0: every tile). -/
  | twb (t : Tensor) (tile n : Nat)
  | tdead (t : Tensor) (tile n deadline : Nat)
  /-- TVIEW (R329): source, target id, and the view spec, or none to unregister. -/
  | tview (t : Tensor) (target : Nat) (spec : Option (List Int × List Nat))
  /-- LAUNCH and REPRINT (R357, R384): the child launch. -/
  | child (launch : Nat)
  | wqpush (q ref : Nat)
  | wqpop (q ref : Nat)
  /-- TRACEX (R377): kind, tensor, tile, length. -/
  | tracex (kind : Nat) (t : Option Tensor) (tile len : Nat)
  /-- The launch engine zeroes an orphan run (R387): tensor, first tile, tiles. The model's own. -/
  | orphan (t : Tensor) (tile n : Nat)
  deriving DecidableEq, Repr

/-- An issued engine operation (R30). dst is the scalar register that takes its status: the register,
and whether it is of the supervisor bank. -/
structure EngOp where
  kind : OpKind
  warp : Nat
  block : Nat
  launch : Nat
  core : Nat
  split : Nat
  uid : Nat
  frag : Bool
  sup : Bool
  pc : Word
  dst : Option (Bool × Nat)
  fmt : Word
  princ : Word
  asid : Nat
  floor : Nat
  granted : Bool
  cancelled : Bool
  /-- Units, tiles, pages or rows already done. -/
  unitsDone : List Nat
  /-- The status the operation ends with, once settled. -/
  status : Option Nat
  detail : Nat
  /-- A translation fault is being serviced (R296, R183). -/
  faulted : Bool
  /-- Completed members of a gang group or data read so far. -/
  count : Nat
  parked : Bool
  /-- Flat tiles of stamps whose stores this operation cannot make (R339). -/
  stampOff : List Nat
  /-- It wrote a tensor that is OPEN (R314). -/
  opened : Bool
  /-- Bytes that came through a fabric port, by port and address, requests outstanding, and writes answered (R448). -/
  rdata : Tab Byte
  out : List Nat
  acked : List Nat
  /-- Bytes of the CSM side of a store that goes on while its block is stopped (R258). The model's own. -/
  csm : Option (List Byte)
  /-- Tiles whose access has been checked, and whether it is denied (R336, R342), by tile of the box or run. -/
  polSeen : Tab Bool
  /-- Tiles of the box or run, by number, that the operation has met, and how many of the box the trace has taken, in its order
  (R375, R376). -/
  touched : List Nat
  shown : Nat
  /-- Sectors that a slice has sent, by unit, on their way to the destinations (R343, R344). -/
  sent : Tab (List Byte)
  /-- The operations of its gang group, in the order M0 to M5, from the grant on (R292). -/
  mates : List Nat
  /-- The warp slot of its issuer (R337). -/
  slot : Nat
  deriving DecidableEq, Repr

/-! ## Matrix engine (R260-R299) -/

/-- Top-k list entry of a row (R265): value and 24-bit index. -/
structure TopE where
  value : Word
  index : Nat
  deriving DecidableEq, Repr

/-- An accumulator slot (R265): elements by 128 m + n, lists by row. -/
structure AccSlot where
  data : Tab Word
  k : Nat
  order : Nat
  base : Nat
  lists : Tab (List TopE)
  deriving DecidableEq, Repr

/-- A page of the overhead store (R261). -/
structure OsPage where
  valid : Bool
  asid : Nat
  deriving DecidableEq, Repr

/-- A gang latch (R292): the set named, and the entries that arrived, by member. -/
structure Latch where
  members : List Nat
  ops : List (Nat × Nat)
  deriving DecidableEq, Repr

/-- A cluster (R8): L1, copy queue, matrix engine, tile-operation queue. -/
structure Cluster where
  l1 : List L1Line
  copyQ : List Nat
  tileQ : List Nat
  pages : Tab OsPage
  osData : Tab Byte
  slots : Tab AccSlot
  accown : Tab Word
  resv : List Nat
  /-- Slot images held for operations with global A (R295): operation, slot, image. -/
  shadows : List (Nat × Nat × AccSlot)
  latches : List Latch
  deriving DecidableEq, Repr

/-! ## Launches and blocks (R346-R392) -/

/-- A launch descriptor (R346). -/
structure LDesc where
  image : Nat
  grid : Nat × Nat × Nat
  bd : Nat × Nat × Nat
  warps : Nat
  group : Nat
  csm : Nat
  prio : Nat
  trace : Nat
  orphan : Nat
  atomics : Nat
  cap : Nat
  flags : Nat
  sheet : Nat
  sheetLen : Nat
  args : Nat
  argLen : Nat
  place : Nat
  sigAddr : Nat
  sigVal : Nat
  comprec : Nat
  orphList : Nat
  orphCap : Nat
  dcWait : Nat
  dcSig : Nat
  dcwVal : Nat
  gridSrc : Nat
  deriving DecidableEq, Repr

/-- Fields of a kernel image that the device uses (R85). -/
structure Image where
  codeOff : Nat
  codeLen : Nat
  cbOff : Nat
  cbCount : Nat
  keepOff : Nat
  keepCount : Nat
  extent : Nat
  deriving DecidableEq, Repr

/-- Progress of a launch (R348-R354, R361, R385). -/
inductive LPhase where
  /-- Accepted; waits for its counter or for an earlier launch on its sheet. -/
  | waiting
  | ready
  /-- A REPRINT before its selection (R385). -/
  | selecting
  | running
  /-- A REPRINT whose re-run blocks have ended (R387). -/
  | orphans
  /-- Ended with a status before or while running (R361, R365). -/
  | ending
  | done
  deriving DecidableEq, Repr

/-- A launch (R12, R346). -/
structure Launch where
  id : Nat
  part : Nat
  vf : Nat
  desc : LDesc
  img : Image
  depth : Nat
  /-- Parent block, launch and child slot, and the operation that is its future. -/
  parent : Option (Nat × Nat × Nat)
  op : Option Nat
  prio : Nat
  /-- It holds a burst slot, not one of the VF's own (R405), and the partition of whose pool. -/
  burst : Bool
  pool : Nat
  /-- Descriptor address, until the descriptor is captured (R357). -/
  src : Option Nat
  reprint : Bool
  order : Nat
  phase : LPhase
  /-- Linear ids still to start: next, or the selected list of a REPRINT. -/
  next : Nat
  sel : Option (List Nat)
  ended : Nat
  ran : Nat
  status : Option Nat
  detail : Nat
  causePc : Nat
  causeBlk : Option Nat
  /-- Epoch at the start of the trace, and RUNS to write (R379). -/
  epoch : Nat
  runs : Nat
  /-- Old WRITE runs of re-run blocks (R387), as words of R374. -/
  oldWrites : List (Nat × Nat × Nat)
  orphanRuns : Nat
  listed : Nat
  sheetBad : Bool
  /-- The launch has written STATE := RECORDING in its sheet (R379). -/
  sheetOn : Bool
  deriving DecidableEq, Repr

/-- Why a stop is requested (R363). -/
inductive StopWhy where
  | preempt | reclaim | join | waitWord | debug
  deriving DecidableEq, Repr

/-- A child slot (R359). -/
structure Child where
  launch : Nat
  last : Nat
  busy : Bool
  deriving DecidableEq, Repr

/-- A trace entry (R374): kind, tensor with FLATHI, start, length. -/
structure TraceE where
  kind : Nat
  tensor : Nat
  flathi : Nat
  start : Nat
  len : Nat
  deriving DecidableEq, Repr

/-- A block (R12): resident, stopped or ended with its allocation kept (R218). -/
structure Block where
  launch : Nat
  lin : Nat
  group : Nat
  rank : Nat
  core : Nat
  base : Nat
  size : Nat
  resident : Bool
  ended : Bool
  warps : List Nat
  barPhase : Nat
  children : Tab Child
  trace : List TraceE
  tAlways : Bool
  tAccum : Bool
  tOverflow : Bool
  tFlat : Bool
  tPaused : Bool
  tEpoch : Nat
  /-- Masks gathered at the join point, and lanes arrived by warp (R362). -/
  joinMask : Word
  joinArr : Tab Mask
  /-- A requested stop, whether PREEMPT has been delivered (R365), and a block waiting to resume. -/
  stop : Option StopWhy
  escalated : Bool
  saved : Bool
  /-- Stopped in place under the power cap, not saved (R435). -/
  paused : Bool
  stopOrder : Nat
  /-- Unit of the block's area in the save pool (R367). -/
  unit : Nat
  /-- CSM ranges saved, as offset and length (R88); the model's own. -/
  kept : List (Nat × Nat)
  /-- Words watched by a WAIT stop (R237): address and value seen; queues (R392), with 64 added once the split has been woken. -/
  watched : List (Nat × Nat)
  watchedQ : List Nat
  deriving DecidableEq, Repr

/-- A cluster group's barrier (R238). -/
structure Group where
  blocks : List Nat
  barPhase : Nat
  deriving DecidableEq, Repr

/-- Who waits for a request that leaves its partition: 0 an access, 1 an engine operation, 2 nobody, 3 the front end; its
number, and the part of it. -/
structure Asker where
  kind : Nat
  ref : Nat
  sub : Nat
  deriving DecidableEq, Repr

/-- A hardware work queue (R389). -/
structure WorkQ where
  asid : Nat
  ring : Nat
  log2n : Nat
  head : Nat
  tail : Nat
  closed : Bool
  sleepers : List (Nat × Nat)
  /-- What appends a record now, or removes one, where the ring lies behind a fabric port: an operation, or the front end's
  request. The model's own. -/
  pusher : Option Asker
  popper : Option Asker
  deriving DecidableEq, Repr

/-! ## Regions (R411-R435) -/

/-- A cross-bulkhead window entry (R421): the words at offsets 0x00, 0x08 and 0x10. -/
structure Win where
  base : Nat
  len : Nat
  borrower : Nat
  w : Bool
  valid : Bool
  /-- A close whose admitted requests are not all performed (R423). -/
  closing : Bool
  deriving DecidableEq, Repr

/-- A cached translation (R319): the slice whose buffer holds it, page address and the leaf found. -/
structure Trans where
  slice : Nat
  asid : Nat
  level : Nat
  page : Nat
  leaf : DWord
  deriving DecidableEq, Repr

/-- A physical region (R8, R424-R430). -/
structure Region where
  /-- RSTAT.PWR, FAULT and GATE (R424). -/
  pwr : Nat
  /-- PWR 1 is GATED: the region's clocks stand (R434). -/
  gated : Bool
  fault : Bool
  gate : Bool
  /-- A reset whose scrub has not ended (R425). -/
  resetting : Bool
  recch : Word
  reccs : Word
  reccc : Word
  rscrub : Nat
  wins : Tab Win
  /-- Region scratchpad (R20, R301). -/
  rsp : Tab Byte
  /-- The scratchpad's contents are undefined since a resplit (R345, log 13): the draw; bytes written since are listed. -/
  rspDraw : Option Nat
  /-- Tile-cache entries of the region's 16 slices, by slice (R301, R303). -/
  ents : Tab (List Ent)
  tlb : List Trans
  /-- Deadline-fill queue (R332), oldest first. -/
  dfq : List DFill
  /-- The send lists of the region's slices (R343). -/
  sends : List SendList
  /-- Cycles of the region's tile-cache clock (R332). -/
  tclk : Nat
  parking : List InReq
  /-- Requests of frozen VFs held at this gate after RESUME (R430). -/
  holding : Bool
  /-- Block whose PREEMPT stop the dispatcher has outstanding (R353). -/
  preempting : Option Nat
  /-- Ratio of the region PLL in quarters of nominal (R435), and whether a hot die holds it SLOW (R457). -/
  pll : Nat
  hot : Bool
  railOff : Bool
  deriving DecidableEq, Repr

/-! ## Partitions (R413-R435) -/

/-- A slot that the eviction area holds, image and ACCOWN (R435): cluster and slot. -/
structure Evicted where
  cluster : Nat
  slot : Nat
  deriving DecidableEq, Repr

/-- A partition control space (R414) and the per-partition state of the units. -/
structure Part where
  err : Bool
  run : Bool
  shape : Nat
  fault : Bool
  /-- PSTAT.BUSY: a suspension or a shape change is in progress (R415). -/
  busy : Bool
  /-- PSTAT.STATE: 0 NONE, 1 SUSPENDED, 2 RUNNING, 3 BROKEN. -/
  state : Nat
  psupv : DWord
  pvfbase : DWord
  pvfcount : Word
  plattol : Word
  pshed : Word
  pevictpa : DWord
  vfcmdBusy : Bool
  vfcmdErr : Bool
  vfcmdVf : Nat
  vfmigBusy : Bool
  vfmigAborted : Bool
  vfmigVf : Nat
  prmapErr : Bool
  prmapBusy : Bool
  /-- Remap table entries (R43) and the committed per-unit tables: physical cluster by logical cluster (R44). -/
  remap : Tab Word
  unitTab : Tab Nat
  committed : Bool
  dbgctl : Word
  tccfgErr : Bool
  tccfg : Nat
  tchashk : Word
  polbase : Word
  teqbase : Word
  teqsize : Word
  teqhead : Word
  teqtail : Word
  teqlost : Word
  /-- Events lost that no LOST record reports yet (R337). -/
  lostPending : Nat
  dfbudget : Word
  /-- Budget of deadline fills that has accrued, in sectors for 1024 cycles (R332). -/
  dfTokens : Nat
  tupa : DWord
  tuva : DWord
  tuval : DWord
  tuErr : Bool
  tuBusy : Bool
  /-- Range of the update in progress: start and length, and whether the old entry was a valid leaf (R321). -/
  tuRange : Nat × Nat
  tuLeaf : Bool
  lepoch : Word
  lpredl : Word
  lsavepa : DWord
  lsavelen : Word
  burstUsed : Nat
  burstSlots : Nat
  feslice : Nat
  owc : Nat
  wqs : Tab WorkQ
  /-- Words of the policy table that are cached (R335), by address. -/
  polLines : Tab DWord
  /-- A stamp sweep is in progress, and epoch advances it holds (R383). -/
  sweeping : Bool
  heldEpochs : Nat
  /-- Tensors registered, by ASID and id (R305). -/
  registered : List (Nat × Nat)
  /-- EPOCH at the last unregistration of a tensor (R382), by ASID * 2^20 + id. The model's own. -/
  unregs : Tab Nat
  /-- Tile origin of a registered view in its root (R316, R329), by ASID * 2^20 + id. The model's own. -/
  views : Tab (List Nat)
  /-- Tensors whose sweep goes on (R326): ASID and id. -/
  sweeps : List (Nat × Nat)
  /-- VF whose time slice runs (R407). -/
  sliceVf : Option Nat
  /-- Shedding stage (R435): 0 none, 1-3 slow, 4 paused, 5 evicted. -/
  shed : Nat
  evicted : List Evicted
  deriving DecidableEq, Repr

/-- A packet accepted and not complete (R399), or parked. -/
structure Packet where
  vf : Nat
  queue : Nat
  order : Nat
  op : Nat
  barrier : Bool
  nowait : Bool
  cookie : Word
  staddr : Nat
  /-- The packet's bytes from offset 0x10 of its first unit on (R397). -/
  body : List Byte
  /-- The launch it created (R400). -/
  launch : Option Nat
  deriving DecidableEq, Repr

/-- Requests of the front end for the packet at the head of a queue that have left the partition (R400, R448): the VF and queue,
numbers of those outstanding and answered, the bytes that came, a STATUS that was no success, the bytes that a COPY has read,
and the ranges whose stamps are still to make (R33, R339). The model's own. -/
structure FeOp where
  vf : Nat
  queue : Nat
  out : List Nat
  acked : List Nat
  rdata : Tab Byte
  bad : Option (Nat × Nat)
  got : Option (List Byte)
  ranges : Option (List (Nat × Nat))
  deriving DecidableEq, Repr

/-- A front-end lane that serves a queue (R401): packets accepted, steps its packet was passed over (R402), and whether
it advances in the step under way. -/
structure Lane where
  vf : Nat
  queue : Nat
  tail : Nat
  head : Nat
  taken : Nat
  passed : Nat
  due : Bool
  deriving DecidableEq, Repr

/-- A remote-wait entry of a migration image (R430): queue, counter and value. -/
structure RemoteWait where
  queue : Nat
  dc : Nat
  value : Word
  deriving DecidableEq, Repr

/-- A created VF (R417-R419, R439, R443), with its VCP's device-side state (R394-R408). -/
structure Vf where
  part : Nat
  recIdx : Nat
  asid : Nat
  princ : Word
  ptroot : Nat
  ttbase : Nat
  ttlen : Nat
  lend : Bool
  vcppa : Nat
  reserve : Nat
  qslots : Nat
  dccount : Nat
  inuse : Nat
  borrowed : Nat
  ready : Bool
  featAgreed : DWord
  dcs : Tab Word
  /-- Parked queues (R401). -/
  parked : List Nat
  mirror : DWord
  mrqBase : DWord
  mrqTail : Nat
  mrqHead : Nat
  /-- Pages with a migration record outstanding or waiting for room: VA, level, kind, written (R443). -/
  migReqs : List (Nat × Nat × Nat × Bool)
  frozen : Bool
  freezing : Bool
  replaying : Bool
  remote : List RemoteWait
  deriving DecidableEq, Repr

/-! ## Fabric (R446-R454) -/

/-- An outbound or inbound window of a port (R449): remote or local base, length, device, partition. -/
structure PortWin where
  base : Nat
  len : Nat
  dev : Nat
  spart : Nat
  w : Bool
  valid : Bool
  /-- A close whose admitted requests are not all performed (R423). -/
  closing : Bool
  deriving DecidableEq, Repr

/-- A fabric port (R446). -/
structure Port where
  err : Bool
  up : Bool
  valid : Bool
  mode : Bool
  owner : Nat
  known : Bool
  peer : Nat
  blk : BitVec 24
  owin : Tab PortWin
  iwin : Tab PortWin
  deriving DecidableEq, Repr

/-- An outbound request without its response (R447, R448): who waits is 0 an access, 1 an engine operation, 2 nobody, 3 the
front end, with its number and part; the path and number of a store; tokens it waits for (R453). -/
structure OutReq where
  port : Nat
  part : Nat
  dev : Nat
  flit : Flit
  kind : Nat
  ref : Nat
  sub : Nat
  hold : List Nat
  deriving DecidableEq, Repr

/-- A path of this device's stores (R452, R453): partition, destination, last SEQ sent, last SEQ that the die router and the
port have forwarded, last SEQ covered by a token, last SEQ acknowledged, and whether a link has lost stores of it (R454). -/
structure FabPath where
  part : Nat
  dev : Nat
  port : Nat
  seq : Nat
  fwdRouter : Nat
  fwdPort : Nat
  token : Nat
  acked : Nat
  lost : Bool
  deriving DecidableEq, Repr

/-- An inbound path: source device, partition, last SEQ that the port and the die router have forwarded, the SEQs of its
stores that are not performed, and tokens held (R452, R453). -/
structure InPath where
  dev : Nat
  part : Nat
  fwdPort : Nat
  fwdRouter : Nat
  waiting : List Nat
  held : List (Nat × Flit)
  deriving DecidableEq, Repr

/-! ## Package (R455-R462) -/

/-- Management registers and what module flash and fuses hold (R458-R462). -/
structure Package where
  fail : Nat
  stage : Nat
  loading : Bool
  mrecpa : DWord
  mreclen : Word
  mfwver : Word
  mpcap : Nat
  overCap : Bool
  watts : Nat
  trip : Bool
  /-- Junction temperature of each die, °C (R457, R458). -/
  dieTemp : Tab Nat
  /-- The tile-cache clock at the nominal ratio of the PLL, and the other clocks (R458). -/
  tcmhz : Nat
  fabmhz : Nat
  memmhz : Nat
  matnpa : DWord
  matBusy : Bool
  matErr : Bool
  fabcfg : Nat
  /-- Module flash, and the image that runs (R459, R461). -/
  flash : List Byte
  image : List Byte
  fusedDigest : List Byte
  fusedSvn : Nat
  /-- The fused secret, the identity key that stage 2 derives from it, and the key's certificate in flash (R462). -/
  secret : List Byte
  identity : Option Nat
  cert : List Byte
  /-- The stages by which partitions were shed, latest first (R456). -/
  shedLog : List Nat
  dieHot : List Nat
  dieOff : List Nat
  /-- Index of the spare cluster that the fuses name, by physical region; eight for an unlisted one (R9, log 59). -/
  spares : Tab Nat
  deriving DecidableEq, Repr

/-- A signal to the host (R438): function (none for PF 0, else the package VF) and vector. -/
structure Msi where
  vf : Option Nat
  vector : Nat
  deriving DecidableEq, Repr

/-! ## Agenda (log 2) -/

/-- What happens next. The model's own: it resolves every choice the spec leaves to the hardware. -/
inductive Act where
  /-- The split of the warp issues its next instruction. -/
  | issue (w sp : Nat)
  /-- An event row of the table. -/
  | event (i : Instr)
  /-- The arithmetic clock reaches the core n times (R11): a W-core, or an N-core when frag. -/
  | tick (core : Nat) (frag : Bool) (n : Nat)
  /-- A region's tile-cache clock makes n cycles (R332). -/
  | tcTick (region n : Nat)
  /-- The host writes its own memory. -/
  | hostWrite (addr : Nat) (bytes : List Byte)
  /-- The host takes a range of its memory out of the device's reach, or gives it back (R395, R398). -/
  | hostReach (addr n : Nat) (gone : Bool)
  /-- A write of 4 or 8 bytes into the PF register aperture (R437). -/
  | pfWrite (off size : Nat) (v : DWord)
  /-- An uncorrectable error of one warp's registers or CSM (R427): SOFT in the split. -/
  | soft (w sp : Nat) (aux : Word)
  /-- An uncorrectable error in the data of part k of an access (R427). -/
  | dataError (acc k : Nat)
  /-- An uncorrectable error met by an engine operation, in an overhead-store page if one is named (R297, R427). -/
  | engError (op : Nat) (page : Option Nat)
  /-- A corrected error: 0 HBM, 1 SRAM, 2 registers or CSM (R427). -/
  | corrected (region kind : Nat)
  /-- A tile-cache entry or L1 or cached line is replaced: region, slice, tile of the entry. -/
  | evict (region slice idx : Nat)
  | evictL1 (cluster idx : Nat)
  /-- A word of a partition's policy table enters the cache, or leaves it (R335): its address, and whether it is kept. -/
  | policyWord (part addr : Nat) (keep : Bool)
  deriving DecidableEq, Repr

/-! ## Faults and refusals -/

/-- Reasons for which a step stops. -/
inductive Fault where
  /-- Raised by every meaning that issues from a split when the cursor names no live split: the
  machine has nothing that could execute the instruction. Safe: hardware issues only from live splits. -/
  | noIssuer
  deriving DecidableEq, Repr

/-- Reasons for which an instruction gets no meaning. -/
inductive Refusal where
  /-- Raised by an arm of exec whose instruction has no meaning yet. Safe: nothing is claimed. -/
  | notModelled (mnemonic : String)
  /-- Raised by step when the agenda names an encoded instruction as an event: no agent of the spec
  performs one outside a split. Safe: the agenda is the model's own. -/
  | notAnEvent
  deriving DecidableEq, Repr

/-! ## State -/

/-- The machine. -/
structure State where
  /-- Device physical memory (R463): bytes that are not zero, by address. -/
  mem : Tab Byte
  /-- Host memory (R395, R441): bytes that are not zero, by address. -/
  host : Tab Byte
  /-- Ranges of host memory that the device cannot reach: address and length (R395, R398). The host's, as its memory is. -/
  hostHoles : List (Nat × Nat)
  regions : Tab Region
  clusters : Tab Cluster
  cores : Tab Core
  parts : Tab Part
  vfs : Tab Vf
  lanes : Tab Lane
  packets : Tab Packet
  feOps : Tab FeOp
  /-- Pages of 64 KiB of a VF, by VF and first address, whose host copy was written while the device owned them (R441). -/
  spoiled : List (Nat × Nat)
  /-- Queues notified, oldest first: VF and queue (R396, R401). -/
  notified : List (Nat × Nat)
  vfmap : Tab Word
  ports : Tab Port
  outReqs : Tab OutReq
  paths : List FabPath
  inPaths : List InPath
  /-- Flits sent, oldest first: port and flit. -/
  outbox : List (Nat × Flit)
  msi : List Msi
  pkg : Package
  launches : Tab Launch
  blocks : Tab Block
  groups : Tab Group
  warps : Tab Warp
  accs : Tab Access
  sfus : Tab SfuOp
  ops : Tab EngOp
  /-- Next number of a new record. -/
  fresh : Nat
  /-- Next LAUNCHID by partition (R55, log 11). -/
  launchIds : Tab Nat
  /-- Free values drawn so far (log 5). The model's own. -/
  draws : Nat
  /-- The issuing warp and split. The model's own (log 2). -/
  cur : Option (Nat × Nat)
  agenda : List Act
  deriving DecidableEq, Repr

/-! ## Reset -/

/-- A W-core and its N-core after region reset: CYCLE zero (R11), everything else empty; CSM bytes zero (log 3). -/
def Core.reset : Core :=
  { cycle := 0, ncycle := 0, pipe := [], ccache := [], icache := [], csm := [], csmEmpty := [], nslots := [] }

/-- A clear accumulator slot (R265). -/
def AccSlot.reset : AccSlot := { data := [], k := 0, order := 0, base := 0, lists := [] }

/-- A cluster after reset: slots clear (R265), pages VALID 0 (R261), ACCOWN 0 (R267). -/
def Cluster.reset : Cluster :=
  { l1 := [], copyQ := [], tileQ := [], pages := [], osData := [], slots := [], accown := [], resv := [],
    shadows := [], latches := [] }

/-- A window entry after reset (R421). -/
def Win.reset : Win := { base := 0, len := 0, borrower := 0, w := false, valid := false, closing := false }

/-- A region after reset (R424, R427): gate open, RSCRUB 24, PLL at nominal. -/
def Region.reset : Region :=
  { pwr := 0, gated := false, fault := false, gate := true, resetting := false, recch := 0, reccs := 0, reccc := 0, rscrub := 24,
    wins := [], rsp := [], rspDraw := none, ents := [], tlb := [], dfq := [], sends := [], tclk := 0, parking := [], holding := false, preempting := none,
    pll := 4, hot := false, railOff := false }

/-- A partition control space after reset (R415-R435, R345, R371, R404). -/
def Part.reset : Part :=
  { err := false, run := false, shape := 0, fault := false, busy := false, state := 0, psupv := 0, pvfbase := 0,
    pvfcount := 0, plattol := 0, pshed := 0, pevictpa := 0, vfcmdBusy := false, vfcmdErr := false, vfcmdVf := 0,
    vfmigBusy := false, vfmigAborted := false, vfmigVf := 0, prmapErr := false,
    prmapBusy := false, remap := [], unitTab := [], committed := false, dbgctl := 0, tccfgErr := false, tccfg := 6,
    tchashk := 0, polbase := 0, teqbase := 0, teqsize := 0, teqhead := 0, teqtail := 0, teqlost := 0,
    lostPending := 0, dfbudget := 0x400, dfTokens := 0, tupa := 0, tuva := 0, tuval := 0, tuErr := false, tuBusy := false, tuRange := (0, 0), tuLeaf := false,
    lepoch := 0, lpredl := 0x03E800C8, lsavepa := 0, lsavelen := 0, burstUsed := 0, burstSlots := 0,
    feslice := 2000, owc := 0, wqs := [], polLines := [], sweeping := false, heldEpochs := 0, registered := [], unregs := [], views := [],
    sweeps := [],
    sliceVf := none, shed := 0, evicted := [] }

/-- An unassigned port (R446, R449). -/
def Port.reset : Port :=
  { err := false, up := false, valid := false, mode := false, owner := 0, known := false, peer := 0, blk := 0,
    owin := [], iwin := [] }

/-- A port window after reset (R449). -/
def PortWin.reset : PortWin :=
  { base := 0, len := 0, dev := 0, spart := 0, w := false, valid := false, closing := false }

/-- Management registers after package reset (R458); no image in flash, fuses zero (log 4). -/
def Package.reset : Package :=
  { fail := 0, stage := 0, loading := false, mrecpa := 0, mreclen := 0, mfwver := 0, mpcap := 2600, overCap := false,
    watts := 0, trip := false, dieTemp := [], tcmhz := 0, fabmhz := 0, memmhz := 0, matnpa := 0,
    matBusy := false, matErr := false, fabcfg := 0, flash := [], image := [], fusedDigest := [], fusedSvn := 0,
    secret := [], identity := none, cert := [], shedLog := [], dieHot := [], dieOff := [], spares := [] }

/-- The CSRs of a warp at start (R48, R175, R181, R290); PRINC and SAVEBASE are set at dispatch. -/
def Csrs.reset : Csrs :=
  { exthr := 0, ganga := 0, gangb := 0, trapv := 0, trapc := 0, trappc := 0, trapal := 0, trapah := 0, trapaux := 0,
    hintdrop := 0, cbank := 0, cycleh := 0, princ := 0, savebase := 0, strapc := 0, strappc := 0, strapal := 0,
    strapah := 0, strapaux := 0 }

/-- The scalar side of a warp at start (R48). -/
def Scal.reset : Scal :=
  { s := [], st := [], cancel := 0, q := 0, sq := [], csr := Csrs.reset, supS := [], supSt := [], supQ := 0 }

/-- The machine right after package reset: nothing runs, memory lists nothing. -/
def State.reset : State :=
  { mem := [], host := [], hostHoles := [], regions := [], clusters := [], cores := [], parts := [], vfs := [], lanes := [],
    packets := [], feOps := [], spoiled := [], notified := [], vfmap := [], ports := [], outReqs := [], paths := [], inPaths := [], outbox := [],
    msi := [], pkg := Package.reset, launches := [], blocks := [], groups := [], warps := [], accs := [], sfus := [],
    ops := [], fresh := 1, launchIds := [], draws := 0, cur := none, agenda := [] }

end Sys2Proof.Machine
end

