-- ==== Sys2Proof/Machine/Ops.lean ====
section
/-! DEFINITION. The named operations: tables, memory, registers, splits, the end of launches, taking an
exception and returning from one. -/

namespace Sys2Proof.Machine

/-- What a meaning answers. -/
abbrev Out := Host.Outcome State Fault Refusal

/-! ## Tables -/

/-- The entry numbered k, if one is listed. -/
def tfind {α : Type} : Tab α → Nat → Option α
  | [], _ => none
  | (j, v) :: t, k => if j = k then some v else tfind t k

/-- The entry numbered k, or the default. -/
def tget {α : Type} (d : α) (t : Tab α) (k : Nat) : α := (tfind t k).getD d

/-- Puts an entry in its place. -/
def tset {α : Type} : Tab α → Nat → α → Tab α
  | [], k, v => [(k, v)]
  | (j, u) :: t, k, v =>
    if k < j then (k, v) :: (j, u) :: t
    else if j = k then (k, v) :: t
    else (j, u) :: tset t k v

/-- Drops the entry numbered k. -/
def tdel {α : Type} (t : Tab α) (k : Nat) : Tab α := t.filter fun e => e.1 != k

/-- Changes every listed entry. -/
def tmap {α : Type} (t : Tab α) (f : Nat → α → α) : Tab α := t.map fun e => (e.1, f e.1 e.2)

/-- Changes the entry numbered k, if one is listed. -/
def tmod {α : Type} (t : Tab α) (k : Nat) (f : α → α) : Tab α :=
  tmap t fun j v => if j = k then f v else v

/-! ## Memory -/

/-- A byte memory in canonical form: addresses rising, no zero byte listed; an unlisted byte reads
zero (log 3). -/
abbrev Memory := Tab Byte

/-- Addresses rise strictly and lie above a bound. -/
def Memory.risingFrom : Nat → Memory → Bool
  | _, [] => true
  | n, (a, b) :: m => decide (n ≤ a) && b != 0 && Memory.risingFrom (a + 1) m

/-- The canonical form of a memory. -/
def Memory.wf (m : Memory) : Bool := Memory.risingFrom 0 m

/-- One byte. -/
def Memory.read (m : Memory) (a : Nat) : Byte := tget 0 m a

/-- Stores one byte; a zero removes the entry. -/
def Memory.write (m : Memory) (a : Nat) (b : Byte) : Memory := if b = 0 then tdel m a else tset m a b

/-- n bytes from an address on. -/
def Memory.readN (m : Memory) (a n : Nat) : List Byte := (List.range n).map fun i => m.read (a + i)

/-- Stores bytes from an address on. -/
def Memory.writeN : Memory → Nat → List Byte → Memory
  | m, _, [] => m
  | m, a, b :: bs => Memory.writeN (m.write a b) (a + 1) bs

/-- Makes n bytes from an address on zero. -/
def Memory.zeroN (m : Memory) (a n : Nat) : Memory :=
  m.filter fun e => e.1 < a || a + n ≤ e.1

/-- The number that bytes in little-endian order spell (R58). -/
def leNat : List Byte → Nat
  | [] => 0
  | b :: bs => b.toNat + 256 * leNat bs

/-- The n low bytes of a number, least significant first. -/
def leBytes : Nat → Nat → List Byte
  | 0, _ => []
  | n + 1, v => BitVec.ofNat 8 v :: leBytes n (v / 256)

/-- A number of n bytes in memory. -/
def Memory.num (m : Memory) (a n : Nat) : Nat := leNat (m.readN a n)

/-- Bits [hi:lo] of a number. -/
def bits (v hi lo : Nat) : Nat := v / 2 ^ lo % 2 ^ (hi + 1 - lo)

/-! ## Lanes -/

/-- Every lane. -/
def allLanes : Mask := 0xFFFFFFFF

/-- Lane l of a register's lanes. -/
def laneOf (xs : List Word) (l : Nat) : Word := xs.getD l 0

/-- The 32 lanes of a function. -/
def lanes32 (f : Nat → Word) : List Word := (List.range 32).map f

/-- The mask of the first n lanes in which f holds. -/
def maskTo (f : Nat → Bool) : Nat → Mask
  | 0 => 0
  | n + 1 => if f n then maskTo f n ||| (1#32 <<< n) else maskTo f n

/-- The mask of the lanes in which f holds. -/
def maskOf (f : Nat → Bool) : Mask := maskTo f 32

/-- The lanes of a mask, ascending. -/
def lanesOf (m : Mask) : List Nat := (List.range 32).filter fun l => m.getLsbD l

/-- Lanes in a mask. -/
def laneCount (m : Mask) : Nat := (lanesOf m).length

/-! ## Places -/

/-- Physical cluster of a core (R8). -/
def coreCluster (c : Nat) : Nat := c / 4
/-- Physical region of a cluster (R9). -/
def clusterRegion (pc : Nat) : Nat := pc / 9
/-- Physical region of a core. -/
def coreRegion (c : Nat) : Nat := clusterRegion (coreCluster c)

/-- A core. -/
def State.core (s : State) (c : Nat) : Core := tget Core.reset s.cores c
/-- A cluster by physical id. -/
def State.cluster (s : State) (c : Nat) : Cluster := tget Cluster.reset s.clusters c
/-- A region by physical id. -/
def State.region (s : State) (r : Nat) : Region := tget Region.reset s.regions r
/-- A partition control space. -/
def State.part (s : State) (p : Nat) : Part := tget Part.reset s.parts p
/-- A fabric port. -/
def State.port (s : State) (p : Nat) : Port := tget Port.reset s.ports p

/-- Replaces a core. -/
def State.setCore (s : State) (c : Nat) (x : Core) : State := { s with cores := tset s.cores c x }
/-- Replaces a cluster. -/
def State.setCluster (s : State) (c : Nat) (x : Cluster) : State := { s with clusters := tset s.clusters c x }
/-- Replaces a region. -/
def State.setRegion (s : State) (r : Nat) (x : Region) : State := { s with regions := tset s.regions r x }
/-- Replaces a partition. -/
def State.setPart (s : State) (p : Nat) (x : Part) : State := { s with parts := tset s.parts p x }
/-- Replaces a port. -/
def State.setPort (s : State) (p : Nat) (x : Port) : State := { s with ports := tset s.ports p x }

/-- Number of regions of a shape (R413). -/
def shapeRegions (sh : Nat) : Nat :=
  if sh = 1 then 1 else if sh = 2 then 2 else if sh = 3 then 3
  else if sh = 4 then 6 else if sh = 5 then 12 else if sh = 6 then 24 else 0

/-- Regions of partition p: its id and those that follow (R413). -/
def State.partRegions (s : State) (p : Nat) : Nat := shapeRegions (s.part p).shape

/-- Whether region r belongs to partition p. -/
def State.inPart (s : State) (p r : Nat) : Bool := decide (p ≤ r) && decide (r < p + s.partRegions p)

/-- R314 item 6: an OPEN entry whose FOWC lags OWC by 2^15 or more. -/
def Ent.lags (e : Ent) (owc : Nat) : Bool := e.opn && decide (32768 ≤ (owc % 65536 + 65536 - e.fowc % 65536) % 65536)

/-- The open-write counter of a partition rises by 1; the slices drop the OPEN entries that then lag too far, none of which
holds a dirty sector (R314). -/
def State.addOwc (s : State) (p : Nat) : State :=
  let P := s.part p
  let owc := (P.owc + 1) % 2 ^ 32
  let s := s.setPart p { P with owc := owc }
  { s with regions := tmap s.regions fun r R =>
      if s.inPart p r then { R with ents := tmap R.ents fun _ es => es.filter fun e => !e.lags owc } else R }

/-- The partition that holds region r. -/
def State.regionPart (s : State) (r : Nat) : Option Nat := (List.range 24).find? fun p => s.inPart p r

/-- The launch of a block. -/
def State.blockLaunch (s : State) (b : Nat) : Option Launch :=
  (tfind s.blocks b).bind fun B => tfind s.launches B.launch

/-- The launch of a warp. -/
def State.warpLaunch (s : State) (W : Warp) : Option Launch := s.blockLaunch W.block

/-- The partition in which a warp runs. -/
def State.warpPart (s : State) (W : Warp) : Nat := ((s.warpLaunch W).map (·.part)).getD 0

/-- The address space of a warp (R17). -/
def State.warpAsid (s : State) (W : Warp) : Nat :=
  (((s.warpLaunch W).bind fun L => tfind s.vfs L.vf).map (·.asid)).getD 0

/-- Physical cluster of a logical cluster (R41, R44). -/
def State.physCluster (s : State) (p lc : Nat) : Option Nat := tfind (s.part p).unitTab lc

/-- Logical cluster of a physical one in a partition (R41). -/
def State.logCluster (s : State) (p pc : Nat) : Nat :=
  (((s.part p).unitTab.find? fun e => e.2 = pc).map (·.1)).getD 0

/-! ## Vector registers of a warp -/

/-- The 32 lanes of vector register r at the W-core. -/
def Warp.vlanes (W : Warp) (r : Nat) : List Word := tget [] W.v r
/-- State of vector register r at the W-core. -/
def Warp.vstate (W : Warp) (r : Nat) : RegState := tget .full W.vst r

/-- The fragment slot of a split. -/
def Split.slot? (X : Split) : Option Slot :=
  match X.home with
  | .wcore => none
  | .ncore f => some f

/-- Whether the split runs in its W-core. -/
def Split.isLocal (X : Split) : Bool :=
  match X.home with
  | .wcore => true
  | .ncore _ => false

/-- Changes the fragment slot of a split. -/
def Split.modSlot (X : Split) (f : Slot → Slot) : Split :=
  match X.home with
  | .wcore => X
  | .ncore q => { X with home := .ncore (f q) }

/-- R198: before vector register r of the warp changes, its export-time values go to the fragments
for which the register is export-pending; of a register that is EMPTY, the value that arrives is theirs (R196). -/
def Warp.overpush (W : Warp) (r : Nat) : Warp :=
  { W with splits := W.splits.map fun X => X.modSlot fun f =>
      if f.pending.getLsbD r && W.vstate r = .full then
        { f with
          pending := f.pending &&& ~~~(1#64 <<< r)
          xfers := if (tfind f.xfers r).isSome then f.xfers else tset f.xfers r { pushed := true, vals := W.vlanes r } }
      else f }

/-- Sets the state of vector register r at the W-core. -/
def Warp.setVState (W : Warp) (r : Nat) (q : RegState) : Warp :=
  let W := W.overpush r
  { W with vst := tset W.vst r q }

/-- Writes the lanes of P of vector register r at the W-core and sets it FULL (R50, R122). -/
def Warp.writeV (W : Warp) (r : Nat) (P : Mask) (f : Nat → Word) : Warp :=
  let W := W.overpush r
  { W with
    v := tset W.v r (lanes32 fun l => if P.getLsbD l then f l else laneOf (W.vlanes r) l)
    vst := tset W.vst r .full }

/-- A long-latency result lands: a fragment for which the register is still export-pending waits for this value
(R196). -/
def Warp.fillV (W : Warp) (r : Nat) (P : Mask) (f : Nat → Word) : Warp :=
  { W with
    v := tset W.v r (lanes32 fun l => if P.getLsbD l then f l else laneOf (W.vlanes r) l)
    vst := tset W.vst r .full }

/-- A register of a mapped shared range (R168). -/
def Warp.shared (W : Warp) (r : Nat) : Bool :=
  match W.shr with
  | none => false
  | some (f, n, _) => decide (f ≤ r) && decide (r < f + n)

/-- Gives the peer's copy of one shared register the warp's value and state (R168, R198). -/
def syncReg (W P : Warp) (r : Nat) : Warp :=
  if P.vlanes r = W.vlanes r && P.vstate r = W.vstate r then P
  else
    let P := P.overpush r
    { P with v := tset P.v r (W.vlanes r), vst := tset P.vst r (W.vstate r) }

/-- Puts a warp back; a mapped shared range is one set of registers for both warps (R168). -/
def State.putWarp (s : State) (w : Nat) (W : Warp) : State :=
  let ws := tset s.warps w W
  match W.shr with
  | none => { s with warps := ws }
  | some (f, n, peer) =>
    { s with warps := tmod ws peer fun P => ((List.range n).map (f + ·)).foldl (syncReg W) P }

/-! ## Splits -/

/-- The split with an id. -/
def Warp.split (W : Warp) (id : Nat) : Option Split := W.splits.find? fun X => X.id = id

/-- The split with an id, if it is the one that had it when it was named. -/
def Warp.splitOf (W : Warp) (id uid : Nat) : Option Split := (W.split id).filter fun X => X.uid = uid

/-- Replaces the split with that id. -/
def Warp.setSplit (W : Warp) (X : Split) : Warp :=
  { W with splits := W.splits.map fun Y => if Y.id = X.id then X else Y }

/-- Removes a split; its id is free. -/
def Warp.dropSplit (W : Warp) (id : Nat) : Warp :=
  { W with splits := W.splits.filter fun X => X.id != id }

/-- The lowest free split id (R150). -/
def Warp.freeId (W : Warp) : Option Nat := (List.range 4).find? fun i => (W.split i).isNone

/-- The older of two splits. -/
def olderOf (a : Option Split) (b : Split) : Option Split :=
  match a with
  | none => some b
  | some x => if b.age < x.age then some b else some x

/-- The oldest split of a list. -/
def oldest (xs : List Split) : Option Split := xs.foldl olderOf none

/-- The join entry with an id on a stack. -/
def stackEntry (st : List StackE) (id : Nat) : Option JoinE :=
  match st with
  | [] => none
  | .call _ :: t => stackEntry t id
  | .join e :: t => if e.id = id then some e else stackEntry t id

/-- Changes the join entry with an id. -/
def modStack (id : Nat) (f : JoinE → JoinE) (st : List StackE) : List StackE :=
  st.map fun x =>
    match x with
    | .call r => .call r
    | .join e => if e.id = id then .join (f e) else .join e

/-- The join entry with an id, and the id of the split that owns it. -/
def Warp.entry (W : Warp) (id : Nat) : Option (Nat × JoinE) :=
  W.splits.findSome? fun X => (stackEntry X.stack id).map fun e => (X.id, e)

/-- Changes a join entry. -/
def Warp.modEntry (W : Warp) (id : Nat) (f : JoinE → JoinE) : Warp :=
  { W with splits := W.splits.map fun X => { X with stack := modStack id f X.stack } }

/-- R151: the innermost join of a split, and whether the split owns it. Entries of the user image do not
count in supervisor mode (log 20). -/
def Split.innermost (X : Split) : Option (Bool × Nat) :=
  match X.stack with
  | .join e :: _ => if X.sup && X.stack.length ≤ X.supBase then none else some (true, e.id)
  | .call _ :: _ => none
  | [] => if X.sup && !X.supChild then none else X.link.map fun e => (false, e)

/-- R153, arrive: the split's lanes arrive at the entry. A deferred path starts; an owner without one waits;
another split ends, or, in a fragment, starts to rejoin (R204). -/
def Warp.arrive (W : Warp) (X : Split) (own : Bool) (e : JoinE) : Warp :=
  if own then
    match e.defer with
    | some (pc, m) =>
      (W.setSplit { X with pc := pc, mask := m, fmt := e.fmt }).modEntry e.id
        fun e => { e with arrived := e.arrived ||| X.mask, defer := none }
    | none =>
      (W.setSplit { X with wait := .atJoin e.id }).modEntry e.id
        fun e => { e with arrived := e.arrived ||| X.mask }
  else
    match X.home with
    | .wcore => (W.dropSplit X.id).modEntry e.id fun e => { e with arrived := e.arrived ||| X.mask }
    | .ncore f => W.setSplit { X with home := .ncore { f with stage := .rejoining } }

/-- R153, try_merge: once every lane has arrived or exited and no fragment is outstanding, the owner, which
waits at the entry, goes on with the whole mask. Answers the owner that merged. -/
def Warp.tryMerge (W : Warp) (id : Nat) : Option (Warp × Nat) :=
  match W.entry id with
  | none => none
  | some (o, e) =>
    match W.split o with
    | none => none
    | some O =>
      if (e.arrived ||| W.exited) &&& e.mask = e.mask && e.joins = 0 && O.wait = .atJoin id then
        some (W.setSplit { O with mask := e.mask &&& ~~~W.exited, pc := e.j, fmt := e.fmt,
                                  stack := O.stack.tail, wait := .none }, o)
      else none

/-- A stack without its call entries (R154). -/
def dropCalls (st : List StackE) : List StackE :=
  st.filter fun x => match x with | .call _ => false | .join _ => true

/-- A split with an empty mask that a handler took at its join entry, and that goes back there (R155, R180). -/
def Split.borrowed (X : Split) : Bool := X.mask = 0 && (X.service || X.savedWait ≠ .none || X.trapWait.isSome)

/-- R153, R154: what follows when a split's PC or mask has changed: an empty split leaves, a split at the J
of its innermost join arrives, and a merge is followed by the owner's own check. The fuel bounds the
entries passed at one offset. -/
def Warp.settle : Nat → Warp → Nat → Warp
  | 0, W, _ => W
  | n + 1, W, x =>
    match W.split x with
    | none => W
    | some X =>
      if X.wait ≠ .none || X.service || X.borrowed then W
      else
        let X := if X.mask = 0 then { X with stack := dropCalls X.stack } else X
        match X.innermost with
        | none => if X.mask = 0 then W.dropSplit x else W
        | some (own, eid) =>
          match W.entry eid with
          | none => if X.mask = 0 then W.dropSplit x else W
          | some (_, e) =>
            if X.mask = 0 || X.pc = e.j then
              let W := (W.setSplit X).arrive X own e
              match W.tryMerge eid with
              | some (W, o) => Warp.settle n W o
              | none => Warp.settle n W x
            else W

/-- Entries that settle passes at most: four stacks of 64, twice. -/
def settleFuel : Nat := 512

/-! ## The issuing split -/

/-- A warp, one of its splits, and the state around them. -/
structure Ctx where
  s : State
  w : Nat
  W : Warp
  sp : Split

/-- Puts the warp and the split back. -/
def Ctx.put (c : Ctx) : State := c.s.putWarp c.w (c.W.setSplit c.sp)

/-- Lanes of vector register r as the split sees them; vz reads zero (R46, R195). -/
def Ctx.vlanes (c : Ctx) (r : BitVec 6) : List Word :=
  if r = 63 then []
  else
    match c.sp.home with
    | .wcore => c.W.vlanes r.toNat
    | .ncore f => tget [] f.v r.toNat

/-- Vector register r in lane l. -/
def Ctx.v (c : Ctx) (r : BitVec 6) (l : Nat) : Word := laneOf (c.vlanes r) l

/-- The pair r, r + 1 in lane l (R47). -/
def Ctx.vPair (c : Ctx) (r : BitVec 6) (l : Nat) : DWord :=
  if r = 63 then 0 else c.v (r + 1) l ++ c.v r l

/-- The lanes in which predicate n holds; pt holds in all (R46). -/
def Ctx.pmask (c : Ctx) (n : BitVec 3) : Mask :=
  if n = 7 then allLanes
  else
    match c.sp.home with
    | .wcore => tget 0 c.W.p n.toNat
    | .ncore f => tget 0 f.p n.toNat

/-- The lanes in which a guarded instruction acts (R66). -/
def Ctx.parts (c : Ctx) (g : BitVec 3) : Mask := c.sp.mask &&& c.pmask g

/-- The scalar side the split reads: a fragment reads what its SREAD brought (R190). -/
def Ctx.scal (c : Ctx) : Scal :=
  match c.sp.home with
  | .wcore => c.W.sc
  | .ncore f => f.snap.getD c.W.sc

/-- Whether scalar name r is of the supervisor bank here (R182). -/
def Ctx.bank (c : Ctx) (r : BitVec 6) : Bool := c.sp.sup && decide (48 ≤ r.toNat) && decide (r.toNat < 63)

/-- A scalar register of the warp or its supervisor bank. -/
def Scal.sreg (q : Scal) (bank : Bool) (r : BitVec 6) : Word :=
  if r = 63 then 0 else if bank then tget 0 q.supS r.toNat else tget 0 q.s r.toNat

/-- Its state (R49). -/
def Scal.sstate (q : Scal) (bank : Bool) (r : BitVec 6) : RegState :=
  if r = 63 then .full else if bank then tget .full q.supSt r.toNat else tget .full q.st r.toNat

/-- Place of the cancel mark of a scalar register (R172). -/
def cancelBit (bank : Bool) (r : BitVec 6) : Nat := if bank then 64 + r.toNat else r.toNat

/-- A scalar register by number: from 64 on one of the supervisor bank. -/
def scalarOf (n : Nat) : Bool × BitVec 6 := (decide (64 ≤ n), BitVec.ofNat 6 (n % 64))

/-- The number of a scalar register and its bank. -/
def scalarNo (bank : Bool) (r : BitVec 6) : Nat := if bank then 64 + r.toNat else r.toNat

/-- Sets a scalar register's value and state; a write clears the cancel mark (R172). sz discards it. -/
def Scal.write (q : Scal) (bank : Bool) (r : BitVec 6) (v : Word) (st : RegState) : Scal :=
  if r = 63 then q
  else
    let q := { q with cancel := q.cancel &&& ~~~(1#128 <<< cancelBit bank r) }
    if bank then { q with supS := tset q.supS r.toNat v, supSt := tset q.supSt r.toNat st }
    else { q with s := tset q.s r.toNat v, st := tset q.st r.toNat st }

/-- Uniform predicate n; q4-q6 are of the supervisor bank in supervisor mode (R182). -/
def Scal.qreg (q : Scal) (sup : Bool) (n : BitVec 3) : Bool :=
  if n = 7 then true else if sup && decide (4 ≤ n.toNat) then q.supQ.getLsbD n.toNat else q.q.getLsbD n.toNat

/-- Bit n of a byte set to b. -/
def setBit8 (m : BitVec 8) (n : Nat) (b : Bool) : BitVec 8 :=
  if b then m ||| (1#8 <<< n) else m &&& ~~~(1#8 <<< n)

/-- Writes a uniform predicate; qt discards it. -/
def Scal.writeQ (q : Scal) (sup : Bool) (n : BitVec 3) (b : Bool) : Scal :=
  if n = 7 then q
  else if sup && decide (4 ≤ n.toNat) then { q with supQ := setBit8 q.supQ n.toNat b }
  else { q with q := setBit8 q.q n.toNat b }

/-- Scalar register r as the split reads it. -/
def Ctx.sreg (c : Ctx) (r : BitVec 6) : Word := c.scal.sreg (c.bank r) r
/-- Its state. -/
def Ctx.sstate (c : Ctx) (r : BitVec 6) : RegState := c.scal.sstate (c.bank r) r
/-- Its cancel mark (R172). -/
def Ctx.smark (c : Ctx) (r : BitVec 6) : Bool := c.scal.cancel.getLsbD (cancelBit (c.bank r) r)
/-- A scalar pair (R47). -/
def Ctx.sPair (c : Ctx) (r : BitVec 6) : DWord := if r = 63 then 0 else c.sreg (r + 1) ++ c.sreg r
/-- Uniform predicate n as the split reads it. -/
def Ctx.qreg (c : Ctx) (n : BitVec 3) : Bool := c.scal.qreg c.sp.sup n

/-- Writes vector register d in the lanes of P and sets it FULL; vz discards the write. In a fragment the
slot takes it, present and dirty (R197). -/
def Ctx.setV (c : Ctx) (d : BitVec 6) (P : Mask) (f : Nat → Word) : Ctx :=
  if d = 63 then c
  else
    match c.sp.home with
    | .wcore => { c with W := c.W.writeV d.toNat P f }
    | .ncore q =>
      { c with sp := { c.sp with home := .ncore { q with
          present := q.present ||| (1#64 <<< d.toNat)
          dirty := q.dirty ||| (1#64 <<< d.toNat)
          v := tset q.v d.toNat (lanes32 fun l => if P.getLsbD l then f l else laneOf (tget [] q.v d.toNat) l)
          vst := tset q.vst d.toNat .full } } }

/-- Sets vector register d EMPTY, as a long-latency producer does at issue (R50). -/
def Ctx.emptyV (c : Ctx) (d : BitVec 6) : Ctx :=
  if d = 63 then c
  else
    match c.sp.home with
    | .wcore => { c with W := c.W.setVState d.toNat .empty }
    | .ncore q => { c with sp := { c.sp with home := .ncore { q with vst := tset q.vst d.toNat .empty } } }

/-- Writes lane predicate n in the lanes of P; pt discards it (R128, R197). -/
def Ctx.setP (c : Ctx) (n : BitVec 3) (P : Mask) (f : Nat → Bool) : Ctx :=
  if n = 7 then c
  else
    let m := (c.pmask n &&& ~~~P) ||| (maskOf f &&& P)
    match c.sp.home with
    | .wcore => { c with W := { c.W with p := tset c.W.p n.toNat m } }
    | .ncore q =>
      { c with sp := { c.sp with home := .ncore { q with
          p := tset q.p n.toNat m, pDirty := setBit8 q.pDirty n.toNat true } } }

/-- Changes the scalar side of a local split; a fragment's write is sent to the parent (R190). -/
def Ctx.scalWrite (c : Ctx) (m : SWrite) (f : Scal → Scal) : Ctx :=
  match c.sp.home with
  | .wcore => { c with W := { c.W with sc := f c.W.sc } }
  | .ncore _ => { c with W := { c.W with swrites := c.W.swrites ++ [m] } }

/-- Writes scalar register d with a state (R50, R190). -/
def Ctx.setSState (c : Ctx) (d : BitVec 6) (v : Word) (st : RegState) : Ctx :=
  if d = 63 then c else c.scalWrite (.reg (scalarNo (c.bank d) d) v st) fun q => q.write (c.bank d) d v st
/-- Writes scalar register d and sets it FULL. -/
def Ctx.setS (c : Ctx) (d : BitVec 6) (v : Word) : Ctx := c.setSState d v .full
/-- Writes a scalar pair (R47). -/
def Ctx.setSPair (c : Ctx) (d : BitVec 6) (v : DWord) : Ctx :=
  if d = 63 then c else (c.setS d (v.extractLsb' 0 32)).setS (d + 1) (v.extractLsb' 32 32)
/-- Writes a vector pair (R47). -/
def Ctx.setVPair (c : Ctx) (d : BitVec 6) (P : Mask) (f : Nat → DWord) : Ctx :=
  if d = 63 then c
  else (c.setV d P fun l => (f l).extractLsb' 0 32).setV (d + 1) P fun l => (f l).extractLsb' 32 32
/-- The number of a uniform predicate on its way to the parent: from 8 on one of the supervisor bank (R182). -/
def predNo (sup : Bool) (n : BitVec 3) : Nat := if sup && decide (4 ≤ n.toNat) then 8 + n.toNat else n.toNat

/-- Writes a uniform predicate. -/
def Ctx.setQ (c : Ctx) (n : BitVec 3) (b : Bool) : Ctx :=
  if n = 7 then c else c.scalWrite (.q (predNo c.sp.sup n) b) fun q => q.writeQ c.sp.sup n b

/-! ## Images (R84-R86) -/

/-- The header fields of a kernel image, read through f (R85). -/
def imageOf (f : Nat → Nat → Nat) : Image :=
  { codeOff := f 0x08 4, codeLen := f 0x0C 4, cbOff := f 0x10 4, cbCount := f 0x14 1,
    keepOff := f 0x1C 4, keepCount := f 0x20 4, extent := 0 }

/-- Physical address of the supervisor image (R416). -/
def Part.supImage (p : Part) : Nat := bits p.psupv.toNat 51 8 * 256

/-- The image that PSUPV names, read by physical address (R182). -/
def State.supImage (s : State) (p : Nat) : Image :=
  imageOf fun o n => Memory.num s.mem ((s.part p).supImage + o) n

/-- The image whose code the split runs (R71, R182). -/
def Ctx.image (c : Ctx) : Image :=
  if c.sp.sup then s_image c.s c.W else u_image c.s c.W
where
  s_image (s : State) (W : Warp) : Image := s.supImage (s.warpPart W)
  u_image (s : State) (W : Warp) : Image :=
    ((s.warpLaunch W).map (·.img)).getD (imageOf fun _ _ => 0)

/-! ## The trace unit of a cluster (R375-R377) -/

/-- The block's most recent entry of a kind and tensor (R376). -/
def lastEntry (es : List TraceE) (kind tensor : Nat) : Option Nat :=
  ((List.range es.length).filter fun i =>
    match es[i]? with
    | some e => e.kind = kind && e.tensor = tensor
    | none => false).getLast?

/-- First tile of an entry; of a flat one its VA[56:12] (R374). -/
def TraceE.first (e : TraceE) : Nat := e.flathi * 2 ^ 40 + e.start

/-- Appends an entry, if the buffer has room (R376). -/
def Block.traceAdd (B : Block) (cap kind tensor i n : Nat) : Block :=
  if B.tOverflow then B
  else if cap ≤ B.trace.length then { B with tOverflow := true, tAlways := true }
  else { B with trace := B.trace ++
          [{ kind := kind, tensor := tensor, flathi := i / 2 ^ 40, start := i % 2 ^ 40, len := n }] }

/-- R376: an access of a kind to tile i of a tensor. -/
def Block.traceOne (B : Block) (cap kind tensor i : Nat) : Block :=
  match (lastEntry B.trace kind tensor).bind fun k => (B.trace[k]?).map fun e => (k, e) with
  | none => B.traceAdd cap kind tensor i 1
  | some (k, e) =>
    if e.first ≤ i && i < e.first + e.len then B
    else if B.tOverflow then B
    else if i = e.first + e.len && e.len < 0xFFFFFF then
      { B with trace := B.trace.set k { e with len := e.len + 1 } }
    else B.traceAdd cap kind tensor i 1

/-- R376: the run of n tiles that TRACEX names (R377). -/
def Block.traceRun (B : Block) (cap kind tensor i n : Nat) : Block :=
  match lastEntry B.trace kind tensor with
  | none => B.traceAdd cap kind tensor i n
  | some _ => (List.range n).foldl (fun B k => B.traceOne cap kind tensor (i + k)) B

/-- CAP of the launch of a block whose accesses are recorded: under RECORD and not PAUSED (R375). -/
def State.recording (s : State) (b : Nat) : Option Nat :=
  match tfind s.blocks b, s.blockLaunch b with
  | some B, some L => if L.desc.trace = 1 && !B.tPaused then some L.desc.cap else none
  | _, _ => none

/-- An access of a kind to a tile enters the trace: 0 READ, 1 WRITE, 2 ACCUM (R375). -/
def State.traceAs (s : State) (b cap kind tensor i : Nat) : State :=
  { s with blocks := tmod s.blocks b fun B =>
      { B.traceOne cap kind tensor i with tAccum := B.tAccum || kind = 2 } }

/-- Records an access, unless the block is PAUSED (R375). -/
def State.trace (s : State) (b kind tensor i : Nat) : State :=
  match s.recording b with
  | none => s
  | some cap => s.traceAs b cap kind tensor i

/-- FLAT: the block read global memory as plain bytes (R375). -/
def State.traceFlag (s : State) (b : Nat) : State :=
  match s.recording b with
  | none => s
  | some _ => { s with blocks := tmod s.blocks b fun B => { B with tFlat := true } }

/-- Records a flat access to the 4 KiB that hold an address (R375). -/
def State.traceFlat (s : State) (b kind va : Nat) : State :=
  let s := s.trace b kind 0 (bits va 56 12)
  if kind = 0 then s.traceFlag b else s

/-- ALWAYS: the block met the RSP or popped a record (R375). -/
def State.traceAlways (s : State) (b : Nat) : State :=
  match s.recording b with
  | none => s
  | some _ => { s with blocks := tmod s.blocks b fun B => { B with tAlways := true } }

/-- The lanes of an access at the L1 request port. -/
def State.traceLanes (s : State) (b kind : Nat) (xs : List LaneAcc) : State :=
  xs.foldl (fun s x =>
    match x.tgt with
    | .glob => if x.got then s else s.traceFlat b kind x.ea
    | .rsp _ _ => s.traceAlways b
    | _ => s) s

/-! ## Stores on their way (R221) -/

/-- The tiles of 4 KiB that lanes touch in global memory, as parts of an access. -/
def subsOf (lanes : List LaneAcc) : List Sub :=
  (((lanes.filter fun x => x.tgt = .glob).map fun x => x.ea / 4096).eraseDups).map
    fun t => { tile := t, st := .waiting, fail := none }

/-- Writes bytes into a CSM slice. -/
def State.csmWrite (s : State) (core a : Nat) (bs : List Byte) : State :=
  let c := s.core core
  s.setCore core { c with csm := Memory.writeN c.csm a bs }

/-- Reads bytes of a CSM slice. -/
def State.csmRead (s : State) (core a n : Nat) : List Byte := Memory.readN (s.core core).csm a n

/-- Sets granules of a slice EMPTY or FULL (R216). -/
def State.csmMark (s : State) (core first n : Nat) (empty : Bool) : State :=
  let c := s.core core
  let rest := c.csmEmpty.filter fun g => g < first || first + n ≤ g
  s.setCore core { c with csmEmpty := if empty then rest ++ (List.range n).map (first + ·) else rest }

/-- Whether a granule is FULL. -/
def State.csmFull (s : State) (core g : Nat) : Bool := !(s.core core).csmEmpty.contains g

/-- One byte of a scratchpad (R20); undefined since a resplit until it is written (R345). -/
def Region.rspByte (R : Region) (a : Nat) : Byte :=
  match tfind R.rsp a, R.rspDraw with
  | some b, _ => b
  | none, none => 0
  | none, some k => Config.freeByte (k * 2 ^ 26 + a)

/-- Writes one byte of a scratchpad. -/
def Region.rspPut (R : Region) (a : Nat) (b : Byte) : Region :=
  { R with rsp := if R.rspDraw.isNone then Memory.write R.rsp a b else tset R.rsp a b }

/-- Writes bytes of a region scratchpad. -/
def State.rspWrite (s : State) (r a : Nat) (bs : List Byte) : State :=
  s.setRegion r ((List.range bs.length).foldl (fun R i => R.rspPut (a + i) (bs.getD i 0)) (s.region r))

/-- Reads bytes of a region scratchpad. -/
def State.rspRead (s : State) (r a n : Nat) : List Byte := (List.range n).map fun i => (s.region r).rspByte (a + i)

/-- The store of one lane at CSM, RSP or physical memory; global lanes go on to their slices. -/
def State.storeLane (s : State) (size : Nat) (stlf : Bool) (x : LaneAcc) : State :=
  match x.tgt with
  | .csm core b =>
    let s := s.csmWrite core b (leBytes size x.val)
    if stlf then s.csmMark core (b / 16) 1 false else s
  | .rsp r b => s.rspWrite r b (leBytes size x.val)
  | .phys pa => { s with mem := Memory.writeN s.mem pa (leBytes size x.val) }
  | .ctrl _ => s
  | .glob => s

/-- Bytes of an L1 line that a store replaces (R220). -/
def L1Line.update (asid ea : Nat) (bs : List Byte) (x : L1Line) : L1Line :=
  if x.asid = asid && x.addr = ea / 128 * 128 then
    { x with data := x.data.mapIdx fun i b => if ea % 128 ≤ i then bs.getD (i - ea % 128) b else b }
  else x

/-- Write-through of one lane into the L1 of a cluster, when the lane is performed at its slice. -/
def State.l1Store (cl asid size : Nat) (s : State) (x : LaneAcc) : State :=
  let c := s.cluster cl
  s.setCluster cl { c with l1 := c.l1.map (L1Line.update asid x.ea (leBytes size x.val)) }

/-- Issues an access record under the next number. -/
def State.addAcc (s : State) (a : Access) : State :=
  { s with accs := tset s.accs s.fresh a, fresh := s.fresh + 1 }

/-- A FIFO entry is accepted at its destination (R221): CSM, RSP and physical lanes are performed; global
lanes pass the L1, where they are traced (R375), and become an access at their slices, for which every load of the core to
its tiles waits (R25). -/
def State.acceptStore (s : State) (w : Nat) (frag : Bool) (e : StoreE) : State :=
  let s := match tfind s.warps w with
    | none => s
    | some W => s.traceLanes W.block 1 e.lanes
  let s := e.lanes.foldl (fun s x => s.storeLane e.size e.stlf x) s
  let subs := subsOf e.lanes
  if subs.isEmpty then s
  else
    s.addAcc { warp := w, split := e.split, uid := e.uid, frag := frag, threads := e.threads, age := e.age, sup := e.sup, pc := e.pc, kind := .store e.size e.rel,
               scalar := false, dst := [], lanes := e.lanes.filter fun x => x.tgt = .glob, subs := subs,
               released := false, gone := none }

/-! ## The end of blocks and launches (R361, R419, R428) -/

/-- Frees the N-core slot of a fragment. -/
def State.freeSlot (s : State) (f : Slot) : State :=
  let c := s.core f.ncore
  s.setCore f.ncore { c with nslots := c.nslots.filter (· != f.slot) }

/-- Ends a SHRMAP mapping for both warps; each keeps the current values (R168). -/
def State.unshare (s : State) (w : Nat) : State :=
  match (tfind s.warps w).bind (·.shr) with
  | none => s
  | some (_, _, peer) =>
    { s with warps := tmod (tmod s.warps w fun W => { W with shr := none }) peer fun P => { P with shr := none } }

/-- The SHRMAP at which a warp waits now (R168): its split still stands at it. -/
def Warp.shrLive (W : Warp) : Option ShrReq :=
  W.shrReq.filter fun r => W.splits.any fun X => X.id = r.split && X.isLocal && X.pc = r.pc && X.wait = .none

/-- The address space of an access. -/
def State.accAsid (s : State) (a : Access) : Nat :=
  match a.gone with
  | some (l, _) => (((tfind s.launches l).bind fun L => tfind s.vfs L.vf).map (·.asid)).getD 0
  | none => ((tfind s.warps a.warp).map s.warpAsid).getD 0

/-- An access fills an entry's tile. -/
def State.fillGoes (s : State) (e : Ent) : Bool :=
  s.accs.any fun a => a.2.subs.any fun x =>
    x.st = .filling && x.tile = e.tensor * 2 ^ 40 + e.tile && s.accAsid a.2 = e.asid

/-- A fill whose access is gone goes on and ends by itself: FILL is 0 (R303). -/
def State.endFills (s : State) : State :=
  let ended := fun (e : Ent) => if e.fill = 0 || s.fillGoes e then e else { e with fill := 0 }
  { s with regions := tmap s.regions fun _ R => { R with ents := tmap R.ents fun _ es => es.map ended } }

/-- What waits for a supervisor handler that will not run any more goes on by itself. -/
def Sub.released (x : Sub) : Sub := if x.st = .xlate then { x with st := .waiting } else x

/-- Removes a warp: its fragments' slots are freed (R212), its stores are made visible, its loads vanish; nothing waits for
its handler (R361). -/
def State.dropWarp (s : State) (w : Nat) : State :=
  match tfind s.warps w with
  | none => s
  | some W =>
    let s := s.unshare w
    let s := W.fifo.foldl (fun s e => s.acceptStore w false e) s
    let s := (W.splits.filterMap Split.slot?).foldl State.freeSlot s
    let c := s.core W.core
    let s := s.setCore W.core { c with pipe := c.pipe.filter fun e => e.warp != w }
    let L := ((tfind s.blocks W.block).map (·.launch)).getD 0
    { s with
      warps := tdel s.warps w
      accs := tmap (s.accs.filter fun e => e.2.warp != w || (match e.2.kind with | .store _ _ => true | _ => false))
        fun _ a => if a.warp = w then
          { a with subs := a.subs.map Sub.released, gone := some (L, W.core, W.slot, W.sc.csr.princ) } else a
      ops := tmap s.ops fun _ o => if o.warp = w then { o with faulted := false } else o
      sfus := s.sfus.filter fun e => e.2.warp != w }.endFills

/-- Removes operations, from their queues as well. -/
def State.dropOps (s : State) (p : Nat → EngOp → Bool) : State :=
  let gone := (s.ops.filter fun e => p e.1 e.2).map (·.1)
  let keep := fun n => !gone.contains n
  { s with
    ops := s.ops.filter fun e => keep e.1
    clusters := tmap s.clusters fun _ c =>
      { c with
        copyQ := c.copyQ.filter keep
        tileQ := c.tileQ.filter keep
        resv := c.resv.filter keep
        shadows := c.shadows.filter fun x => keep x.1
        latches := (c.latches.map fun l => { l with ops := l.ops.filter fun o => keep o.2 }).filter
          fun l => !l.ops.isEmpty }
    regions := tmap s.regions fun _ r => { r with dfq := r.dfq.filter fun f => keep f.op } }

/-- Removes a block without a save; its reservation in the save pool is freed with it. -/
def State.dropBlock (s : State) (b : Nat) : State :=
  match tfind s.blocks b with
  | none => s
  | some B =>
    let s := B.warps.foldl State.dropWarp s
    { s with
      blocks := tdel s.blocks b
      groups := tmap s.groups fun _ g => { g with blocks := g.blocks.filter (· != b) }
      regions := tmap s.regions fun _ r => if r.preempting = some b then { r with preempting := none } else r
      parts := tmap s.parts fun _ p => { p with wqs := tmap p.wqs fun _ q =>
        { q with sleepers := q.sleepers.filter fun e => !B.warps.contains e.1 } } }

/-- Blocks of a launch. -/
def State.launchBlocks (s : State) (l : Nat) : List Nat :=
  (s.blocks.filter fun e => e.2.launch = l).map (·.1)

/-- Whether a launch still counts. -/
def LPhase.live : LPhase → Bool
  | .done => false
  | .ending => false
  | _ => true

/-- Children of a launch that have not ended. -/
def State.liveChildren (s : State) (l : Nat) : List Nat :=
  (s.launches.filter fun e => e.2.phase.live &&
    (match e.2.parent with | some (_, q, _) => q == l | none => false)).map (·.1)

/-- Why a launch ended: status, DETAIL, CAUSEPC and CAUSEBLK (R355). -/
structure EndCause where
  status : Nat
  detail : Nat
  pc : Nat
  blk : Option Nat

/-- Steps 1, 2 and 5 of R361 for one launch. -/
def State.endOne (s : State) (l : Nat) (e : EndCause) : State :=
  let s := (s.launchBlocks l).foldl State.dropBlock s
  let s := s.dropOps fun _ o => o.launch = l && !o.granted && (match o.kind with | .child _ => false | _ => true)
  { s with launches := tmod s.launches l fun L =>
      { L with phase := .ending, status := some e.status, detail := e.detail, causePc := e.pc, causeBlk := e.blk } }

/-- R361: a launch is wound down with its descendants, which end with the same status. Depth is at most 8 (R358). -/
def State.endTree : Nat → State → Nat → EndCause → State
  | 0, s, _, _ => s
  | n + 1, s, l, e =>
    match tfind s.launches l with
    | none => s
    | some L =>
      if L.phase.live then
        let kids := s.liveChildren l
        let s := s.endOne l e
        kids.foldl (fun s k => State.endTree n s k { e with pc := 0, blk := none }) s
      else s

/-- Ends a launch with a status (R361). -/
def State.endLaunch (s : State) (l : Nat) (e : EndCause) : State := s.endTree 10 l e

/-- The status of a discarded launch (R348). -/
def stDiscarded : Nat := 0x28
/-- The status of a launch that a reset ends (R348). -/
def stReset : Nat := 0x29

/-- Signals the host (R438). -/
def State.signal (s : State) (vf : Option Nat) (vector : Nat) : State :=
  { s with msi := s.msi ++ [{ vf := vf, vector := vector }] }

/-- Ends every launch of a partition with a status. -/
def State.endPart (s : State) (p : Nat) (status : Nat) : State :=
  ((s.launches.filter fun e => e.2.part = p && e.2.phase.live).map (·.1)).foldl
    (fun s l => s.endLaunch l { status := status, detail := 0, pc := 0, blk := none }) s

/-- R428: a MACHINE fault in a region ends the work of the partition. -/
def State.machineFault (s : State) (p region : Nat) : State :=
  let r := s.region region
  let s := s.setRegion region { r with fault := true }
  let s := s.endPart p 0x1F
  let P := s.part p
  (s.setPart p { P with fault := true, state := 1, run := false, busy := false }).signal none 0

/-! ## Taking an exception (R36-R40, R175-R185) -/

/-- Trap causes (R36). -/
def cIllegal : Nat := 0x01
/-- REG_EMPTY. -/
def cRegEmpty : Nat := 0x02
/-- MISALIGN. -/
def cMisalign : Nat := 0x03
/-- XLATE. -/
def cXlate : Nat := 0x04
/-- PROT. -/
def cProt : Nat := 0x05
/-- TAG_DENY_WRITE. -/
def cTagDeny : Nat := 0x06
/-- TENSOR_ALIAS. -/
def cAlias : Nat := 0x07
/-- CSM_BOUND. -/
def cCsmBound : Nat := 0x08
/-- LAYOUT. -/
def cLayout : Nat := 0x09
/-- REJOIN_DEADLOCK. -/
def cRejoin : Nat := 0x0A
/-- ACC_OWNER. -/
def cAccOwner : Nat := 0x0B
/-- PREEMPT. -/
def cPreempt : Nat := 0x0C
/-- SOFT. -/
def cSoft : Nat := 0x0D
/-- BREAK. -/
def cBreak : Nat := 0x0E
/-- STACK_SPILL_FULL. -/
def cSpill : Nat := 0x0F
/-- FUTURE_CANCELLED. -/
def cCancelled : Nat := 0x10
/-- GANG_TIMEOUT. -/
def cGangTimeout : Nat := 0x11
/-- LAUNCH_DENIED. -/
def cDenied : Nat := 0x13

/-- A raised cause: code, offset that TRAPPC takes, faulting address, TRAPAUX. -/
structure Cause where
  code : Nat
  pc : Word
  addr : Nat
  aux : Nat
  deriving DecidableEq, Repr

/-- TRAPV's handler offset (R175). -/
def Csrs.handler (q : Csrs) : Word := q.trapv &&& 0xFFFFFFFC
/-- TRAPC.INH: the warp runs its user handler. -/
def Csrs.inh (q : Csrs) : Bool := q.trapc.getLsbD 11
/-- TRAPC.SPLIT. -/
def Csrs.trapSplit (q : Csrs) : Nat := bits q.trapc.toNat 9 8

/-- The launch of the warp ends with the cause as its status; CAUSEPC is pc. PREEMPT discards it: no instruction and no
block ended it (R37, R39, R355, R365). -/
def Ctx.endWith (c : Ctx) (z : Cause) (pc : Word) : State :=
  let l := ((tfind c.s.blocks c.W.block).map (·.launch)).getD 0
  let b := (tfind c.s.blocks c.W.block).map (·.lin)
  if z.code = cPreempt then c.put.endLaunch l { status := stDiscarded, detail := 0, pc := 0, blk := none }
  else
    c.put.endLaunch l { status := z.code
                        detail := if z.code = cProt then z.aux % 256 else 0
                        pc := pc.toNat, blk := b }

/-- R125: an issued special function of the warp has not written its result. -/
def State.sfuBusy (s : State) (w : Nat) : Bool := s.sfus.any fun e => e.2.warp = w

/-- What an interrupted LDLC has consumed is kept while a handler runs (R231). -/
def Split.stash (X : Split) : Split := { X with taken := [], kept := (X.pc, X.taken) :: X.kept }

/-- A handler returns to a PC: the LDLC that it interrupted there still has what it consumed (R231). -/
def Split.unstash (X : Split) (pc : Word) : Split :=
  match X.kept with
  | [] => { X with taken := [] }
  | (p, t) :: rest => { X with kept := rest, taken := if p = pc then t else [] }

/-- R177: the trap CSRs take the cause and the split goes to the user handler. -/
def Ctx.enterUser (c : Ctx) (z : Cause) (frag : Bool) : Ctx :=
  let csr := c.W.sc.csr
  let csr := { csr with
    trapc := BitVec.ofNat 32 (z.code + c.sp.id % 4 * 2 ^ 8 + (if frag then 2 ^ 10 else 0) + 2 ^ 11)
    trappc := z.pc &&& 0xFFFFFFFC
    trapal := BitVec.ofNat 32 z.addr
    trapah := BitVec.ofNat 32 (z.addr / 2 ^ 32)
    trapaux := BitVec.ofNat 32 z.aux }
  { c with
    W := { c.W with sc := { c.W.sc with csr := csr } }
    sp := { c.sp.stash with pc := csr.handler, ibuf := [], cheld := false, cuse := none, stalled := false, wait := .none,
                            trapWait := if c.sp.wait = .none then none else some (c.sp.wait, csr.trappc) } }

/-- A user-class cause in a local split (R177): the handler, once every issued arithmetic instruction has written its
result (R125), or the end of the launch. -/
def Ctx.trapLocal (c : Ctx) (z : Cause) (frag : Bool) : State :=
  let csr := c.W.sc.csr
  if csr.handler = 0 || csr.inh then c.endWith z c.sp.pc
  else if c.s.sfuBusy c.w then c.s
  else if c.image.codeLen ≤ csr.handler.toNat then
    c.endWith { z with code := cProt, aux := 0x06 } c.sp.pc
  else (c.enterUser z frag).put

/-- A user-class cause in the issuing split: in supervisor mode a MACHINE fault (R183), in a fragment a
stop whose CAUSE message follows (R209), else R177. -/
def Ctx.trap (c : Ctx) (z : Cause) : State :=
  if c.sp.sup then c.s.machineFault (c.s.warpPart c.W) (coreRegion c.W.core)
  else
    match c.sp.home with
    | .wcore => c.trapLocal z false
    | .ncore f =>
      { c with sp := { c.sp with home := .ncore { f with
          stage := .stopped z.code z.addr z.aux false, pulls := [], refused := none, snap := none,
          sreq := none } } }.put

/-- A precise cause of the instruction at PC: nothing named after it happens (R6). -/
def Ctx.raise (c : Ctx) (code aux : Nat) : State := c.trap { code := code, pc := c.sp.pc, addr := 0, aux := aux }

/-- The local splits of a warp. -/
def Warp.locals (W : Warp) : List Split := W.splits.filter Split.isLocal

/-- Whether a split waits at a join entry. -/
def Split.atJoin (X : Split) : Bool :=
  match X.wait with
  | .atJoin _ => true
  | _ => false

/-- R180: the split that handles a supervisor-class cause. -/
def Warp.handling (W : Warp) (z : SupCause) : Option Split :=
  match (if z.frag then none else (W.splitOf z.split z.uid).filter Split.isLocal) with
  | some X => some X
  | none => oldest W.locals

/-- R225, R278: the split in which a deferred user cause is raised. -/
def Warp.receiver (W : Warp) (z : DefCause) : Option Split :=
  match W.splitOf z.split z.uid with
  | some X => some X
  | none => oldest (W.locals.filter fun X => !X.atJoin)

/-- R180: a supervisor-class cause enters the partition's handler in the handling split. -/
def Ctx.enterSup (c : Ctx) (z : SupCause) : Ctx :=
  let csr := c.W.sc.csr
  let csr := { csr with
    strapc := BitVec.ofNat 32 (z.cause + z.split % 4 * 2 ^ 8 + (if z.frag then 2 ^ 10 else 0) +
      (if csr.inh then 2 ^ 11 else 0))
    strappc := c.sp.pc &&& 0xFFFFFFFC
    strapal := BitVec.ofNat 32 z.addr
    strapah := BitVec.ofNat 32 (z.addr / 2 ^ 32)
    strapaux := BitVec.ofNat 32 z.aux }
  let lost : EngOp → EngOp := fun o =>
    if o.warp = c.w && (o.dst.map (·.1)) = some true then { o with dst := none } else o
  { c with
    s := { c.s with ops := tmap c.s.ops fun _ o => lost o }
    W := { c.W with
      sc := { c.W.sc with csr := csr, supS := [], supSt := [], supQ := 0,
                          cancel := c.W.sc.cancel &&& 0xFFFFFFFFFFFFFFFF }
      supNow := some z }
    sp := { c.sp.stash with pc := 0, ibuf := [], cheld := false, cuse := none, stalled := false, sup := true, supBase := c.sp.stack.length,
                            savedWait := c.sp.wait, wait := .none } }

/-- A supervisor-class cause of the instruction at PC, found at issue: the issuing split enters the handler,
or waits while the handler of another cause runs (R180). -/
def Ctx.raiseSup (c : Ctx) (cause addr aux : Nat) : State :=
  if c.sp.sup then c.s.machineFault (c.s.warpPart c.W) (coreRegion c.W.core)
  else if c.W.supNow.isSome then c.s
  else
    (c.enterSup { cause := cause, split := c.sp.id, uid := c.sp.uid, frag := false, addr := addr, aux := aux, kind := 2,
                  ref := 0, sub := 0 }).put

/-- A precise cause with a faulting address; of the supervisor class it goes to the partition's handler (R36). -/
def Ctx.raiseAt (c : Ctx) (code aux addr : Nat) : State :=
  if code = cXlate || code = cAccOwner then c.raiseSup code addr aux
  else c.trap { code := code, pc := c.sp.pc, addr := addr, aux := aux }

/-- R465: a service split for a warp that has no local split left. -/
def Warp.serviceSplit (W : Warp) : Split :=
  { id := W.freeId.getD 0, uid := W.nextAge, age := W.nextAge, pc := 0, mask := 0, fmt := 0, stack := [], link := none, wait := .none,
    sup := false, supBase := 0, savedWait := .none, trapWait := none, service := true, supChild := false, usrChild := false, taken := [], kept := [], cwant := none, cheld := false, cuse := none, stalled := false, ibuf := [],
    home := .wcore }

/-- Whether a fragment's cause is pending at the parent (R209). -/
def Split.causeHeld (X : Split) : Bool :=
  match X.slot? with
  | some f => (match f.stage with | .stopped _ _ _ sent => sent | _ => false)
  | none => false

/-- Return from the user handler (R178). -/
def Ctx.leaveUser (c : Ctx) : Ctx :=
  let csr := c.W.sc.csr
  { c with
    W := { c.W with
      causeDue := c.W.splits.any Split.causeHeld, splits := c.W.splits.map fun X => { X with usrChild := false }
      sc := { c.W.sc with csr := { csr with trapc := csr.trapc &&& ~~~(1#32 <<< 11) } } }
    sp := { c.sp.unstash (csr.trappc &&& 0xFFFFFFFC) with
      pc := csr.trappc &&& 0xFFFFFFFC, ibuf := [], trapWait := none, usrChild := false
      wait := match c.sp.trapWait with | some (x, pc) => if pc = csr.trappc then x else .none | none => .none } }

/-- Return from the supervisor handler (R183): the split goes on where it was, waiting as it was. -/
def Ctx.leaveSup (c : Ctx) : Ctx :=
  { c with
    W := { c.W with supNow := none }
    sp := { c.sp.unstash (c.W.sc.csr.strappc &&& 0xFFFFFFFC) with
      pc := c.W.sc.csr.strappc &&& 0xFFFFFFFC, ibuf := [], sup := false, wait := c.sp.savedWait, savedWait := .none
      stack := c.sp.stack.drop (c.sp.stack.length - c.sp.supBase) } }

end Sys2Proof.Machine
end

