-- ==== Sys2Proof/Machine/FabricOut.lean ====
section
/-! DEFINITION. Requests that leave through fabric ports, their paths and fence tokens (R447, R448, R452-R454). -/

namespace Sys2Proof.Machine

/-- Flit kinds (R447). -/
def fkRead : BitVec 8 := 1
/-- WRITE. -/
def fkWrite : BitVec 8 := 2
/-- ATOMIC. -/
def fkAtomic : BitVec 8 := 3
/-- REDUCE. -/
def fkReduce : BitVec 8 := 4
/-- RESPONSE. -/
def fkResponse : BitVec 8 := 5
/-- FENCE. -/
def fkFence : BitVec 8 := 6
/-- FENCEACK. -/
def fkFenceAck : BitVec 8 := 7

/-- A flit whose fields are zero but for its kind and source (R447). -/
def State.flit (s : State) (kind : BitVec 8) (part : Nat) (princ : Word) (pa : Nat) : Flit :=
  { kind := kind, len := 0, srcDev := BitVec.ofNat 12 s.pkg.fabcfg, princ := princ, atag := 0,
    spart := BitVec.ofNat 8 part, op := 0, seq := 0, pa := BitVec.ofNat 64 pa, fcount := 0, status := 0, data := [] }

/-- A flit leaves through a port. -/
def State.sendFlit (s : State) (port : Nat) (f : Flit) : State := { s with outbox := s.outbox ++ [(port, f)] }

/-- LEN of n data bytes (R447). -/
def flitLen (n : Nat) : BitVec 8 := BitVec.ofNat 8 ((n + 15) / 16)

/-- The path of a partition to a device (R452). -/
def State.path (s : State) (part dev port : Nat) : FabPath :=
  (s.paths.find? fun x => x.part = part && x.dev = dev).getD
    { part := part, dev := dev, port := port, seq := 0, fwdRouter := 0, fwdPort := 0, token := 0, acked := 0, lost := false }

/-- Replaces or adds a path. -/
def State.setPath (s : State) (x : FabPath) : State :=
  { s with paths := x :: s.paths.filter fun y => !(y.part = x.part && y.dev = x.dev) }

/-- R350's order: a number reaches another. -/
def seqReached (a b : Nat) : Bool := decide ((a + 2 ^ 32 - b % 2 ^ 32) % 2 ^ 32 < 2 ^ 31)

/-- R453 steps 1 and 2 on one path: the token, on behalf of a principal, passes the die router and the port, whose counters
have reached its count. -/
def State.sendToken (princ : Word) (s : State) (x : FabPath) : State :=
  if x.seq = x.token || !(s.port x.port).up || !seqReached x.fwdRouter x.seq || !seqReached x.fwdPort x.seq then s
  else
    let f := { s.flit fkFence x.part princ 0 with fcount := BitVec.ofNat 32 x.seq }
    (s.setPath { x with token := x.seq }).sendFlit x.port f

/-- R453 step 1: a token on every path of a partition that has carried a store since its last. -/
def State.sendTokens (s : State) (part : Nat) (princ : Word) : State :=
  (s.paths.filter fun x => x.part = part).foldl (State.sendToken princ) s

/-- R453: whether a release's scope covers threads on another die or device: SYSTEM, or PARTITION where the partition's
regions lie on several dies. -/
def State.farScope (s : State) (part scope : Nat) : Bool :=
  scope = 5 || (scope = 4 && part / 6 != (part + s.partRegions part - 1) / 6)

/-- Ports on which stores of a partition were lost with the link (R454). -/
def State.lostPorts (s : State) (part : Nat) : List Nat :=
  (s.paths.filter fun x => x.part = part && x.lost).map (·.port)

/-- R454: a release of a partition is discarded on ports where stores before it were lost: its bit of PORTBLK is set there. -/
def State.loseRelease (s : State) (part : Nat) : State :=
  (s.lostPorts part).foldl (fun (s : State) n =>
    s.setPort n { s.port n with blk := (s.port n).blk ||| (1#24 <<< part) }) s

/-- Devices whose path of the partition has a token without its FENCEACK. -/
def State.unacked (s : State) (part : Nat) : List Nat :=
  (s.paths.filter fun x => x.part = part && x.token != x.acked).map (·.dev)

/-- The request numbered k leaves: a store takes the next SEQ of its path, which the die router and the port forward
(R452). -/
def State.dispatchOut (s : State) (k : Nat) (r : OutReq) (dev : Nat) : State :=
  let x := s.path r.part dev r.port
  let seq := if r.flit.kind = fkRead then 0 else (x.seq + 1) % 2 ^ 32
  let s := if r.flit.kind = fkRead then s
    else s.setPath { x with seq := seq, fwdRouter := seq, fwdPort := seq, port := r.port }
  let r := { r with flit := { r.flit with seq := BitVec.ofNat 32 seq }, hold := [] }
  { s with outReqs := tset s.outReqs k r }.sendFlit r.port r.flit

/-- R448, R453, R454: sends a request through a port, and says whether it left: a partition's stores are blocked where its
bit of PORTBLK is set, and a release that follows lost stores is discarded. rel: a release whose scope covers other dies or
devices, held for the tokens of the other paths. -/
def State.sendOut (s : State) (part : Nat) (princ : Word) (port pa dev : Nat) (kind : BitVec 8) (op : Nat) (len : Nat)
    (data : List Byte) (rel : Bool) (who : Asker) : State × Bool :=
  if kind != fkRead && (s.port port).blk.getLsbD part then (s, false)
  else if rel && !(s.lostPorts part).isEmpty then (s.loseRelease part, false)
  else
    let s := if rel then s.sendTokens part princ else s
    let f := { s.flit kind part princ pa with len := flitLen len, op := BitVec.ofNat 8 op, data := data }
    let hold := if rel then (s.unacked part).filter (· != dev) else []
    let r : OutReq := { port := port, part := part, dev := dev, flit := f, kind := who.kind, ref := who.ref, sub := who.sub, hold := hold }
    let k := s.fresh
    let s := { s with outReqs := tset s.outReqs k r, fresh := k + 1 }
    (if hold.isEmpty then s.dispatchOut k r dev else s, true)

/-! ## Inbound paths (R452, R453) -/

/-- The path of stores from a partition of another device. -/
def State.inPath (s : State) (dev part : Nat) : InPath :=
  (s.inPaths.find? fun x => x.dev = dev && x.part = part).getD
    { dev := dev, part := part, fwdPort := 0, fwdRouter := 0, waiting := [], held := [] }

/-- Replaces or adds an inbound path. -/
def State.setInPath (s : State) (x : InPath) : State :=
  { s with inPaths := x :: s.inPaths.filter fun y => !(y.dev = x.dev && y.part = x.part) }

/-- The answer to a token (R453 step 3), to its principal; SPART names the path's source partition (log 38). -/
def State.sendAck (s : State) (port : Nat) (f : Flit) : State :=
  s.sendFlit port { s.flit fkFenceAck f.spart.toNat f.princ 0 with fcount := f.fcount }

/-- R453 steps 2 and 3: the counters of the port and the die router have reached a token's count, and no store of the path up
to it waits. -/
def InPath.covers (x : InPath) (count : Nat) : Bool :=
  seqReached x.fwdPort count && seqReached x.fwdRouter count && !x.waiting.any fun k => seqReached count k

/-- A store of a path arrives: the port and the die router forward it (R452). -/
def State.storeArrived (s : State) (dev part seq : Nat) : State :=
  let x := s.inPath dev part
  s.setInPath { x with fwdPort := seq, fwdRouter := seq, waiting := x.waiting ++ [seq] }

/-- A store of a path is performed: tokens that it was holding are answered (R453). -/
def State.storePerformed (s : State) (dev part seq : Nat) : State :=
  let x := s.inPath dev part
  let x := { x with waiting := x.waiting.filter (· != seq) }
  let go := x.held.filter fun e => x.covers e.2.fcount.toNat
  let s := s.setInPath { x with held := x.held.filter fun e => !x.covers e.2.fcount.toNat }
  go.foldl (fun s e => s.sendAck e.1 e.2) s

/-- Where an inbound store came from, as one number: its port, device, partition, SEQ and principal; 0 is nowhere. -/
def srcKey (port dev part seq : Nat) (princ : Word) : Nat :=
  port % 64 + dev % 4096 * 2 ^ 6 + part % 256 * 2 ^ 18 + seq % 2 ^ 32 * 2 ^ 26 + 2 ^ 58 + princ.toNat * 2 ^ 60

/-- Who waits for a parked request of this package, as one number, beyond those of `srcKey`. -/
def Asker.key (a : Asker) : Nat := 2 ^ 92 * (1 + a.kind % 4 + 4 * (a.ref % 2 ^ 64) + 2 ^ 66 * a.sub)

/-- The asker that a number names. -/
def askerOf (k : Nat) : Option Asker :=
  if k < 2 ^ 92 then none
  else
    let x := k / 2 ^ 92 - 1
    some { kind := x % 4, ref := x / 4 % 2 ^ 64, sub := x / 2 ^ 66 }

/-- The RESPONSE to a request of a principal (R447). -/
def State.respond (s : State) (port part : Nat) (princ : Word) (pa seq status tag : Nat) (data : List Byte) : State :=
  s.sendFlit port { s.flit fkResponse part princ pa with
    len := flitLen data.length, atag := BitVec.ofNat 16 tag, seq := BitVec.ofNat 32 seq, status := BitVec.ofNat 8 status,
    data := data }

/-- 16 bytes that carry a word. -/
def wordGranule (bs : List Byte) : List Byte := (bs.take 4) ++ List.replicate 12 0

end Sys2Proof.Machine
end

