-- ==== Sys2Proof/Machine/Mem.lean ====
section
/-! DEFINITION. Global memory: translation (R317-R320), tensors' tiles (R306-R310), gates and windows
(R412, R421, R422, R448), access tags and events (R334-R337), tile-cache entries (R301-R304, R314) and
exposure stamps (R338-R340). -/

namespace Sys2Proof.Machine

/-! ## Physical memory (R463) -/

/-- HBM of one region. -/
def hbmBytes : Nat := 0x773594000

/-- The region whose HBM holds a physical address. -/
def paRegion (pa : Nat) : Option Nat :=
  if pa / 0x800000000 < 24 && pa % 0x800000000 < hbmBytes then some (pa / 0x800000000) else none

/-- Whether n bytes from pa on lie in one region's HBM. -/
def paInside (pa n : Nat) : Bool :=
  match paRegion pa, paRegion (pa + n - 1) with
  | some r, some q => r == q
  | _, _ => false

/-! ## Page tables (R318-R320) -/

/-- What a walk finds. -/
inductive Walk where
  /-- A valid leaf: its level and word. -/
  | leaf (level : Nat) (w : Nat)
  /-- No valid leaf. -/
  | none
  /-- A table lies where nothing is (R463). -/
  | machine
  deriving DecidableEq, Repr

/-- Bytes that an entry of a level maps. -/
def levelBytes (level : Nat) : Nat :=
  if level = 1 then 2 ^ 30 else if level = 2 then 2 ^ 21 else if level = 3 then 2 ^ 16 else 2 ^ 39

/-- PFN of an entry as an address (R318). -/
def pteFrame (e : Nat) : Nat := bits e 47 12 * 2 ^ 16
/-- One bit of an entry. -/
def pteBit (e i : Nat) : Bool := bits e i i == 1

/-- R318: an entry with V set that keeps the table's rules at its level. -/
def pteValid (level e : Nat) : Bool :=
  let leaf := pteBit e 1
  pteBit e 0 && bits e 5 2 == 0 &&
  (if leaf then
    level != 0 && (level != 2 || bits (pteFrame e) 20 16 == 0) && (level != 1 || bits (pteFrame e) 29 16 == 0) &&
    (pteBit (pteFrame e) 51 || paInside (pteFrame e) (levelBytes level))
   else level != 3 && bits e 63 48 == 0 && bits e 11 6 == 0)

/-- Index of an address at a level (R318). -/
def pteIndex (level va : Nat) : Nat :=
  if level = 0 then bits va 56 39 else if level = 1 then bits va 38 30
  else if level = 2 then bits va 29 21 else bits va 20 16

/-- The walk from a table of a level on. -/
def walkFrom (m : Memory) (va : Nat) : Nat → Nat → Nat → Walk
  | 0, _, _ => .none
  | n + 1, level, table =>
    let a := table + 8 * pteIndex level va
    if paInside a 8 then
      let e := m.num a 8
      if pteValid level e then (if pteBit e 1 then .leaf level e else walkFrom m va n (level + 1) (pteFrame e))
      else .none
    else .machine

/-- Bytes of a table of a level. -/
def tableBytes (level : Nat) : Nat := if level = 0 then 2 ^ 21 else if level = 3 then 2 ^ 8 else 2 ^ 12

/-- The first address that the tables from one on map to a physical address (R430). -/
def backWalk (m : Memory) (pa : Nat) : Nat → Nat → Nat → Nat → Option Nat
  | 0, _, _, _ => none
  | n + 1, level, table, va =>
    ((((m.filter fun e => table ≤ e.1 && e.1 < table + tableBytes level).map fun e => (e.1 - table) / 8).eraseDups).findSome?
      fun i =>
        let e := m.num (table + 8 * i) 8
        let at_ := va + i * levelBytes level
        if !pteValid level e then none
        else if pteBit e 1 then
          (if pteFrame e ≤ pa && pa < pteFrame e + levelBytes level then some (at_ + (pa - pteFrame e)) else none)
        else backWalk m pa n (level + 1) (pteFrame e) at_)

/-- Whether a physical address is memory of a frozen VF of a partition (R430). -/
def frozenOwns (s : State) (p pa : Nat) : Bool :=
  s.vfs.any fun e => e.2.part = p && (e.2.frozen || e.2.freezing) && (backWalk s.mem pa 4 0 e.2.ptroot 0).isSome

/-- R319: an entry for an address in a slice's translation buffer. -/
def tlbFind (t : List Trans) (slice asid va : Nat) : Option Trans :=
  t.find? fun x => x.slice = slice && x.asid = asid && x.page = va / levelBytes x.level

/-- R319: a translation enters its slice's buffer of 1024; when the buffer is full the entry that came first leaves (the
spec names no order; log 60). -/
def tlbAdd (t : List Trans) (x : Trans) : List Trans :=
  x :: (t.filter fun y => y.slice = x.slice).take 1023 ++ t.filter fun y => y.slice != x.slice

/-- R319, R320: the leaf for an address, from the slice's translation buffer or by a walk. -/
def translate (s : State) (region slice asid root va : Nat) : Walk :=
  match tlbFind (s.region region).tlb slice asid va with
  | some x => .leaf x.level x.leaf.toNat
  | none => walkFrom s.mem va 4 0 root

/-- Physical address that a leaf gives an address. -/
def leafPa (level e va : Nat) : Nat := pteFrame e + va % levelBytes level

/-- Attributes of a leaf (R318). -/
def pteX (e : Nat) : Bool := pteBit e 11
/-- W. -/
def pteW (e : Nat) : Bool := pteBit e 10
/-- R. -/
def pteR (e : Nat) : Bool := pteBit e 9
/-- OWN. -/
def pteOwn (e : Nat) : Bool := pteBit e 8
/-- OPN. -/
def pteOpn (e : Nat) : Bool := pteBit e 7
/-- HOST. -/
def pteHost (e : Nat) : Bool := pteBit e 6
/-- ATAG. -/
def pteTag (e : Nat) : Nat := bits e 63 48

/-- The access tag of a physical page of a partition: that of a page of one of its VFs (R450, log 39). -/
def pageTagOf (s : State) (p pa : Nat) : Nat :=
  (s.vfs.findSome? fun e =>
    if e.2.part = p then
      match backWalk s.mem pa 4 0 e.2.ptroot 0 with
      | none => none
      | some va => (match walkFrom s.mem va 4 0 e.2.ptroot with | .leaf _ w => some (pteTag w) | _ => none)
    else none).getD 0

/-! ## Requests and tiles -/

/-- What an access to a tile is for. -/
inductive Use where
  | read | write | fetch | atomic
  deriving DecidableEq, Repr

/-- Who makes a request at a slice. place is R337's PLACE; from is the requester's region, none for the front
end; exempt: no tag check (R335); rights: page rights are checked (the stamp store's are not, R339). -/
structure Req where
  part : Nat
  asid : Nat
  root : Nat
  frm : Option Nat
  princ : Word
  exempt : Bool
  rights : Bool
  engine : Bool
  floor : Nat
  pc : Nat
  launchId : Nat
  place : Nat
  deriving DecidableEq, Repr

/-- A tile: of a tensor's captured descriptor, or flat when none (R310). -/
structure Tile where
  asid : Nat
  t : Option Tensor
  idx : Nat
  deriving DecidableEq, Repr

/-- Bits of an element of a format code (R91): FP32, BF16, FP16, E4M3, E5M2, K4, INT8. -/
def fmtBits (f : Nat) : Nat :=
  if f = 0 then 32 else if f = 1 || f = 2 then 16 else if f = 5 then 4 else 8

/-- Product of a list. -/
def prod (xs : List Nat) : Nat := xs.foldl (· * ·) 1

/-- Mixed-radix digits of a number, least significant first. -/
def digits : List Nat → Nat → List Nat
  | [], _ => []
  | b :: bs, v => v % b :: digits bs (v / b)

/-- The number with these mixed-radix digits. -/
def undigits : List Nat → List Nat → Nat
  | b :: bs, d :: ds => d + b * undigits bs ds
  | _, _ => 0

/-- Ceiling of a quotient. -/
def ceilDiv (a b : Nat) : Nat := (a + b - 1) / b

/-- Tile grid (R308). -/
def Tensor.grid (t : Tensor) : List Nat := List.zipWith ceilDiv t.extent t.text
/-- Tiles of a tensor. -/
def Tensor.tiles (t : Tensor) : Nat := prod t.grid
/-- Elements of a tile. -/
def Tensor.tileElems (t : Tensor) : Nat := prod t.text
/-- Tile data size in bytes (R308). -/
def Tensor.tileBytes (t : Tensor) : Nat := t.tileElems * fmtBits t.format / 8
/-- Tile stride in CSM (R250). -/
def Tensor.tileStride (t : Tensor) : Nat := ceilDiv t.tileBytes 128 * 128

/-- Element coordinates of element p of tile idx. -/
def Tensor.coords (t : Tensor) (idx p : Nat) : List Nat :=
  List.zipWith (· + ·) (List.zipWith (· * ·) (digits t.grid idx) t.text) (digits t.text p)

/-- Whether an element is present (R308). -/
def Tensor.present (t : Tensor) (e : List Nat) : Bool :=
  (List.zipWith (fun a b => decide (a < b)) e t.extent).all fun b => b

/-- Address of the byte that holds an element (R308); K4 packs dimension 0. -/
def Tensor.elemVa (t : Tensor) (e : List Nat) : Nat :=
  t.base + (if t.format = 5 then e.headD 0 / 2 else e.headD 0 * (fmtBits t.format / 8)) +
    (List.zipWith (· * ·) (e.drop 1) (t.stride.drop 1)).foldl (· + ·) 0

/-- Virtual address of granule g (16 bytes) of the tile, and the nibbles of it that are present, counted
from its first. -/
def Tile.granule (x : Tile) (g : Nat) : Nat × Nat :=
  match x.t with
  | none => (4096 * x.idx + 16 * g, 32)
  | some t =>
    let per := 128 / fmtBits t.format
    let e := t.coords x.idx (per * g)
    let e0 := e.headD 0
    let room := t.extent.headD 0 - e0
    let n := if t.present e then min per room else 0
    (t.elemVa e, n * fmtBits t.format / 4)

/-- Tile data size of a tile. -/
def Tile.bytes (x : Tile) : Nat :=
  match x.t with
  | none => 4096
  | some t => t.tileBytes

/-- Tag fields of a tile (R303, R310): tensor, tile, generation. -/
def Tile.key (x : Tile) : Nat × Nat × Nat :=
  match x.t with
  | none => (bits (4096 * x.idx) 56 52, bits (4096 * x.idx) 51 12, 0)
  | some t => (t.root, undigits t.rootGrid (List.zipWith (· + ·) (digits t.grid x.idx) t.origin), t.gen)

/-- The pages that a tile touches: the first address met in each. -/
def Tile.pages (x : Tile) : List Nat :=
  match x.t with
  | none => [4096 * x.idx]
  | some _ =>
    (((List.range (ceilDiv x.bytes 16)).filterMap fun g =>
      let y := x.granule g
      if y.2 = 0 then none else some (y.1 / 65536)).eraseDups).map (· * 65536)

/-! ## Home slices (R302, R422) -/

/-- Eight shifts of the reflected Castagnoli CRC. -/
def crcShift : Nat → Nat → Nat
  | 0, v => v
  | n + 1, v => crcShift n (if v % 2 = 1 then (v / 2) ^^^ 0x82F63B78 else v / 2)

/-- CRC32C(k, m) of R302, not complemented. -/
def crc32c : Nat → List Nat → Nat
  | k, [] => k
  | k, b :: bs => crc32c (crcShift 8 (k ^^^ b)) bs

/-- The n low bytes of a number, as numbers. -/
def byteList (n v : Nat) : List Nat := (leBytes n v).map (·.toNat)

/-- Where a tile's entry is: physical region, slice and set, and the tag that it carries. -/
structure Place0 where
  region : Nat
  slice : Nat
  set : Nat
  asid : Nat
  tensor : Nat
  tile : Nat
  gen : Nat
  deriving DecidableEq, Repr

/-- R302: the home of a tile in its partition. -/
def homeOf (s : State) (p : Nat) (x : Tile) : Place0 :=
  let k := x.key
  let n := max 1 (s.partRegions p)
  let tag := x.asid * 2 ^ 68 + k.1 % 2 ^ 20 * 2 ^ 48 + k.2.1 % 2 ^ 40 * 2 ^ 8
  let c := crc32c (s.part p).tchashk.toNat (byteList 10 tag)
  let h := c % (16 * n)
  { region := p + h / 16, slice := h % 16, set := c / (16 * n) % 64, asid := x.asid, tensor := k.1, tile := k.2.1,
    gen := k.2.2 }

/-- R422: the home of a windowed or inbound page's tile, in the lender's own slices. -/
def homeOfPa (s : State) (lender region pa : Nat) : Place0 :=
  let c := crc32c (s.part lender).tchashk.toNat (byteList 5 (bits pa 51 12))
  { region := region, slice := c % 16, set := c / 16 % 64, asid := 15, tensor := 0, tile := bits pa 51 12, gen := 0 }

/-! ## Entries (R303, R304, R314) -/

/-- Entries of a slice. -/
def State.slice (s : State) (r sl : Nat) : List Ent := tget [] (s.region r).ents sl

/-- Replaces the entries of a slice. -/
def State.setSlice (s : State) (r sl : Nat) (es : List Ent) : State :=
  let x := s.region r
  s.setRegion r { x with ents := tset x.ents sl es }

/-- Whether an entry carries a place's tag. -/
def Ent.isAt (e : Ent) (h : Place0) : Bool :=
  e.asid = h.asid && e.tensor = h.tensor && e.tile = h.tile && e.gen = h.gen

/-- R314: an OPN entry hits a floor only when it is not older. -/
def Ent.fresh (e : Ent) (floor : Nat) : Bool :=
  !e.opn || decide ((e.fowc + 65536 - floor % 65536) % 65536 < 32768)

/-- The entry of a tile, if one is held. -/
def State.entry (s : State) (h : Place0) : Option Ent := (s.slice h.region h.slice).find? fun e => e.isAt h

/-- Replaces or adds the entry of a tile. -/
def State.putEntry (s : State) (h : Place0) (e : Ent) : State :=
  s.setSlice h.region h.slice (e :: (s.slice h.region h.slice).filter fun x => !x.isAt h)

/-- Writes bytes to memory where nibbles are present: the first n nibbles of a granule. -/
def writeNibbles (m : Memory) (pa n : Nat) (bs : List Byte) : Memory :=
  let whole := Memory.writeN m pa (bs.take (n / 2))
  if n % 2 = 1 then
    let a := pa + n / 2
    let old := whole.read a
    whole.write a ((old &&& 0xF0) ||| (bs.getD (n / 2) 0 &&& 0x0F))
  else whole

/-- The bytes of a granule in memory; absent nibbles read zero (R308). -/
def readNibbles (m : Memory) (pa n : Nat) : List Byte :=
  (List.range 16).map fun i =>
    if 2 * i + 1 < n then m.read (pa + i) else if 2 * i < n then m.read (pa + i) &&& 0x0F else 0

/-- Granule g of an entry's data. -/
def Ent.gran (e : Ent) (g : Nat) : List Byte := Memory.readN e.data (16 * g) 16

/-- Writes sector sc of an entry to memory. -/
def Ent.writeSector (e : Ent) (m : Memory) (sc : Nat) : Memory :=
  (List.range 8).foldl (fun m i =>
    match e.grans[8 * sc + i]? with
    | some (pa, n) => writeNibbles m pa n (e.gran (8 * sc + i))
    | none => m) m

/-- Dirty sectors of an entry. -/
def Ent.dirty (e : Ent) : List Nat := (List.range 32).filter fun i => e.sdirty.getLsbD i

/-- R304: writes an entry's dirty sectors back. -/
def Ent.writeBack (e : Ent) (m : Memory) : Memory := e.dirty.foldl e.writeSector m

/-- Writes back entries of every slice of a region that satisfy p, keeping or dropping them. -/
def State.flushRegion (s : State) (r : Nat) (p : Ent → Bool) (drop discard : Bool) : State :=
  let x := s.region r
  let hit := (x.ents.flatMap (·.2)).filter p
  let m := if discard then s.mem else hit.foldl (fun m e => e.writeBack m) s.mem
  let ents := tmap x.ents fun _ es =>
    if drop then es.filter fun e => !p e else es.map fun e => if p e then { e with sdirty := 0 } else e
  { s with mem := m }.setRegion r { x with ents := ents }

/-- The regions of a partition. -/
def State.regionsOf (s : State) (p : Nat) : List Nat := (List.range (s.partRegions p)).map (p + ·)

/-- Changes the regions of a list. -/
def State.modRegions (s : State) (rs : List Nat) (f : Nat → Region → Region) : State :=
  rs.foldl (fun (s : State) r => s.setRegion r (f r (s.region r))) s

/-- Writes back, and drops, entries of a partition that satisfy f. -/
def State.flushPart (s : State) (p : Nat) (f : Ent → Bool) (drop discard : Bool) : State :=
  (s.regionsOf p).foldl (fun s r => s.flushRegion r f drop discard) s

/-- The least recently used of a list of entries whose FILL is 0 (R304). -/
def lruOf (es : List Ent) : Option Ent :=
  es.foldl (fun a e => if e.fill != 0 then a else match a with | none => some e | some x => some (if e.used < x.used then e else x)) none

/-- R304: a set has no place for a new entry: each of its entries is filling. -/
def State.setFull (s : State) (h : Place0) (ways : Nat) : Bool :=
  let es := (s.slice h.region h.slice).filter fun e => e.set = h.set
  (s.entry h).isNone && decide (0 < ways) && decide (ways ≤ es.length) && es.all fun e => e.fill != 0

/-- R304: makes room in a set: the least recently used entry is written back and dropped. -/
def State.makeRoom (s : State) (h : Place0) (ways : Nat) : State :=
  let es := s.slice h.region h.slice
  if ((es.filter fun e => e.set = h.set).length) < ways then s
  else
    match lruOf (es.filter fun e => e.set = h.set) with
    | none => s
    | some v =>
      { s with mem := v.writeBack s.mem }.setSlice h.region h.slice
        (es.filter fun e => !(e.asid = v.asid && e.tensor = v.tensor && e.tile = v.tile && e.gen = v.gen))

/-- R304: a full set makes room ahead of a request that the model does not show: its least recently used entry whose FILL
is 0 is replaced. -/
def evictEntry (s : State) (r sl i : Nat) : State :=
  match (s.slice r sl)[i]? with
  | none => s
  | some v =>
    let es := (s.slice r sl).filter fun e => e.set = v.set
    let ways := 2 * (s.part ((s.regionPart r).getD r)).tccfg
    if es.length < ways || lruOf es != some v then s
    else { s with mem := v.writeBack s.mem }.setSlice r sl ((s.slice r sl).eraseIdx i)

/-! ## Tags and events (R335-R337) -/

/-- R335: a word of the policy table as the device holds it: cached, or as it stands in memory. -/
def State.policyAt (s : State) (p a : Nat) : Nat :=
  match tfind (s.part p).polLines a with
  | some w => w.toNat
  | none => Memory.num s.mem a 8

/-- R335: a cached policy line is kept until POLBASE is written; when a line enters or leaves the cache is the agenda's. -/
def State.cachePolicy (s : State) (p a : Nat) (keep : Bool) : State :=
  let P := s.part p
  s.setPart p { P with polLines := if keep then tset P.polLines a (BitVec.ofNat 64 (s.policyAt p a)) else tdel P.polLines a }

/-- R463: the policy table of partition p has no word for a tag that a request would be checked by: POLBASE leads where
nothing is. -/
def policyMissing (s : State) (p : Nat) (q : Req) (tag : Nat) : Bool :=
  tag != 0 && !q.exempt && !paInside ((s.part p).polbase.toNat * 2 ^ 20 + 16 * tag) 16

/-- R335: whether a tag lets a request through. -/
def policyAllows (s : State) (p : Nat) (q : Req) (tag : Nat) (write : Bool) : Bool :=
  tag = 0 || q.exempt ||
    pteBit (s.policyAt p ((s.part p).polbase.toNat * 2 ^ 20 + 16 * tag + (if write then 8 else 0))) (q.princ.toNat / 2 ^ 26)

/-- R337: appends an event to the ring of partition p, or counts it as lost; a ring where nothing is faults (R463). -/
def State.event (s : State) (p : Nat) (q : Req) (h : Place0) (tag : Nat) (write : Bool) : State :=
  let P := s.part p
  let n := bits P.teqsize.toNat 3 0
  let size := 2 ^ n
  let tail := P.teqtail.toNat
  if n < 6 || 15 < n || (tail + 1) % size = P.teqhead.toNat % size then
    s.setPart p { P with teqlost := P.teqlost + 1, lostPending := 1 }
  else
    let kind := (if q.engine then 2 else 0) + (if write then 1 else 0)
    let rec32 := leBytes 4 q.princ.toNat ++ leBytes 2 tag ++ leBytes 1 kind ++ leBytes 1 P.lostPending ++
      leBytes 4 (h.tensor % 2 ^ 20 + h.asid * 2 ^ 20) ++ leBytes 8 h.tile ++ leBytes 4 q.pc ++ leBytes 4 q.launchId ++
      leBytes 4 q.place
    let a := P.teqbase.toNat * 2 ^ 20 + 32 * (tail % size)
    if paInside a 32 then
      { s with mem := Memory.writeN s.mem a rec32 }.setPart p
        { P with teqtail := BitVec.ofNat 32 ((tail + 1) % size), lostPending := 0 }
    else s.machineFault p p

/-! ## Gates and windows (R412, R421, R448) -/

/-- Where a physical address leads a request of a partition. -/
inductive Route where
  /-- Own memory. -/
  | own
  /-- A window of a region of the lender. -/
  | window (lender region : Nat)
  /-- Out of a fabric port, to a remote address. -/
  | fabric (port pa dev : Nat)
  /-- Refused: PROT reason. -/
  | refuse (reason : Nat)
  deriving DecidableEq, Repr

/-- Whether a route is refused. -/
def Route.refused : Route → Bool
  | .refuse _ => true
  | _ => false

/-- Whether a route leads out of a fabric port. -/
def Route.outside : Route → Bool
  | .fabric _ _ _ => true
  | _ => false

/-- R448: a fabric address through its port and outbound window. -/
def fabricRoute (s : State) (q : Req) (pa n : Nat) (write : Bool) : Route :=
  let port := bits pa 50 45
  let P := s.port port
  let w := tget PortWin.reset P.owin (bits pa 44 41)
  let off := bits pa 40 0
  let covers := if P.mode then P.owner == q.part else (match q.frm with | some r => P.owner == r | none => P.owner == q.part)
  if (match q.frm with | some r => !(s.region r).gate | none => false) then .refuse 0x50
  else if 36 ≤ port || !P.valid || !P.up || !covers || !w.valid || w.len * 65536 < off + n then .refuse 0x52
  else if write && !w.w then .refuse 0x53
  else .fabric port (w.base + off) w.dev

/-- R412, R421: the path of a request to a physical address. -/
def routeOf (s : State) (q : Req) (pa n : Nat) (write : Bool) : Route :=
  if pteBit pa 51 then fabricRoute s q pa n write
  else
    match paRegion pa with
    | none => .refuse 0x50
    | some r =>
      if s.inPart q.part r then .own
      else
        let lender := (s.regionPart r).getD 24
        let R := s.region r
        let srcOpen := match q.frm with | some f => (s.region f).gate | none => true
        let hits := R.wins.filter fun e =>
          e.2.valid && !e.2.closing && e.2.borrower = q.part && e.2.base ≤ pa && pa + n ≤ e.2.base + e.2.len * 65536
        if !R.gate || !srcOpen || (s.part lender).fault || hits.isEmpty then .refuse 0x50
        else if write && !(hits.any fun e => e.2.w) then .refuse 0x51
        else .window lender r

/-- R421, R449: a window of a region, or the inbound window of one of its owner's ports, takes in a physical address. -/
def State.isLent (s : State) (r pa : Nat) : Bool :=
  (s.region r).wins.any (fun e => (e.2.valid || e.2.closing) && e.2.base ≤ pa && pa < e.2.base + e.2.len * 65536) ||
    s.ports.any fun e =>
      e.2.valid && (if e.2.mode then s.inPart e.2.owner r else e.2.owner == r) &&
        e.2.iwin.any fun w => w.2.valid && w.2.base ≤ pa && pa < w.2.base + w.2.len * 65536

/-- R422: where a page of a partition's own memory that others reach is homed for every agent, the owner too: a page in a
window, or one whose entry by physical address is still there. -/
def State.sharedHome (s : State) (p pa : Nat) : Option Nat :=
  match paRegion pa with
  | none => none
  | some r => if s.inPart p r && (s.isLent r pa || (s.entry (homeOfPa s p r pa)).isSome) then some r else none

/-- R422: the partition and region of the slices where a page is homed by its physical address, for a request. -/
def State.windowHome (s : State) (q : Req) (pa : Nat) : Option (Nat × Nat) :=
  match routeOf s q pa 16 false with
  | .window l r => some (l, r)
  | .own => (s.sharedHome q.part pa).map fun r => (q.part, r)
  | _ => none

/-- A window opens on a range of partition p (R422): what its slices hold of the range under virtual tiles is written back
and dropped, so that each page has one entry (log 85). -/
def State.shareRange (s : State) (p base n : Nat) : State :=
  s.flushPart p (fun e => e.asid != 15 && e.grans.any fun g => g.2 != 0 && decide (base ≤ g.1) && decide (g.1 < base + n)) true false

/-! ## Power (R434) -/

/-- Ratio of the PLLs in quarters of nominal at a stage of shedding (R435). -/
def stagePll (shed : Nat) : Nat := if shed = 0 then 4 else if shed = 1 then 3 else if shed = 2 then 2 else 1

/-- The ratio of a region's PLL in quarters of nominal: it stands in PARKED and RETAIN, is at its lowest in SLOW (R434) and
where the power cap cannot be met (R456), and else follows its partition's stage (R435). -/
def State.pllOf (s : State) (r : Nat) (R : Region) : Nat :=
  if R.railOff || 2 ≤ R.pwr then 0
  else if s.pkg.overCap || (R.pwr = 1 && !R.gated) then 1
  else stagePll (match s.regionPart r with | some p => (s.part p).shed | none => 0)

/-- A region with its PLL at the ratio that its state gives. -/
def State.setPower (s : State) (r : Nat) (R : Region) : State := s.setRegion r { R with pll := s.pllOf r R }

/-- R434: a request that reaches a region wakes it, and waits out the exit latency; one on a hot die stays SLOW (R457), and
one of a paused or evicted partition PARKED (R435). -/
def State.wakeRegion (s : State) (r : Nat) : State :=
  let R := s.region r
  let held := match s.regionPart r with | some p => decide (4 ≤ (s.part p).shed) | none => false
  let n := if R.hot then 1 else 0
  if held || R.railOff || (R.pwr = n && !R.gated) then s else s.setPower r { R with pwr := n, gated := false }

/-! ## Serving a tile -/

/-- What a slice is asked to do with bytes of a tile, by offset. -/
inductive TOp where
  | read (off n : Nat)
  | write (ws : List (Nat × Byte))
  deriving DecidableEq, Repr

/-- What comes of a request. -/
inductive Served where
  /-- Performed; for a read the bytes. -/
  | ok (s : State) (bs : List Byte)
  /-- Denied by its tag (R336). -/
  | denied (s : State)
  /-- No valid leaf for this address, or a leaf with HOST set (R320). -/
  | xlate (va : Nat) (host : Bool) (level : Nat)
  /-- A cause with its PROT reason (R320, R412, R448). -/
  | fail (s : State) (code reason : Nat)
  | machine
  /-- A gate holds it for a VF that migrates (R430). -/
  | held
  /-- The bytes lie behind a fabric port. -/
  | remote (port pa dev : Nat)
  /-- A write to memory of a VF that migrates: a gate of the lender parks it (R430). -/
  | parked (p region pa : Nat)

/-- A request that leaves its partition for its answer: out of a port, or into a gate's parking buffer. -/
inductive Far where
  | port (port pa dev : Nat)
  | gate (p region pa : Nat)
  deriving DecidableEq, Repr

/-- Where a request goes that is not performed at once, if it goes anywhere. -/
def Served.far : Served → Option Far
  | .remote port pa dev => some (.port port pa dev)
  | .parked p region pa => some (.gate p region pa)
  | _ => none

/-- Number of a granule's request that leaves. -/
def Far.key : Far → Nat
  | Far.port n pa _ => n * 2 ^ 56 + pa / 16
  | Far.gate _ _ pa => 2 ^ 66 + pa / 16
/-- Number of the read that a write of half a byte needs first. -/
def Far.peek (f : Far) : Nat := 2 ^ 64 + f.key
/-- Number of the store of a stamp word (R339). -/
def Far.stamp : Far → Nat
  | Far.port n pa _ => 2 ^ 65 + n * 2 ^ 56 + pa / 2
  | Far.gate _ _ pa => 2 ^ 67 + pa / 2

/-- The same place, n bytes further. -/
def Far.plus (f : Far) (k : Nat) : Far :=
  match f with
  | Far.port n pa dev => Far.port n (pa + k) dev
  | Far.gate p r pa => Far.gate p r (pa + k)

/-- The kind of a parked request that a flit of this kind would be. -/
def parkKind (kind : BitVec 8) : Nat := if kind = fkAtomic then 1 else if kind = fkReduce then 2 else 0

/-- R430: a gate parks a request; with more than 64 the migration is aborted once the step is done (R431). -/
def State.parkAt (s : State) (region : Nat) (rq : InReq) : State :=
  let R := s.region region
  s.setRegion region { R with parking := R.parking ++ [rq] }

/-- A request leaves its partition, on behalf of an asker (R430, R448); whether it was taken. -/
def State.sendFar (s : State) (part : Nat) (princ : Word) (f : Far) (kind : BitVec 8) (op len : Nat) (data : List Byte) (rel : Bool)
    (who : Asker) : State × Bool :=
  match f with
  | Far.port n pa dev => s.sendOut part princ n pa dev kind op len data rel who
  | Far.gate _ r pa => (s.parkAt r { kind := parkKind kind, op := op, pa := pa, src := who.key, data := data }, true)

/-- The sectors that an operation touches. -/
def TOp.sectors : TOp → List Nat
  | .read off n => ((List.range n).map fun i => (off + i) / 128).eraseDups
  | .write ws => (ws.map fun w => w.1 / 128).eraseDups

/-- The granules of a tile with their physical addresses; an absent granule has no nibble. -/
def tileGrans (x : Tile) (pages : List (Nat × Nat)) : List (Nat × Nat) :=
  (List.range (ceilDiv x.bytes 16)).map fun g =>
    let y := x.granule g
    if y.2 = 0 then (0, 0)
    else (((pages.find? fun e => e.1 = y.1 / 65536 * 65536).map (·.2)).getD 0 + y.1 % 65536, y.2)

/-- Fetches sectors that are not valid (R304). -/
def Ent.fill1 (e : Ent) (m : Memory) (sc : Nat) : Ent :=
  if e.svalid.getLsbD sc then e
  else
    let data := (List.range 8).foldl (fun d i =>
      match e.grans[8 * sc + i]? with
      | some (pa, n) => if n = 0 then d else Memory.writeN d (16 * (8 * sc + i)) (readNibbles m pa n)
      | none => d) e.data
    { e with data := data, svalid := e.svalid ||| (1#32 <<< sc) }

/-- One byte of a tile written, unless it is absent (R308). -/
def Ent.poke (e : Ent) (off : Nat) (b : Byte) : Ent :=
  match e.grans[off / 16]? with
  | none => e
  | some (_, n) =>
    let i := off % 16
    if 2 * i + 1 < n then { e with data := Memory.write e.data off b }
    else if 2 * i < n then { e with data := Memory.write e.data off (b &&& 0x0F) }
    else e

/-- Performs an operation on an entry (R304). -/
def Ent.perform (e : Ent) (m : Memory) (op : TOp) : Ent × List Byte :=
  let e := op.sectors.foldl (fun e sc => e.fill1 m sc) e
  match op with
  | .read off n => (e, Memory.readN e.data off n)
  | .write ws =>
    let e := ws.foldl (fun e w => e.poke w.1 w.2) e
    (op.sectors.foldl (fun e sc => { e with sdirty := e.sdirty ||| (1#32 <<< sc) }) e, [])

/-- Whether a use writes. -/
def Use.writes : Use → Bool
  | .write => true
  | .atomic => true
  | _ => false

/-- Whether a use reads. -/
def Use.reads : Use → Bool
  | .write => false
  | _ => true

/-- R317, R320: what a page's leaf says of a use by a flat or tensor access. -/
def pageCause (flat : Bool) (u : Use) (e : Nat) : Option (Nat × Nat) :=
  if flat && pteOwn e then some (cAlias, 0)
  else if u = .fetch && !pteX e then some (cProt, 0x02)
  else if u.writes && pteX e then some (cProt, 0x02)
  else if (u.reads && u != .fetch && !pteR e) || (u.writes && !pteW e) then some (cProt, 0x36)
  else none

/-- Translates every page of a list at a slice: the leaves, or the first that cannot be had. -/
def translateAll (s : State) (region slice : Nat) (q : Req) : List Nat → Sum (List (Nat × Nat × Nat)) Served
  | [] => .inl []
  | va :: vs =>
    match translate s region slice q.asid q.root va with
    | .none => .inr (.xlate va false 0)
    | .machine => .inr .machine
    | .leaf lv e =>
      if pteHost e then .inr (.xlate va true lv)
      else
        match translateAll s region slice q vs with
        | .inr z => .inr z
        | .inl ps => .inl ((va, lv, e) :: ps)

/-- The access tag of a tile (R335): the descriptor's, or that of the page of its first byte. -/
def Tile.tag (x : Tile) (ps : List (Nat × Nat × Nat)) : Nat :=
  let page := ((ps.head?).map fun p => pteTag p.2.2).getD 0
  match x.t with
  | none => page
  | some t => if t.atag = 0 then page else t.atag

/-- R336: allowed for what the use does. -/
def useAllowed (s : State) (p : Nat) (q : Req) (tag : Nat) (u : Use) : Bool :=
  (!u.reads || policyAllows s p q tag false) && (!u.writes || policyAllows s p q tag true)

/-- Performs at memory without keeping an entry (R314). -/
def performAt (s : State) (grans : List (Nat × Nat)) (op : TOp) : State × List Byte :=
  let e : Ent := { set := 0, xp := false, fill := 0, opn := false, stv := false, wr := true, asid := 0, tensor := 0,
                   tile := 0, gen := 0, atag := 0, stamp := 0, fowc := 0, sdirty := 0, svalid := 0, data := [],
                   grans := grans, used := 0 }
  let r := e.perform s.mem op
  ({ s with mem := r.1.writeBack s.mem }, r.2)

/-- R326: an entry that a sweep discards holds nothing. -/
def Ent.discarded (e : Ent) (b : Bool) : Ent := if b then { e with sdirty := 0, svalid := 0 } else e

/-- Performs an operation on a held or new entry and keeps it, unless the partition keeps none (R301); an OPEN
tensor's writes go through to memory (R314). -/
def performEntry (s : State) (h : Place0) (e : Ent) (op : TOp) (through keep : Bool) : State × List Byte :=
  let r := e.perform s.mem op
  let e := { r.1 with used := s.fresh }
  let s := { s with fresh := s.fresh + 1 }
  let s := if through then { s with mem := e.writeBack s.mem } else s
  let e := if through then { e with sdirty := 0 } else e
  if keep then (s.putEntry h e, r.2)
  else ({ s with mem := e.writeBack s.mem }.setSlice h.region h.slice
          ((s.slice h.region h.slice).filter fun x => !x.isAt h), r.2)

/-- R326: a request that carries the generation that a sweep drops keeps no entry. -/
def sweeping (s : State) (p : Nat) (x : Tile) : Bool :=
  match x.t with
  | none => false
  | some t => (s.part p).sweeps.contains (x.asid, t.root) &&
      (match tfind s.vfs ((s.vfs.find? fun e => e.2.part = p && e.2.asid = x.asid).map (·.1) |>.getD 0) with
       | none => false
       | some v => Memory.read s.mem (v.ttbase + 256 * t.root + 0x0E) != BitVec.ofNat 8 t.gen)

/-- R326: the sweep that drops a request's generation discards what is dirty. -/
def discards (s : State) (p : Nat) (x : Tile) : Bool :=
  match x.t with
  | none => false
  | some t => s.ops.any fun e => e.2.granted && e.2.asid = x.asid && ((tfind s.launches e.2.launch).map (·.part)) = some p &&
      (match e.2.kind with | .tinv u d => d && u.root = t.root | _ => false)

/-- A new entry for a tile, none of its sectors valid (R303, R317): WR is the AND of its pages' W rights and XP the OR of
their X rights. -/
def newEnt (s : State) (q : Req) (x : Tile) (h : Place0) (ps : List (Nat × Nat × Nat)) (tag : Nat)
    (grans : List (Nat × Nat)) : Ent :=
  { set := h.set, xp := ps.any fun p => pteX p.2.2, fill := 0, opn := (match x.t with | some t => t.isOpen | none => false),
    stv := false, wr := ps.all fun p => pteW p.2.2, asid := h.asid, tensor := h.tensor, tile := h.tile, gen := h.gen,
    atag := tag, stamp := 0, fowc := (s.part q.part).owc % 65536, sdirty := 0, svalid := 0, data := [], grans := grans,
    used := 0 }

/-- Physical pages of a tile, by the virtual page. -/
def pagePas (ps : List (Nat × Nat × Nat)) : List (Nat × Nat) :=
  ps.map fun p => (p.1 / 65536 * 65536, leafPa p.2.1 p.2.2 (p.1 / 65536 * 65536))

/-- Physical address of a flat tile, or of the first page of a tensor's. -/
def firstPa (ps : List (Nat × Nat × Nat)) : Nat := ((ps.head?).map fun p => leafPa p.2.1 p.2.2 p.1).getD 0

/-- Where each page of a tile leads. -/
def tileRoutes (s : State) (q : Req) (x : Tile) (ps : List (Nat × Nat × Nat)) (write : Bool) : List Route :=
  (pagePas ps).map fun p =>
    routeOf s q (if x.t.isNone then firstPa ps / 4096 * 4096 else p.2) (if x.t.isNone then 4096 else 65536) write

/-- R422: some page of a tile is homed by its physical address. -/
def tileShared (s : State) (q : Req) (x : Tile) (ps : List (Nat × Nat × Nat)) : Bool :=
  if x.t.isNone then (s.windowHome q (firstPa ps)).isSome
  else ((tileGrans x (pagePas ps)).map fun g => if g.2 = 0 then none else some (g.1 / 4096)).eraseDups.any fun t =>
    match t with | none => false | some t => (s.windowHome q (4096 * t)).isSome

/-- A miss whose tile is the partition's own and is kept in the tile cache: every page leads to own memory, no flat page is
OPEN (R314), the partition has ways (R301), and the tag lets the use through. -/
def keepsEntry (s : State) (q : Req) (x : Tile) (u : Use) (ps : List (Nat × Nat × Nat)) : Bool :=
  ((tileRoutes s q x ps u.writes).find? fun r => r != .own).isNone && !tileShared s q x ps && useAllowed s q.part q (x.tag ps) u &&
    !(x.t.isNone && ps.any fun p => pteOpn p.2.2) && (s.part q.part).tccfg != 0 && !sweeping s q.part x

/-- R320: a write to a page whose X is set fills the tile for reads only. -/
def fillForReads (s : State) (q : Req) (x : Tile) (op : TOp) (h : Place0) (ps : List (Nat × Nat × Nat)) : State :=
  if keepsEntry s q x .read ps && (s.entry h).isNone && !s.setFull h (2 * (s.part q.part).tccfg) then
    let e := newEnt s q x h ps (x.tag ps) (tileGrans x (pagePas ps))
    let s := s.makeRoom h (2 * (s.part q.part).tccfg)
    s.putEntry h { op.sectors.foldl (fun e sc => e.fill1 s.mem sc) e with used := s.fresh }
  else s

/-- The granules of the 4 KiB of physical memory that hold an address. -/
def flatGrans (pa : Nat) : List (Nat × Nat) := (List.range 256).map fun i => (pa / 4096 * 4096 + 16 * i, 32)

/-- The granules that an operation touches. -/
def TOp.grans : TOp → List Nat
  | .read off n => ((List.range n).map fun i => (off + i) / 16).eraseDups
  | .write ws => (ws.map fun w => w.1 / 16).eraseDups

/-- The first byte of a tile that an operation touches. -/
def TOp.first : TOp → Nat
  | .read off _ => off
  | .write ws => (ws.head?.map (·.1)).getD 0

/-- R430: an operation writes memory of a VF of a partition that migrates. -/
def parksAt (s : State) (p : Nat) (grans : List (Nat × Nat)) (op : TOp) : Bool :=
  (op.grans.map fun g => (grans.getD g (0, 0))).any fun g => g.2 != 0 && frozenOwns s p g.1

/-- R422: an operation on the entry of a windowed page's 4 KiB, in the lender's slices. -/
def windowAt (s : State) (lender region tag pa : Nat) (op : TOp) : State × List Byte :=
  let h := homeOfPa s lender region pa
  let e := (s.entry h).getD
    { set := h.set, xp := false, fill := 0, opn := false, stv := false, wr := true, asid := 15, tensor := 0,
      tile := h.tile, gen := 0, atag := tag, stamp := 0, fowc := 0, sdirty := 0, svalid := 0, data := [],
      grans := flatGrans pa, used := 0 }
  let full := s.setFull h (2 * (s.part lender).tccfg)
  let s := if (s.entry h).isSome then s else s.makeRoom h (2 * (s.part lender).tccfg)
  performEntry s h e op false ((s.part lender).tccfg != 0 && !full)

/-- An operation on bytes of one page of a tensor tile, at the page's home, or at memory where it has none of its own. -/
def pageAt (s : State) (q : Req) (tag pa : Nat) (op : TOp) : State × List Byte :=
  match s.windowHome q pa with
  | some (lender, region) => windowAt s lender region tag pa op
  | none => performAt s (flatGrans pa) op

/-- The bytes of a granule of a windowed tensor tile; absent nibbles read zero. -/
def windowRead (s : State) (q : Req) (tag : Nat) (g : Nat × Nat) : State × List Byte :=
  if g.2 = 0 then (s, List.replicate 16 0)
  else
    let r := pageAt s q tag g.1 (.read (g.1 % 4096) 16)
    (r.1, (List.range 16).map fun i =>
      if 2 * i + 1 < g.2 then r.2.getD i 0 else if 2 * i < g.2 then r.2.getD i 0 &&& 0x0F else 0)

/-- Writes one byte of a granule of a windowed tensor tile, where its nibbles are present. -/
def windowPoke (s : State) (q : Req) (tag : Nat) (g : Nat × Nat) (i : Nat) (b : Byte) : State :=
  let at_ := g.1 + i
  if 2 * i + 1 < g.2 then (pageAt s q tag at_ (.write [(at_ % 4096, b)])).1
  else if 2 * i < g.2 then
    let r := pageAt s q tag at_ (.read (at_ % 4096) 1)
    (pageAt r.1 q tag at_ (.write [(at_ % 4096, (r.2.getD 0 0 &&& 0xF0) ||| (b &&& 0x0F))])).1
  else s

/-- R422: an operation on a tensor tile that lies behind a window: each of its granules is performed at the entry of the
physical page that holds it. -/
def windowTile (s : State) (q : Req) (tag : Nat) (grans : List (Nat × Nat)) (op : TOp) : State × List Byte :=
  match op with
  | .read off n =>
    let gs := ((List.range n).map fun i => (off + i) / 16).eraseDups
    let r := gs.foldl (fun (r : State × List (Nat × List Byte)) g =>
      let z := windowRead r.1 q tag (grans.getD g (0, 0))
      (z.1, (g, z.2) :: r.2)) (s, [])
    (r.1, (List.range n).map fun i =>
      (((r.2.find? fun e => e.1 = (off + i) / 16).map (·.2)).getD []).getD ((off + i) % 16) 0)
  | .write ws =>
    (ws.foldl (fun s w => windowPoke s q tag (grans.getD (w.1 / 16) (0, 0)) (w.1 % 16) w.2) s, [])

/-- R319: the translations of a tile's pages enter the buffer of its home slice. -/
def State.bufferLeaves (s : State) (h : Place0) (asid : Nat) (ps : List (Nat × Nat × Nat)) : State :=
  ps.foldl (fun s p =>
    let R := s.region h.region
    let t : Trans :=
      { slice := h.slice, asid := asid, level := p.2.1, page := p.1 / levelBytes p.2.1, leaf := BitVec.ofNat 64 p.2.2 }
    if (tlbFind R.tlb h.slice asid p.1).isSome then s else s.setRegion h.region { R with tlb := tlbAdd R.tlb t }) s

/-- A tile that misses (R317-R320, R335): translation, rights, tag, then the fill and the operation. A set in which every
entry is filling holds the request (R304); the front end's, which is one step here, keeps no entry there. -/
def serveMiss (s : State) (q : Req) (x : Tile) (u : Use) (op : TOp) (h : Place0) : Served :=
  match translateAll s h.region h.slice q x.pages with
  | .inr z => z
  | .inl ps =>
    let s := s.bufferLeaves h q.asid ps
    match (if q.rights then ps.findSome? fun p => pageCause x.t.isNone u p.2.2 else none) with
    | some (a, b) => .fail (if u.writes && (a, b) = (cProt, 0x02) then fillForReads s q x op h ps else s) a b
    | none =>
      let grans := tileGrans x (pagePas ps)
      let first := firstPa ps
      let tag := x.tag ps
      let routes := tileRoutes s q x ps u.writes
      let first? := fun (f : Route → Bool) => routes.find? f
      match (first? Route.refused).or ((first? Route.outside).or (first? fun r => r != .own)) with
      | some (.refuse n) => .fail s cProt n
      | some (.fabric port _ dev) =>
        let g := grans.getD (op.first / 16) (0, 0)
        match routeOf s q g.1 16 u.writes with
        | .fabric _ pa _ => .remote port (pa + op.first % 16) dev
        | _ => .fail s cProt 0x52
      | some (.window lender r) =>
        let hw := homeOfPa s lender r first
        let page := ((ps.head?).map fun p => pteTag p.2.2).getD 0
        let s := s.wakeRegion r
        if (s.region r).holding || (s.region r).railOff || (q.frm.isSome && s.setFull hw (2 * (s.part lender).tccfg)) then .held
        else if policyMissing s lender q page then .fail (s.machineFault lender lender) cProt 0x50
        else if useAllowed s lender q page u then
          if u.writes && parksAt s lender grans op then
            .parked lender r ((grans.getD (op.first / 16) (0, 0)).1 + op.first % 16)
          else
          let r := if x.t.isNone then windowAt s lender r page first op else windowTile s q page grans op
          .ok r.1 r.2
        else .denied (s.event lender q hw page u.writes)
      | _ =>
        if policyMissing s q.part q tag then .machine
        else if useAllowed s q.part q tag u then
          if tileShared s q x ps then
            let r := match (if x.t.isNone then s.windowHome q first else none) with
              | some (l, r) => windowAt s l r tag first op
              | none => windowTile s q tag grans op
            .ok r.1 r.2
          else if x.t.isNone && ps.any (fun p => pteOpn p.2.2) then
            let r := performAt s grans op
            .ok r.1 r.2
          else
            let e := ((s.entry h).filter fun e => !e.opn).getD (newEnt s q x h ps tag grans)
            let ways := 2 * (s.part q.part).tccfg
            let full := s.setFull h ways
            if full && q.frm.isSome then .held
            else
              let s := if (s.entry h).isSome then s else s.makeRoom h ways
              let r := performEntry s h e op (e.opn && u.writes) (ways != 0 && !full && !sweeping s q.part x)
              .ok r.1 r.2
        else .denied (s.event q.part q h tag u.writes)

/-- R412: the gates between the requester's region and the home slice. -/
def gateOpen (s : State) (q : Req) (region : Nat) : Bool :=
  match q.frm with
  | none => (s.region region).gate
  | some f => f = region || ((s.region f).gate && (s.region region).gate)

/-- R303, R317, R335: a request at a tile's home slice. A hit is not translated. -/
def serveTile (s : State) (q : Req) (x : Tile) (u : Use) (op : TOp) : Served :=
  let h := homeOf s q.part x
  if !gateOpen s q h.region then .fail s cProt 0x50
  else
    let s := s.wakeRegion h.region
    match (s.entry h).filter fun e => e.fresh q.floor with
    | none => serveMiss s q x u op h
    | some e =>
      if q.rights && u.writes && e.xp then .fail s cProt 0x02
      else if q.rights && u.writes && !e.wr then .fail s cProt 0x36
      else if q.rights && u = .fetch && !e.xp then .fail s cProt 0x02
      else if policyMissing s q.part q e.atag then .machine
      else if useAllowed s q.part q e.atag u then
        let old := sweeping s q.part x
        let r := performEntry s h (e.discarded (old && discards s q.part x)) op (e.opn && u.writes) (!old)
        .ok r.1 r.2
      else .denied (s.event q.part q h e.atag u.writes)

/-- Parts of a byte range that lie in one flat tile each: tile, offset, length. -/
def flatParts (va n : Nat) : List (Nat × Nat × Nat) :=
  (List.range (n / 4096 + 2)).filterMap fun i =>
    let t := va / 4096 + i
    let lo := max va (4096 * t)
    let hi := min (va + n) (4096 * t + 4096)
    if lo < hi then some (t, lo - 4096 * t, hi - lo) else none

/-- The flat tile of an address space. -/
def flatTile (asid t : Nat) : Tile := { asid := asid, t := none, idx := t }

/-- A tile of a captured tensor; the flat tensor's are flat tiles. -/
def tileOf (asid : Nat) (t : Tensor) (i : Nat) : Tile :=
  { asid := asid, t := if t.id = 0 then none else some t, idx := i }

/-- The tiles of a deadline fill (R332): one of a TDEAD's run, or those of an OSLD's page. -/
def EngOp.fillTiles (o : EngOp) (i : Nat) : List Tile :=
  match o.kind with
  | .tdead t first _ _ => [tileOf o.asid t (first + i)]
  | .osld va _ _ _ => (flatParts (va + 32768 * i) 32768).map fun p => flatTile o.asid p.1
  | _ => []

/-- A deadline fill that is performed, or taken over, leaves its queue, and its operation counts the tile (R332, R333). -/
def State.fillDone (s : State) (r : Nat) (f : DFill) : State :=
  let R := s.region r
  let s := s.setRegion r { R with dfq := R.dfq.filter (· != f) }
  { s with ops := tmod s.ops f.op fun o => { o with unitsDone := f.idx :: o.unitsDone } }

/-- R333: the queued deadline fill that takes in a tile, with its region: that of one tile, or of a page. -/
def State.queuedFill (s : State) (x : Tile) : Option (Nat × DFill) :=
  s.regions.findSome? fun e => (e.2.dfq.find? fun f =>
    match tfind s.ops f.op with
    | some o => o.asid = x.asid && (o.fillTiles f.idx).any fun y => y.asid = x.asid && y.key = x.key
    | none => false).map fun f => (e.1, f)

/-- Reads tiles whole, one after another; none if one cannot be read now. -/
def fillWhole (q : Req) : List Tile → State → Option State
  | [], s => some s
  | x :: xs, s =>
    match serveTile s q x .read (.read 0 x.bytes) with
    | .ok s _ => fillWhole q xs s
    | _ => none

/-- R333: a demand request for a tile whose deadline fill is queued takes the fill over, if its own reads of the tiles filled
would be served. -/
def State.takeOver (s : State) (q : Req) (x : Tile) : State :=
  match s.queuedFill x with
  | none => s
  | some (r, f) =>
    match fillWhole q (((tfind s.ops f.op).map fun o => o.fillTiles f.idx).getD []) s with
    | some s => s.fillDone r f
    | none => s

/-- Reads a flat range, tile by tile. -/
def serveReadParts (s : State) (q : Req) (u : Use) : List (Nat × Nat × Nat) → Served
  | [] => .ok s []
  | (t, off, n) :: ps =>
    match serveTile s q (flatTile q.asid t) u (.read off n) with
    | .ok s bs =>
      (match serveReadParts s q u ps with
       | .ok s cs => .ok s (bs ++ cs)
       | z => z)
    | .denied s =>
      (match serveReadParts s q u ps with
       | .ok s cs => .ok s (List.replicate n 0 ++ cs)
       | z => z)
    | z => z

/-- Writes a flat range, tile by tile. -/
def serveWriteParts (s : State) (q : Req) (bs : List Byte) : List (Nat × Nat × Nat) → Served
  | [] => .ok s []
  | (t, off, n) :: ps =>
    match serveTile s q (flatTile q.asid t) .write (.write ((bs.take n).mapIdx fun i b => (off + i, b))) with
    | .ok s _ => serveWriteParts s q (bs.drop n) ps
    | z => z

/-- Reads n bytes of global memory as flat accesses; denied tiles give zeros. -/
def serveRead (s : State) (q : Req) (va n : Nat) : Served := serveReadParts s q .read (flatParts va n)
/-- Writes bytes of global memory as flat accesses. -/
def serveWrite (s : State) (q : Req) (va : Nat) (bs : List Byte) : Served := serveWriteParts s q bs (flatParts va bs.length)

/-! ## Exposure stamps (R338-R340) -/

/-- The stamp store of a tile (R339): the epoch goes into the stamp word. A stamp page without a leaf is answered by
xlate, one that a gate holds by held, and one behind a fabric port by remote; off: flat tiles to which the store is not
made. What a gate or a window refuses counts as a page that cannot be mapped (log 61). -/
def stampTile (s : State) (q : Req) (t : Tensor) (root : Nat) (off : List Nat) : Served :=
  if pteBit t.flags 1 || off.contains ((t.stamps + 2 * root) / 4096) then .ok s []
  else
    let q := { q with exempt := true, rights := false }
    match serveTile s q (flatTile q.asid ((t.stamps + 2 * root) / 4096)) .write
        (.write ((leBytes 2 (s.part q.part).lepoch.toNat).mapIdx fun i b => ((t.stamps + 2 * root) % 4096 + i, b))) with
    | .ok s bs => .ok s bs
    | .xlate va h lv => .xlate va h lv
    | .machine => .machine
    | .held => .held
    | .remote port pa dev => .remote port pa dev
    | .parked p r pa => .parked p r pa
    | .fail s _ _ => .ok s []
    | .denied s => .ok s []

/-- Marks the entry of a tile as stamped with the epoch (R303, R339). -/
def markStamped (s : State) (q : Req) (x : Tile) : State :=
  let h := homeOf s q.part x
  match s.entry h with
  | none => s
  | some e => s.putEntry h { e with stv := true, stamp := (s.part q.part).lepoch.toNat % 65536 }

/-- Whether the entry of a tile already carries the epoch's stamp (R339). -/
def stampedNow (s : State) (q : Req) (x : Tile) : Bool :=
  match s.entry (homeOf s q.part x) with
  | none => false
  | some e => e.stv && e.stamp == (s.part q.part).lepoch.toNat % 65536

/-- Byte b of a tile at an offset, with its absent nibbles zero (R308). -/
def Tile.presentByte (x : Tile) (off : Nat) (b : Byte) : Byte :=
  if 2 * (off % 16) + 1 < (x.granule (off / 16)).2 then b else b &&& 0x0F

/-- Whether byte off of a tile holds an element that is present (R308). -/
def Tile.holdsByte (x : Tile) (off : Nat) : Bool := decide (2 * (off % 16) < (x.granule (off / 16)).2)

/-- R340: under QUIETSAME a write of the bytes already held in valid sectors changes nothing; absent elements hold none. -/
def quietSame (s : State) (q : Req) (x : Tile) (t : Tensor) (ws : List (Nat × Byte)) : Bool :=
  pteBit t.flags 0 &&
    (match s.entry (homeOf s q.part x) with
     | none => false
     | some e => ws.all fun w =>
        !x.holdsByte w.1 || (e.svalid.getLsbD (w.1 / 128) && Memory.read e.data w.1 == x.presentByte w.1 w.2))

/-- R450: some page of a tile lies behind a window; a write there places no stamp. -/
def tileWindowed (s : State) (q : Req) (x : Tile) : Bool :=
  let h := homeOf s q.part x
  match translateAll s h.region h.slice q x.pages with
  | .inl ps => (tileRoutes s q x ps true).any fun r => match r with | .window _ _ => true | _ => false
  | .inr _ => false

/-- A stamping tensor-path write (R339): policy and rights first, then the stamp, then the data. -/
def stampingWrite (s : State) (q : Req) (x : Tile) (off : List Nat) (ws : List (Nat × Byte)) : Served :=
  match x.t with
  | none => serveTile s q x .write (.write ws)
  | some t =>
    match serveTile s q x .write (.write []) with
    | .ok s _ =>
      let root := x.key.2.1
      if quietSame s q x t ws || !(ws.any fun w => x.holdsByte w.1) then .ok s []
      else if tileWindowed s q x then serveTile s q x .write (.write ws)
      else if stampedNow s q x then serveTile s q x .write (.write ws)
      else
        (match stampTile s q t root off with
         | .ok s _ =>
           (match serveTile s q x .write (.write ws) with
            | .ok s bs => .ok (markStamped s q x) bs
            | z => z)
         | z => z)
    | z => z

/-! ## Migration faults (R443, R444) -/

/-- The migration request ring has room. -/
def Vf.mrqRoom (v : Vf) : Bool := (v.mrqTail + 1) % 256 != v.mrqHead % 256

/-- Writes the oldest record that waits for room, if there is room, and signals VF vector 0. -/
def State.mrqWrite (s : State) (n : Nat) : State :=
  match tfind s.vfs n with
  | none => s
  | some v =>
    match v.migReqs.find? fun e => !e.2.2.2 with
    | none => s
    | some (va, lv, kind, _) =>
      if v.mrqRoom then
        let rec16 := leBytes 8 va ++ leBytes 1 lv ++ leBytes 1 kind ++ leBytes 6 0
        let v := { v with
          mrqTail := (v.mrqTail + 1) % 256
          migReqs := v.migReqs.map fun (e : Nat × Nat × Nat × Bool) => if e.1 = va then (e.1, e.2.1, e.2.2.1, true) else e }
        { s with
          host := Memory.writeN s.host (bits v.mrqBase.toNat 63 12 * 4096 + 16 * ((v.mrqTail + 255) % 256)) rec16
          vfs := tset s.vfs n v }.signal (some n) 0
      else s

/-- Writes the records that wait, oldest first, while there is room (R443). -/
def State.mrqFlush (s : State) (n : Nat) : State := (List.range 256).foldl (fun s _ => s.mrqWrite n) s

/-- R443: a request meets a page whose HOST is set; one record stands for the page. -/
def State.migFault (s : State) (n va level : Nat) (write fetch : Bool) : State :=
  match tfind s.vfs n with
  | none => s
  | some v =>
    let page := va / levelBytes level * levelBytes level
    if v.migReqs.any fun e => e.1 = page then s
    else
      let kind := (if write then 1 else 0) + (if fetch then 2 else 0)
      { s with vfs := tset s.vfs n { v with migReqs := v.migReqs ++ [(page, level, kind, false)] } }.mrqWrite n

/-! ## Accesses of the front end and the launch engine (R464) -/

/-- The front end's own requests: no tag check, no gate of a source region. -/
def feReq (s : State) (p vf : Nat) : Req :=
  let v := tfind s.vfs vf
  { part := p, asid := (v.map (·.asid)).getD 0, root := (v.map (·.ptroot)).getD 0, frm := none,
    princ := (v.map (·.princ)).getD 0, exempt := true, rights := true, engine := false,
    floor := (s.part p).owc, pc := 0, launchId := 0, place := 0 }

/-- A read that ends a check (R464): a status and its DETAIL reason, or the bytes. A page behind a fabric port, which R464
does not name, ends the check as one that it cannot reach (log 62, DESIGN CHOICE). -/
def feRead (s : State) (q : Req) (va n : Nat) : Sum (State × List Byte) (Nat × Nat) :=
  match serveRead s q va n with
  | .ok s bs => .inl (s, bs)
  | .xlate _ _ _ => .inr (cProt, 0x13)
  | .fail _ a b => .inr (a, if a = cProt then b else 0)
  | _ => .inr (cProt, 0x13)

/-- A write of the front end; none when it cannot be made. -/
def feWrite (s : State) (q : Req) (va : Nat) (bs : List Byte) : Option State :=
  match serveWrite s q va bs with
  | .ok s _ => some s
  | _ => none

/-- A write of the front end that is lost when it cannot be made (R464); to a page behind a fabric port, or of a VF that
migrates, it leaves by granules (R430, R448). -/
def feTry (s : State) (q : Req) (va : Nat) (bs : List Byte) : State :=
  (List.range (ceilDiv bs.length 16)).foldl (fun s i =>
    let part := (bs.drop (16 * i)).take 16
    match serveWrite s q (va + 16 * i) part with
    | .ok s _ => s
    | z =>
      match z.far with
      | some f => (s.sendFar q.part q.princ f fkWrite 0 part.length part false { kind := 2, ref := 0, sub := 0 }).1
      | none => s) s

end Sys2Proof.Machine
end

