-- ==== Sys2Proof/Machine/Operands.lean ====
section
/-! DEFINITION. Operand forms and the skeleton of an issue: who may issue, waiting for sources (R51), the
wait for destinations (R52), guards (R53, R66), literals (R67), and what follows an instruction. -/

namespace Sys2Proof.Machine

/-! ## Stop points (R364) -/

/-- What stands at a split's PC, if its word is in the instruction buffer. -/
def Split.instrAt (X : Split) : Option Instr :=
  match tfind X.ibuf X.pc.toNat with
  | none => none
  | some w =>
    match (if takesLiteral w then tfind X.ibuf (X.pc.toNat + 4) else some 0).map (decode w) with
    | some (.ok i) => some i
    | _ => none

/-- Whether an instruction is a YIELD. -/
def isYield (i : Instr) : Bool := match i with | .yield _ => true | _ => false

/-- R364: BAR, CBARW, JOIN and YIELD. -/
def isSite (i : Instr) : Bool :=
  match i with
  | .bar _ => true
  | .cbarw _ => true
  | .join _ => true
  | .yield _ => true
  | _ => false

/-- The split stands at a keep site. -/
def Split.standsAtSite (X : Split) : Bool := X.wait = .none && (X.instrAt.map isSite).getD false

/-- The split is at a keep site, standing or waiting. -/
def Split.atSite (X : Split) : Bool :=
  X.standsAtSite ||
    (match X.wait with
     | .bar _ => true
     | .cbar _ => true
     | .joinPoint _ => true
     | .barRest cl stay _ _ => !cl && stay
     | _ => false)

/-- R177, R365: the user handler holds this split. -/
def Warp.holds (W : Warp) (X : Split) : Bool :=
  W.sc.csr.inh && X.id != W.sc.csr.trapSplit && !X.usrChild && X.wait = .none

/-- R364: the split has met a stop point; a wait that the spec calls one without naming it there is one too (R159, R167,
R249, R271, R332; DEDUCED, log 67). BARW is one only when the block stops to WAIT (R237, R240). -/
def Warp.splitStopped (W : Warp) (waits : Bool) (X : Split) : Bool :=
  X.isLocal && !X.sup && !X.service &&
  (X.atSite || W.holds X || (X.stalled && X.wait = .none) ||
   (match X.wait with
    | .atJoin _ => true
    | .waitvSleep _ _ => true
    | .wqwait _ _ => true
    | .wqDone _ _ => true
    | .sleep _ => true
    | .barw _ => waits
    | .barRest _ _ _ _ => waits
    | _ => false))

/-- R364: each split of the warp has met a stop point. -/
def Warp.stopped (W : Warp) (waits : Bool) : Bool := W.splits.all (W.splitStopped waits)

/-- A PREEMPT or RECLAIM stop that has not finished. -/
def Block.preempting (B : Block) : Bool := (B.stop = some .preempt || B.stop = some .reclaim) && !B.saved && B.resident && !B.ended

/-- The split that takes PREEMPT: the oldest local one not at a join entry (R177), at an instruction boundary. -/
def Warp.preemptee (W : Warp) : Option Split :=
  match oldest (W.locals.filter fun X => !X.atJoin) with
  | none => none
  | some X =>
    match X.wait with
    | .waitvLoad _ => none
    | _ => if X.sup || X.service || X.cuse.isSome then none else some X

/-- R365: a warp that is not stopped can take PREEMPT: its fragments have been recalled, and no user handler runs. -/
def Warp.preemptible (W : Warp) : Bool :=
  !W.preempted && W.splits.all Split.isLocal && !W.sc.csr.inh && !W.stopped false

/-! ## Who issues -/

/-- R365: PREEMPT, once the soft deadline has passed, comes before the split's next instruction. -/
def Ctx.preemptDue (c : Ctx) : Bool :=
  ((tfind c.s.blocks c.W.block).map fun B => B.escalated && B.preempting).getD false &&
    c.W.preemptible && !c.W.halted && (c.W.preemptee.map (·.id)) = some c.sp.id

/-- Whether a boundary of this split has a cause to take first (R180, R225, R278, R365). -/
def Ctx.due (c : Ctx) : Bool :=
  let mine : Option Split → Bool := fun x => match x with | some X => X.id == c.sp.id | none => false
  !c.sp.sup && c.sp.cuse.isNone &&
    (c.W.defQ.any (fun z => mine (c.W.receiver z)) || c.W.engQ.any (fun z => mine (c.W.receiver z)) ||
     (c.W.supNow.isNone && c.W.supQ.any fun z => z.kind != 2 && mine (c.W.handling z)) || c.preemptDue)

/-- Whether a running user handler holds this split (R177); the splits that the handler itself makes run. -/
def Ctx.held (c : Ctx) : Bool :=
  c.W.sc.csr.inh && c.sp.isLocal && !c.sp.sup && c.sp.id != c.W.sc.csr.trapSplit && !c.sp.usrChild

/-- A stop is requested for the split's block (R184, R211). -/
def Ctx.stopWanted (c : Ctx) : Bool := ((tfind c.s.blocks c.W.block).bind (·.stop)).isSome

/-- Whether the split may issue: it waits for nothing, nothing holds it, no cause comes first, its
block is not paused (R435), and no stop recalls it from its slot (R211). -/
def Ctx.mayIssue (c : Ctx) : Bool :=
  c.sp.wait = .none && !c.held && (!c.W.halted || c.W.step = some c.sp.id) && !c.due &&
  (!c.sp.service || c.sp.sup) && !(((tfind c.s.blocks c.W.block).map (·.paused)).getD false) &&
  (match c.sp.home with | .wcore => true | .ncore f => f.stage = .running && !c.stopWanted)

/-- The split that the cursor names. -/
def issuer (s : State) : Option Ctx :=
  match s.cur with
  | none => none
  | some (w, i) =>
    match tfind s.warps w with
    | none => none
    | some W =>
      match W.split i with
      | none => none
      | some X => some { s := s, w := w, W := W, sp := X }

/-- Runs a meaning for the split that the cursor names. A split that may not issue leaves the state as
it is. -/
def run (s : State) (k : Ctx → State) : Out :=
  match issuer s with
  | none => .fault .noIssuer
  | some c => .next (if c.mayIssue then k c else s)

/-! ## After an instruction -/

/-- Bookkeeping of the last issue, on a pipe of the W-core (R114) or of a slot (R189), and of a step of the debug
agent (R186). -/
def Warp.issued (W : Warp) (X : Split) (t : Nat) (uset : Bool) : Warp :=
  let W := if !X.isLocal then W else if uset then { W with lastU := t } else { W with lastV := t }
  if W.step = some X.id then { W with step := none } else W

/-- What a split gathered for its instruction ends with it (R190, R231); t: when it issued. -/
def Split.endReads (X : Split) (t : Nat) : Split :=
  { X with taken := [], cwant := none, cheld := false, cuse := none, stalled := false }.modSlot fun f =>
    { f with snap := none, sreq := none, pulls := [], refused := none, last := t }

/-- Puts the split back with its new PC, checks for arrival (R153) and notes the issue. -/
def Ctx.finish (c : Ctx) (uset : Bool) : State :=
  let W := (c.W.setSplit (c.sp.endReads c.s.fresh)).issued c.sp c.s.fresh uset
  { c.s with fresh := c.s.fresh + 1 }.putWarp c.w (W.settle settleFuel c.sp.id)

/-- Goes on n words further. -/
def Ctx.advance (c : Ctx) (n : Nat) : Ctx := { c with sp := { c.sp with pc := c.sp.pc + BitVec.ofNat 32 (4 * n) } }

/-- Collectors of the core that instructions of other splits, or earlier ones of this split, have taken (R116); a VC that
waits for its constant holds one (R121). -/
def Ctx.collectors (c : Ctx) : Nat :=
  ((c.s.core c.W.core).pipe.filter fun e => !e.dispatched).length +
    (c.s.warps.flatMap fun e => if e.2.core = c.W.core then
      e.2.splits.filter fun X => X.cheld && !(e.1 = c.w && X.id = c.sp.id) else []).length

/-- A local V-set instruction takes an operand collector (R116); a fragment's does not (R189). -/
def Ctx.collect (c : Ctx) (srcs dst : List Nat) : Ctx :=
  if c.sp.isLocal then
    let k := c.s.core c.W.core
    { c with s := c.s.setCore c.W.core { k with
        pipe := k.pipe ++ [{ warp := c.w, split := c.sp.id, srcs := srcs, dst := dst, dispatched := false }] } }
  else c

/-! ## Sources and destinations -/

/-- A register source: vector or scalar, number, wait bit. -/
structure Src where
  vec : Bool
  r : BitVec 6
  wait : Bool
  deriving DecidableEq, Repr

/-- A vector source. -/
def vsrc (r : BitVec 6) (w : Bool) : Src := ⟨true, r, w⟩
/-- A scalar source. -/
def ssrc (r : BitVec 6) (w : Bool) : Src := ⟨false, r, w⟩
/-- The registers of a pair, quad or single as sources; the zero name is none (R47). -/
def group (vec : Bool) (r : BitVec 6) (n : Nat) (w : Bool) : List Src :=
  if r = 63 then [] else (List.range n).map fun i => ⟨vec, r + BitVec.ofNat 6 i, w⟩

/-- Words of an instruction whose second operand is b (R58). -/
def bWords : SrcB → Nat
  | .reg _ _ => 1
  | .lit _ => 2

/-- Sources of a second operand (R67). -/
def bSrcs (b : SrcB) (vec : Bool) : List Src :=
  match b with
  | .reg w r => group vec r 1 w
  | .lit _ => []

/-- Value of a vector second operand in lane l: the literal serves every lane (R67). -/
def Ctx.vB (c : Ctx) (b : SrcB) (l : Nat) : Word :=
  match b with
  | .reg _ r => c.v r l
  | .lit v => v

/-- Value of a scalar second operand. -/
def Ctx.sB (c : Ctx) (b : SrcB) : Word :=
  match b with
  | .reg _ r => c.sreg r
  | .lit v => v

/-- State of a source where the split reads it. -/
def Ctx.srcState (c : Ctx) (x : Src) : RegState :=
  if x.vec then
    match c.sp.home with
    | .wcore => c.W.vstate x.r.toNat
    | .ncore f => tget .full f.vst x.r.toNat
  else c.sstate x.r

/-- A consuming read of a shared register (R169): local, and its wait bit 0. -/
def Ctx.consuming (c : Ctx) (x : Src) : Bool := x.vec && !x.wait && c.sp.isLocal && c.W.shared x.r.toNat

/-- The source must be FULL before the instruction may go on (R51, R169). -/
def Ctx.srcWaits (c : Ctx) (x : Src) : Bool :=
  (x.wait || c.consuming x) && c.srcState x != .full && !(!x.vec && c.smark x.r)

/-- A cause that an instruction meets: code, TRAPAUX, address. -/
abbrev Met := Nat × Nat × Nat

/-- The cause a source raises: FUTURE_CANCELLED for a marked register whatever its state (R172), REG_EMPTY
for a source without wait that is not FULL (R51). -/
def Ctx.srcCause (c : Ctx) (x : Src) : Option Met :=
  if !x.vec && c.smark x.r then some (cCancelled, 64 + x.r.toNat, 0)
  else if !x.wait && !c.consuming x && c.srcState x != .full then
    some (cRegEmpty, (if x.vec then 0 else 64) + x.r.toNat, 0)
  else none

/-- R122: the sources in turn: whether the first that is not FULL is one to wait for. DEDUCED (log 53): R113 has the
sources without wait checked at selection, after every wait; R122 and the worked word 0x0000_0020 raise REG_EMPTY at the
source in turn, before the wait for d. -/
def Ctx.waiting (c : Ctx) : List Src → Bool
  | [] => false
  | x :: xs => if c.srcWaits x then true else if (c.srcCause x).isSome then false else c.waiting xs

/-- The destination must be FULL first (R52); a shared register is written without that wait (R169), and a
fragment's scalar write waits at the parent (R190). -/
def Ctx.dstWaits (c : Ctx) (x : Src) : Bool :=
  if x.vec then !(c.sp.isLocal && c.W.shared x.r.toNat) && c.srcState x != .full
  else c.sp.isLocal && c.srcState x != .full

/-- Whether the instruction may go on. -/
inductive Ready where
  | go
  /-- It waits; the state notes what a fragment has asked for. -/
  | hold (s : State)
  | raise (code aux addr : Nat)

/-- The lowest cause (R38). -/
def lowest : List Met → Option Met
  | [] => none
  | z :: zs =>
    match lowest zs with
    | none => some z
    | some y => some (if y.1 < z.1 then y else z)

/-- The lanes a fragment's write must cover so that it need not pull the register first (R197). -/
def Slot.absent (f : Slot) (r : Nat) : Bool := !f.present.getLsbD r

/-- R195, R197: registers that a fragment must pull for the instruction, with the wait bit of the source. -/
def Slot.toPull (f : Slot) (P : Mask) (srcs dsts : List Src) : List (Nat × Bool) :=
  ((srcs.filter fun x => x.vec && f.absent x.r.toNat).map fun x => (x.r.toNat, x.wait)) ++
  ((dsts.filter fun x => x.vec && f.absent x.r.toNat && f.lanes &&& ~~~P != 0).map fun x => (x.r.toNat, true))

/-- The scalar registers among sources, by number and bank, with their wait bits. -/
def Ctx.scalarSrcs (c : Ctx) (srcs : List Src) : Tab Bool :=
  (srcs.filter fun x => !x.vec).map fun x => (scalarNo (c.bank x.r) x.r, x.wait)

/-- Notes what a fragment asks its parent for: absent registers (R195) and its scalar sources (R190). A refused
pull raises REG_EMPTY (R196). -/
def Ctx.fragAsk (c : Ctx) (f : Slot) (P : Mask) (srcs dsts : List Src) (scal : Bool) : Ready :=
  let need := f.toPull P srcs dsts
  match f.refused.filter fun r => need.any fun e => e.1 = r && !e.2 with
  | some r => .raise cRegEmpty r 0
  | none =>
    let wantS := scal && f.snap.isNone
    if need.isEmpty && !wantS then .go
    else
      let pulls := need.foldl (fun t e =>
        tset t e.1 (match tfind t e.1 with | some w => w || e.2 | none => e.2)) f.pulls
      let sreq := if wantS then some (c.scalarSrcs srcs) else f.sreq
      .hold ({ c with sp := { c.sp with home := .ncore { f with pulls := pulls, sreq := sreq } } }.put)

/-- A wait that goes on (R6): a fragment reads the warp's scalar side anew (R190). -/
def Ctx.hold (c : Ctx) : State :=
  match c.sp.home with
  | .wcore => c.s
  | .ncore f => { c with sp := { c.sp with home := .ncore { f with snap := none } } }.put

/-- A wait that goes on and is a stop point of a stopping block (R167, R249, R271, R332). -/
def Ctx.stall (c : Ctx) : State :=
  let s := c.hold
  { s with warps := tmod s.warps c.w fun W =>
      { W with splits := W.splits.map fun X => if X.id = c.sp.id then { X with stalled := true } else X } }

/-- A fragment whose scalar source is not FULL yet asks for it again (R190). -/
def Ctx.askAgain (c : Ctx) (srcs : List Src) : State :=
  match c.sp.home with
  | .wcore => c.s
  | .ncore f =>
    if srcs.any (fun x => !x.vec && c.srcWaits x) then
      { c with sp := { c.sp with home := .ncore { f with
          snap := none, sreq := some (c.scalarSrcs srcs) } } }.put
    else c.s

/-- Causes that an instruction meets of itself, with the sources that they need. -/
abbrev Early := List (List Src × (Ctx → List Met))

/-- R38: what an instruction meets: the causes of its sources, its own causes once every source is FULL, and of the early
ones those whose sources are. -/
def Ctx.meets (c : Ctx) (srcs : List Src) (extra : Ctx → List Met) (early : Early) : List Met :=
  let full := fun (xs : List Src) => xs.all fun x => c.srcState x == .full
  srcs.filterMap c.srcCause ++ (if full srcs then extra c else []) ++
    early.flatMap fun e => if full e.1 then e.2 c else []

/-- R51, R52, R113, R122: an instruction waits for its sources with wait, in turn, and its destinations; then the lowest of
the causes it meets is raised (R38). scal: it reads the warp's scalar side. -/
def Ctx.check (c : Ctx) (P : Mask) (srcs dsts : List Src) (scal : Bool) (extra : Ctx → List Met)
    (early : Early := []) : Ready :=
  let scal := scal || srcs.any fun x => !x.vec
  match (match c.sp.home with | .wcore => Ready.go | .ncore f => c.fragAsk f P srcs dsts scal) with
  | .hold s => .hold s
  | .raise a b e => .raise a b e
  | .go =>
    if c.waiting srcs || (!srcs.any (fun x => (c.srcCause x).isSome) && dsts.any c.dstWaits) then .hold (c.askAgain srcs)
    else
      match lowest (c.meets srcs extra early) with
      | some (a, b, e) => .raise a b e
      | none => .go

/-- A consuming read sets its shared register EMPTY (R169). -/
def Ctx.consume (c : Ctx) (srcs : List Src) : Ctx :=
  srcs.foldl (fun c x => if c.consuming x then { c with W := c.W.setVState x.r.toNat .empty } else c) c

/-! ## Issue -/

/-- No cause of the instruction's own. -/
def noCause (_ : Ctx) : List Met := []

/-- A V-set instruction with guard g (R53, R66, R113): k gets the lanes in which it acts. busy: what an instruction that finds
its queue full comes to, which is not eligible (R221). -/
def Ctx.vIssue (c : Ctx) (g : BitVec 3) (words : Nat) (srcs dsts : List Src) (extra : Ctx → List Met)
    (k : Ctx → Mask → State) (early : Early := []) (busy : Option State := none) : State :=
  let P := c.parts g
  if P = 0 then (c.advance words).finish false
  else if busy.isSome then busy.getD c.s
  else if c.sp.isLocal && decide (8 ≤ c.collectors) then c.s
  else
    match c.check P srcs dsts false extra early with
    | .hold s => s
    | .raise a b e => c.raiseAt a b e
    | .go =>
      k ((c.consume srcs).collect ((srcs.filter (·.vec)).map fun x => x.r.toNat)
        ((dsts.filter (·.vec)).map fun x => x.r.toNat)) P

/-- A U-set instruction with guard q (R53, R123); neg is the n bit of UB (R63); scal: it reads the warp's
scalar side beside its sources (R190). -/
def Ctx.uIssue (c : Ctx) (q : BitVec 3) (neg : Bool) (words : Nat) (scal : Bool) (srcs dsts : List Src)
    (extra : Ctx → List Met) (k : Ctx → State) (early : Early := []) (busy : Option State := none) : State :=
  match (if q = 7 then Ready.go else c.check 0 [] [] true noCause) with
  | .hold s => s
  | .raise a b e => c.raiseAt a b e
  | .go =>
    if c.qreg q == neg then (c.advance words).finish true
    else if busy.isSome then busy.getD c.s
    else
      match c.check 0 srcs dsts scal extra early with
      | .hold s => s
      | .raise a b e => c.raiseAt a b e
      | .go => k (c.consume srcs)

/-! ## The arithmetic forms -/

/-- A vector instruction that writes v[d] in each lane in which it acts, then goes on (R122). -/
def Ctx.vWrite (c : Ctx) (words : Nat) (d : BitVec 6) (P : Mask) (f : Nat → Word) : State :=
  ((c.setV d P f).advance words).finish false

/-- R122: VR arithmetic with two sources; readsD: d is a source that always waits. -/
def vArith (op : Word → Word → Word → Word) (readsD : Bool) (f : R3) (s : State) : Out :=
  run s fun c =>
    c.vIssue f.g (bWords f.b)
      (group true f.a 1 f.wA ++ bSrcs f.b true ++ (if readsD then group true f.d 1 true else []))
      (group true f.d 1 true) noCause fun c P =>
        c.vWrite (bWords f.b) f.d P fun l => op (c.v f.a l) (c.vB f.b l) (c.v f.d l)

/-- R122: VR arithmetic with one source. -/
def vArith1 (op : Word → Word) (f : R2) (s : State) : Out :=
  run s fun c =>
    c.vIssue f.g 1 (group true f.a 1 f.wA) (group true f.d 1 true) noCause fun c P =>
      c.vWrite 1 f.d P fun l => op (c.v f.a l)

/-- R127: 64-bit addresses; d and a name pairs. -/
def vLea (scale : Nat) (f : R3) (s : State) : Out :=
  run s fun c =>
    c.vIssue f.g (bWords f.b) (group true f.a 2 f.wA ++ bSrcs f.b true) (group true f.d 2 true) noCause fun c P =>
      ((c.setVPair f.d P fun l =>
        c.vPair f.a l + (c.vB f.b l).signExtend 64 * BitVec.ofNat 64 scale).advance (bWords f.b)).finish false

/-- R128, R132: a compare writes a lane predicate. -/
def vCmp (cond : BitVec 3 → Word → Word → Bool) (f : RCmp) (s : State) : Out :=
  run s fun c =>
    c.vIssue f.g (bWords f.b) (group true f.a 1 f.wA ++ bSrcs f.b true) [] noCause fun c P =>
      ((c.setP f.p P fun l => cond f.c (c.v f.a l) (c.vB f.b l)).advance (bWords f.b)).finish false

/-- R139: VF: three sources, unguarded, every field waits. -/
def vArith3 (op : Word → Word → Word → Word) (f : F4) (s : State) : Out :=
  run s fun c =>
    c.vIssue 7 1 (group true f.a 1 true ++ group true f.b 1 true ++ group true f.c 1 true) (group true f.d 1 true)
      noCause fun c P => c.vWrite 1 f.d P fun l => op (c.v f.a l) (c.v f.b l) (c.v f.c l)

/-- R143: VK: d := op(d, immediate). -/
def vArithK (op : Word → Word → Word) (imm : BitVec 20 → Word) (readsD : Bool) (f : K) (s : State) : Out :=
  run s fun c =>
    c.vIssue 7 1 (if readsD then group true f.d 1 true else []) (group true f.d 1 true) noCause fun c P =>
      c.vWrite 1 f.d P fun l => op (c.v f.d l) (imm f.i)

/-- imm20 as the top of an FP32 pattern (R64). -/
def immF (i : BitVec 20) : Word := i ++ 0#12
/-- imm20 sign-extended (R64). -/
def immN (i : BitVec 20) : Word := i.signExtend 32

/-- R123: UR arithmetic with two sources. -/
def sArith (op : Word → Word → Word) (f : R3) (s : State) : Out :=
  run s fun c =>
    c.uIssue f.g false (bWords f.b) false (group false f.a 1 f.wA ++ bSrcs f.b false) (group false f.d 1 true) noCause fun c =>
      ((c.setS f.d (op (c.sreg f.a) (c.sB f.b))).advance (bWords f.b)).finish true

/-- R123: UR arithmetic with one source. -/
def sArith1 (op : Word → Word) (f : R2) (s : State) : Out :=
  run s fun c =>
    c.uIssue f.g false 1 false (group false f.a 1 f.wA) (group false f.d 1 true) noCause fun c =>
      ((c.setS f.d (op (c.sreg f.a))).advance 1).finish true

/-- R144: UK: s[d] := op(s[d], immediate). -/
def sArithK (op : Word → Word → Word) (readsD : Bool) (f : K) (s : State) : Out :=
  run s fun c =>
    c.uIssue 7 false 1 false (if readsD then group false f.d 1 true else []) (group false f.d 1 true) noCause fun c =>
      ((c.setS f.d (op (c.sreg f.d) (immN f.i))).advance 1).finish true

end Sys2Proof.Machine
end

