-- ==== Sys2Proof/Machine/Addr.lean ====
section
/-! DEFINITION. Addresses: the classes of a generic address (R18), the local and RSP windows (R19, R20), CSM
references (R220), code targets (R71, R156), and the release and acquire sides of R314. -/

namespace Sys2Proof.Machine

/-- Start of the local window (R18). -/
def localBase : Nat := 0x1FFFF0000000000
/-- Start of the RSP window. -/
def rspBase : Nat := 0x1FFFE0000000000
/-- Start of the supervisor physical window. -/
def physBase : Nat := 0x1FF000000000000
/-- Start of the supervisor control window. -/
def ctrlBase : Nat := 0x1FF100000000000

/-- Size of a region scratchpad under a TCCFG value (R20, R345). -/
def rspSize (tccfg : Nat) : Nat := (8 - tccfg) * 2 ^ 23

/-- The block of a cluster group that resides on a logical core of the cluster (R19, R218). -/
def memberOn (s : State) (b core : Nat) : Option Block :=
  match tfind s.blocks b with
  | none => none
  | some B =>
    ((s.blocks.find? fun e =>
      e.2.group = B.group && e.2.resident && coreCluster e.2.core = coreCluster B.core && e.2.core % 4 = core).map
        (·.2))

/-- R19, R220: the bytes of a CSM reference of a block's warps, if it is in bounds: physical core and byte of its
slice. -/
def State.csmOf (s : State) (b ref n : Nat) : Option (Nat × Nat) :=
  if bits ref 31 22 != 0 || bits ref 19 18 != 0 || 2 ^ 32 ≤ ref then none
  else
    match memberOn s b (bits ref 21 20) with
    | none => none
    | some B => if bits ref 17 0 + n ≤ B.size then some (B.core, B.base + bits ref 17 0) else none

/-- The same for the issuing warp. -/
def Ctx.csmPlace (c : Ctx) (ref n : Nat) : Option (Nat × Nat) := c.s.csmOf c.W.block ref n

/-- R220: what a CSM reference of n bytes meets, aligned to a. -/
def Ctx.refCauses (c : Ctx) (ref n a : Nat) : List Met :=
  (if ref % a = 0 then [] else [(cMisalign, 0, localBase + ref)]) ++
  (if (c.csmPlace ref n).isSome then [] else [(cCsmBound, 0, localBase + ref)])

/-- Where a checked reference points. -/
def Ctx.csmAt (c : Ctx) (ref : Nat) : Nat × Nat := (c.csmPlace ref 0).getD (0, 0)

/-- R18-R20: where an access of n bytes at a generic address goes, or the cause it meets. -/
def Ctx.classOf (c : Ctx) (ea n : Nat) : Sum Target (Nat × Nat) :=
  if bits ea 63 57 != 0 then .inr (cProt, 0x01)
  else if ea < physBase then .inl .glob
  else if localBase ≤ ea then
    if bits (ea - localBase) 39 32 != 0 then .inr (cCsmBound, 0)
    else
      match c.csmPlace (ea - localBase) n with
      | some (core, b) => .inl (.csm core b)
      | none => .inr (cCsmBound, 0)
  else if rspBase ≤ ea then
    let o := ea - rspBase
    let p := c.s.warpPart c.W
    if bits o 39 31 != 0 || c.s.partRegions p ≤ bits o 30 26 || rspSize (c.s.part p).tccfg < bits o 25 0 + n then
      .inr (cProt, 0x01)
    else .inl (.rsp (p + bits o 30 26) (bits o 25 0))
  else if !c.sp.sup then .inr (cProt, 0x01)
  else if ea < ctrlBase then
    if (ea - physBase) / 0x800000000 < 24 && (ea - physBase) % 0x800000000 + n ≤ 0x773594000 then
      .inl (.phys (ea - physBase))
    else .inr (cProt, 0x01)
  else if ea < ctrlBase + 0x10000 then
    if n = 4 || n = 8 then .inl (.ctrl (ea - ctrlBase)) else .inr (cMisalign, 0)
  else .inr (cProt, 0x01)

/-- What an access of the supervisor handler to physical memory meets on its way (R412, R421), at issue (DEDUCED, log 98). -/
def Ctx.physCauses (c : Ctx) (pa n : Nat) (write : Bool) : List (Nat × Nat) :=
  let p := c.s.warpPart c.W
  let q := { feReq c.s p 0 with frm := some (coreRegion c.W.core) }
  match routeOf c.s q pa n write with
  | .own => if gateOpen c.s q ((paRegion pa).getD 0) then [] else [(cProt, 0x50)]
  | .refuse k => [(cProt, k)]
  | _ => []

/-- R223: the issue checks of one address; write: of a store or atomic. -/
def Ctx.eaCauses (c : Ctx) (ea n : Nat) (write : Bool := false) : List (Nat × Nat) :=
  (if ea % n = 0 then [] else [(cMisalign, 0)]) ++
  (match c.classOf ea n with | .inl (.phys pa) => c.physCauses pa n write | .inl _ => [] | .inr z => [z])

/-- The target of a checked address. -/
def Ctx.target (c : Ctx) (ea n : Nat) : Target :=
  match c.classOf ea n with
  | .inl t => t
  | .inr _ => .glob

/-- R71, R156: what a code offset meets as a target. -/
def Ctx.pcCauses (c : Ctx) (t : Word) : List Met :=
  (if t.toNat % 4 = 0 then [] else [(cMisalign, 0, t.toNat)]) ++
  (if t.toNat < c.image.codeLen then [] else [(cProt, 0x06, t.toNat)])

/-- An instruction that recalls a fragment first (R202). -/
def Ctx.atHome (c : Ctx) (k : Ctx → State) : State :=
  match c.sp.home with
  | .wcore => k c
  | .ncore f => { c with sp := { c.sp with home := .ncore { f with stage := .recalling } } }.put

/-! ## Release and acquire -/

/-- The store queue that the split's stores enter (R207, R221). -/
def Ctx.queue (c : Ctx) : List StoreE :=
  match c.sp.home with
  | .wcore => c.W.fifo
  | .ncore f => f.queue

/-- R222: every entry has left. -/
def Ctx.drained (c : Ctx) : Bool := c.queue.isEmpty

/-- An access that a cause holds: it waits for service or for a page to come from the host (R183, R443). -/
def Access.stuck (a : Access) : Bool := a.subs.any fun y => y.st = .xlate || y.st = .host

/-- An access that precedes the issuing split's next instruction: of the local splits, or of the fragment itself and of its
threads before the export (R14). -/
def Ctx.mine (c : Ctx) (a : Access) : Bool :=
  a.warp = c.w &&
    (if c.sp.isLocal then !a.frag else (a.frag && a.split = c.sp.id) || a.threads &&& c.sp.mask != 0)

/-- R27, R28, R30: the store queue is empty and the earlier accesses are performed; the supervisor handler does not wait for
those whose cause it services. -/
def Ctx.settled (c : Ctx) : Bool := c.drained && !(c.s.accs.any fun e => c.mine e.2 && !(c.sp.sup && e.2.stuck))

/-- R314 item 3 for a warp whose release happens now: open writes already performed count in OWC; those still on
their way count when they are performed. -/
def releaseOf (s : State) (w : Nat) (W : Warp) : State × Warp :=
  let p := s.warpPart W
  let s := if W.openDirty then s.addOwc p else s
  ({ s with accs := tmap s.accs fun _ a => if a.warp = w then { a with released := true } else a },
   { W with openDirty := false })

/-- A release by the issuing split. -/
def Ctx.release (c : Ctx) : Ctx :=
  let r := releaseOf c.s c.w c.W
  { c with s := r.1, W := r.2 }

/-- A cluster's L1 is invalidated (R220). -/
def State.dropL1 (s : State) (cl : Nat) : State := s.setCluster cl { s.cluster cl with l1 := [] }

/-- An acquire by the issuing split at a scope (R220, R314 item 4). -/
def Ctx.acquire (c : Ctx) (scope : Nat) : Ctx :=
  let W := { c.W with floor := (c.s.part (c.s.warpPart c.W)).owc }
  { c with s := if 3 ≤ scope then c.s.dropL1 (coreCluster c.W.core) else c.s, W := W }

/-- R434: what lies outside the tile cache of a region wakes it: its scratchpad, or its physical memory. -/
def State.wakeTarget (s : State) (t : Target) : State :=
  match t with
  | .rsp r _ => s.wakeRegion r
  | .phys pa => match paRegion pa with | some r => s.wakeRegion r | none => s
  | _ => s

/-- Outstanding accesses of a warp. -/
def State.warpAccs (s : State) (w : Nat) : List (Nat × Access) := s.accs.filter fun e => e.2.warp = w

end Sys2Proof.Machine
end

