-- ==== Sys2Proof/Machine/Sync.lean ====
section
/-! DEFINITION. Block and cluster barriers (R238-R240, R206), fences (R241) and transaction barriers
(R242-R247). -/

namespace Sys2Proof.Machine

/-! ## Barriers -/

/-- Whether every thread of a warp is marked arrived or has exited. -/
def Warp.allAt (W : Warp) (cl : Bool) : Bool :=
  ((if cl then W.cbarArr else W.barArr) ||| W.exited) &&& W.covered = W.covered

/-- Local splits that wait at a barrier phase go on at the next instruction; a split in the supervisor handler
does not wait again after its return (R180). -/
def Warp.passBarrier (W : Warp) (at_ : Wait → Bool) : Warp :=
  let here := W.splits.filter fun X => X.isLocal && at_ X.wait
  let sup := W.splits.any fun X => X.isLocal && X.sup && at_ X.savedWait
  let csr := W.sc.csr
  let usr := W.splits.any fun X => match X.trapWait with | some (x, pc) => at_ x && pc == csr.trappc | none => false
  let W := { W with
    sc := { W.sc with csr := { csr with
      strappc := if sup then csr.strappc + 4 else csr.strappc
      trappc := if usr then csr.trappc + 4 else csr.trappc } }
    splits := W.splits.map fun X =>
      let X := match X.trapWait with
        | some (x, _) => if at_ x then { X with trapWait := none } else X
        | none => X
      if X.isLocal && at_ X.wait then { X with wait := .none, pc := X.pc + 4 }
      else if X.isLocal && X.sup && at_ X.savedWait then { X with savedWait := .none }
      else X }
  here.foldl (fun W X => W.settle settleFuel X.id) W

/-- What a WQWAIT that has been woken is to write: the register, of a bank, and its value (R392). -/
def Wait.done (x : Wait) : Option ((Bool × Nat) × Word) := match x with | .wqDone d v => some (d, v) | _ => Option.none

/-- A woken WQWAIT of split X writes its register (R190, R392). -/
def Warp.writeDone (W : Warp) (X : Split) (x : Wait) : Warp :=
  match x.done with
  | none => W
  | some (d, v) =>
    let r := BitVec.ofNat 6 d.2
    if r = 63 then W
    else if X.isLocal then { W with sc := W.sc.write d.1 r v .full }
    else { W with swrites := W.swrites ++ [.reg (scalarNo d.1 r) v .full] }

/-- The splits of a warp whose WQWAIT has been woken write their registers and go on behind it (R392): at once, or once they
return from a handler. -/
def Warp.passDone (W : Warp) : Warp :=
  let at_ := fun (x : Wait) => x.done.isSome
  let here := W.splits.filter fun X => at_ X.wait
  let W := W.splits.foldl (fun W X =>
    let W := (W.writeDone X X.wait).writeDone X (if X.sup then X.savedWait else .none)
    match X.trapWait with | some (x, _) => W.writeDone X x | none => W) W
  let csr := W.sc.csr
  let sup := W.splits.any fun X => X.sup && at_ X.savedWait
  let usr := W.splits.any fun X => match X.trapWait with | some (x, pc) => at_ x && pc == csr.trappc | none => false
  let W := { W with
    sc := { W.sc with csr := { csr with
      strappc := if sup then csr.strappc + 4 else csr.strappc
      trappc := if usr then csr.trappc + 4 else csr.trappc } }
    splits := W.splits.map fun X =>
      let X := match X.trapWait with
        | some (x, _) => if at_ x then { X with trapWait := none } else X
        | none => X
      if at_ X.wait then { X with wait := .none, pc := X.pc + 4 }
      else if X.sup && at_ X.savedWait then { X with savedWait := .none }
      else X }
  here.foldl (fun W X => W.settle settleFuel X.id) W

/-- The warps of blocks. -/
def State.warpsOf (s : State) (bs : List Nat) : List Nat :=
  bs.flatMap fun b => ((tfind s.blocks b).map (·.warps)).getD []

/-- The warps that a barrier counts: of the block, or of its group (R238). -/
def State.barWarps (s : State) (b : Nat) (cl : Bool) : List Nat :=
  if cl then
    match (tfind s.blocks b).bind fun B => tfind s.groups B.group with
    | none => []
    | some g => s.warpsOf g.blocks
  else s.warpsOf [b]

/-- The phase of a barrier. -/
def State.barPhase (s : State) (b : Nat) (cl : Bool) : Nat :=
  match tfind s.blocks b with
  | none => 0
  | some B => if cl then ((tfind s.groups B.group).map (·.barPhase)).getD 0 else B.barPhase

/-- Lanes marked arrived. -/
def Warp.marks (W : Warp) (cl : Bool) : Mask := if cl then W.cbarArr else W.barArr

/-- A barrier's wait of one phase. -/
def barWait (cl joins : Bool) (ph : Nat) : Wait := if cl then .cbar ph else if joins then .barw ph else .bar ph

/-- A wait for one phase of a barrier. -/
def atBar (cl : Bool) (ph : Nat) (x : Wait) : Bool := x = barWait cl true ph || x = barWait cl false ph

/-- The lanes of local splits that arrive at the next phase once this one completes (R239). -/
def Warp.restOf (W : Warp) (cl : Bool) (ph : Nat) : Mask :=
  W.locals.foldl (fun m X =>
    [X.wait, X.savedWait, (X.trapWait.map (·.1)).getD .none].foldl (fun m x =>
      match x with
      | .barRest k _ p rest => if k = cl && p = ph then m ||| rest else m
      | _ => m) m) 0

/-- What a wait with such lanes becomes when the phase completes: at the next phase, or one that ends with it. -/
def Wait.rested (cl : Bool) (ph : Nat) (x : Wait) : Wait :=
  match x with
  | .barRest k stay p rest =>
    if k = cl && p = ph then barWait cl false (if stay then ph + 1 else ph) else .barRest k stay p rest
  | x => x

/-- The same for the local splits of a warp, wherever they keep the wait. -/
def Warp.rested (W : Warp) (cl : Bool) (ph : Nat) : Warp :=
  { W with splits := W.splits.map fun X =>
      if X.isLocal then
        { X with wait := X.wait.rested cl ph, savedWait := X.savedWait.rested cl ph
                 trapWait := X.trapWait.map fun z => (z.1.rested cl ph, z.2) }
      else X }

/-- R238: a barrier completes once every participant has arrived or exited: marks clear, the phase advances, the
local splits that wait go on, each warp acquires, and lanes that waited to arrive again do (R239). -/
def State.barStep (s : State) (b : Nat) (cl : Bool) : State :=
  let ws := (s.barWarps b cl).filterMap (tfind s.warps ·)
  let marked := ws.any fun W => (if cl then W.cbarArr else W.barArr) != 0
  if marked && ws.all (·.allAt cl) then
    let ph := s.barPhase b cl
    let s := (s.barWarps b cl).foldl (fun s w =>
      { s with warps := tmod s.warps w fun W =>
          let rest := W.restOf cl ph &&& ~~~W.exited
          { ((W.rested cl ph).passBarrier (atBar cl ph)) with
            barArr := if cl then W.barArr else rest, cbarArr := if cl then rest else W.cbarArr,
            floor := (s.part (s.warpPart W)).owc } }) s
    if cl then
      match tfind s.blocks b with
      | none => s
      | some B => { s with groups := tmod s.groups B.group fun g => { g with barPhase := ph + 1 } }
    else { s with blocks := tmod s.blocks b fun B => { B with barPhase := ph + 1 } }
  else s

/-- The barrier completes, and again if the lanes that then arrive are all it waits for. -/
def State.barCheck (s : State) (b : Nat) (cl : Bool) : State :=
  let t := s.barStep b cl
  if (t.barWarps b cl).any fun w => ((tfind t.warps w).map fun W => W.marks cl != 0).getD false then t.barStep b cl else t

/-! ## The join point (R362) -/

/-- The blocks of a block's cluster group that have not ended (R363). -/
def State.members (s : State) (b : Nat) : List Nat :=
  match tfind s.blocks b with
  | none => []
  | some B =>
    (((tfind s.groups B.group).map (·.blocks)).getD [b]).filter fun k =>
      ((tfind s.blocks k).map fun K => !K.ended).getD false

/-- A stop that lasts only while its condition holds: it gives way to one that was asked for (R237, R362, R363). -/
def StopWhy.bare (why : StopWhy) : Bool := why = .join || why = .waitWord

/-- R363: a stop is requested for a block's whole group; a requested stop keeps its reason, unless it was JOIN or WAIT. -/
def State.requestStop (s : State) (b : Nat) (why : StopWhy) : State :=
  (s.members b).foldl (fun s k => { s with blocks := tmod s.blocks k fun B =>
    if B.saved then B
    else match B.stop with
      | none => { B with stop := some why, escalated := false }
      | some old => if old.bare && !why.bare then { B with stop := some why } else B }) s

/-- The stop of a group whose condition has passed is withdrawn (R363). -/
def State.withdraw (s : State) (b : Nat) (why : StopWhy) : State :=
  let clear := fun (B : Block) => if !B.saved && B.stop = some why then { B with stop := none } else B
  (s.members b).foldl (fun s k => { s with blocks := tmod s.blocks k clear }) s

/-- A wait at the join point. -/
def atJoinPoint (x : Wait) : Bool := match x with | .joinPoint _ => true | _ => false

/-- The destinations of a warp's JOINs that wait. -/
def Warp.joinDsts (W : Warp) : List Nat :=
  (W.splits.flatMap fun X => [X.wait, X.savedWait, (X.trapWait.map (·.1)).getD .none]).filterMap fun x =>
    match x with | .joinPoint d => some d | _ => none

/-- What JOIN writes: a bit for each slot whose last child ended otherwise than OK. -/
def Block.joinWord (B : Block) : Word :=
  maskOf fun i => match tfind B.children i with | some c => !c.busy && c.last != 0 | none => false

/-- The warps of a block go on after a JOIN. -/
def State.joinPass (s : State) (b : Nat) : State :=
  match tfind s.blocks b with
  | none => s
  | some B =>
    let s := B.warps.foldl (fun s w => { s with warps := tmod s.warps w fun W =>
      let sc := W.joinDsts.foldl (fun q d => q.write false (BitVec.ofNat 6 d) B.joinWord .full) W.sc
      { ({ W with sc := sc }.passBarrier atJoinPoint) with floor := (s.part (s.warpPart W)).owc } }) s
    { s with blocks := tmod s.blocks b fun B =>
      { B with joinMask := 0, joinArr := [], stop := if B.stop = some .join then none else B.stop } }

/-- The join point of blocks that run is complete: every live thread stands at a JOIN. -/
def State.joinStands (s : State) (bs : List Block) : Bool :=
  let arrived := fun (B : Block) => B.warps.all fun w =>
    match tfind s.warps w with
    | none => true
    | some W => (tget 0 B.joinArr w ||| W.exited) &&& W.covered = W.covered
  bs.any (fun B => !B.joinArr.isEmpty) && bs.all fun B => arrived B && B.resident && !B.saved

/-- A slot that the JOINs of blocks name is busy. -/
def joinBusy (bs : List Block) : Bool :=
  let named := bs.foldl (fun m B => m ||| B.joinMask) 0
  bs.any fun B => (lanesOf named).any fun i => ((tfind B.children i).map (·.busy)).getD false

/-- R362: once every live thread of the block, or group, stands at a JOIN: it goes on if no named slot is busy, else
it stops. -/
def State.joinCheck (s : State) (b : Nat) : State :=
  let bs := (s.members b).filterMap (tfind s.blocks ·)
  if s.joinStands bs then
    if joinBusy bs then s.requestStop b .join else (s.members b).foldl State.joinPass s
  else s

/-- Both barriers of a block, and its join point. -/
def State.barriers (s : State) (b : Nat) : State := ((s.barCheck b false).barCheck b true).joinCheck b

/-- Marks lanes arrived. -/
def Warp.mark (W : Warp) (cl : Bool) (m : Mask) : Warp :=
  if cl then { W with cbarArr := W.cbarArr ||| m } else { W with barArr := W.barArr ||| m }

/-- R238, R239, R206: a barrier instruction. cl: the cluster barrier; wait: it waits for completion; joins: lanes
already marked only wait; else, where some are, the others arrive and these wait for the completion and arrive then. The
earlier accesses are performed first (R28). -/
def barIssue (cl wait joins : Bool) (f : G) (s : State) : Out :=
  run s fun c =>
    c.uIssue f.g false 1 false [] [] noCause fun c =>
      let marked := c.W.marks cl &&& c.sp.mask
      let busy := match c.sp.home with | .wcore => false | .ncore q => q.barReq.isSome
      let m := c.sp.mask &&& ~~~marked
      if !c.settled || busy || (!joins && marked != 0 && m = 0) then c.hold
      else
        let c := c.release
        let ph := c.s.barPhase c.W.block cl
        let c := match c.sp.home with
          | .wcore => { c with W := c.W.mark cl m }
          | .ncore q =>
            if m = 0 then c else { c with sp := { c.sp with home := .ncore { q with barReq := some (cl, m) } } }
        let c :=
          if !joins && marked != 0 then { c with sp := { c.sp with wait := .barRest cl wait ph marked } }
          else if wait then { c with sp := { c.sp with wait := barWait cl joins ph } } else c.advance 1
        (c.finish true).barCheck c.W.block cl

/-- BAR (R238): arrives at the block barrier and waits for the completion of that phase. -/
def execBar (f : G) (s : State) : Out := barIssue false true false f s
/-- BARA (R238): arrives at the block barrier and goes on. -/
def execBara (f : G) (s : State) : Out := barIssue false false false f s
/-- BARW (R238): waits at the block barrier; lanes not marked arrive. -/
def execBarw (f : G) (s : State) : Out := barIssue false true true f s
/-- CBARA (R238): arrives at the cluster barrier and goes on. -/
def execCbara (f : G) (s : State) : Out := barIssue true false false f s
/-- CBARW (R238): waits at the cluster barrier; lanes not marked arrive. -/
def execCbarw (f : G) (s : State) : Out := barIssue true true true f s

/-! ## Fences -/

/-- R27, R241: a fence; rel and acq say which sides it has, eng that it waits for earlier engine operations. -/
def fenceIssue (rel acq eng : Bool) (f : Sc) (s : State) : Out :=
  run s fun c =>
    c.uIssue 7 false 1 false [] [] noCause fun c =>
      if !c.settled || (eng && c.s.ops.any fun o => o.2.warp = c.w) then c.hold
      else
        let c := if rel then c.release else c
        let p := c.s.warpPart c.W
        let c := if rel && c.s.farScope p f.s.toNat then { c with s := c.s.sendTokens p c.W.sc.csr.princ } else c
        let c := if acq then c.acquire f.s.toNat else c
        (c.advance 1).finish true

/-- FENCE ACQ (R27). -/
def execFenceAcq (f : Sc) (s : State) : Out := fenceIssue false true false f s
/-- FENCE REL (R27). -/
def execFenceRel (f : Sc) (s : State) : Out := fenceIssue true false false f s
/-- FENCE AR (R27). -/
def execFenceAr (f : Sc) (s : State) : Out := fenceIssue true true false f s
/-- FENCE ENG (R27, R241). -/
def execFenceEng (f : Sc) (s : State) : Out := fenceIssue true true true f s

/-! ## Transaction barriers -/

/-- A granule of a slice as a number. -/
def State.granule (s : State) (core b : Nat) : Nat := leNat (s.csmRead core b 16)

/-- R247: a reserved bit is set. -/
def tbBad (g : Nat) : Bool := bits g 127 84 != 0 || bits g 63 56 != 0 || bits g 31 28 != 0

/-- SECTORS, signed (R242). -/
def tbSectors (g : Nat) : Int := (BitVec.ofNat 24 (bits g 55 32)).toInt

/-- A barrier with these fields (R242). -/
def tbPack (reload : Nat) (sectors : Int) (arrivals tag phase : Nat) : Nat :=
  reload * 2 ^ 64 + (BitVec.ofInt 24 sectors).toNat * 2 ^ 32 + arrivals * 2 ^ 8 + tag * 2 ^ 4 + phase

/-- R243: after an arrival or a sector decrement. -/
def tbEval (g : Nat) : Nat :=
  if bits g 27 8 = 0 && tbSectors g = 0 then
    tbPack (bits g 83 64) 0 (bits g 83 64) (bits g 7 4) ((bits g 3 0 + 1) % 16)
  else g

/-- Adds to SECTORS and takes arrivals, then evaluates (R243). -/
def tbStep (g arrive : Nat) (sectors : Int) : Nat :=
  tbEval (tbPack (bits g 83 64) (tbSectors g + sectors) (bits g 27 8 - arrive) (bits g 7 4) (bits g 3 0))

/-- TAG set to a value; the other bits stay as they stand. -/
def tbTag (g tag : Nat) : Nat := g - bits g 7 4 * 16 + tag * 16

/-- R253: the tag that a copy leaves. -/
def tbCopyTag (g swz : Nat) : Nat := tbTag g (if bits g 7 4 = 0 || bits g 7 4 = swz + 1 then swz + 1 else 15)

/-- R253: one unit delivered: a decrement, or a poisoned barrier. The other bits stay as they stand. -/
def tbUnit (g : Nat) : Nat :=
  if tbBad g || tbSectors g ≤ -0x800000 then tbTag g 15 else tbStep g 0 (-1)

/-- Writes a granule. -/
def State.putGranule (s : State) (at_ : Nat × Nat) (g : Nat) : State := s.csmWrite at_.1 at_.2 (leBytes 16 g)

/-- Whether a sum of sectors keeps the field's range (R247). -/
def tbInRange (x : Int) : Bool := decide (-0x800000 ≤ x) && decide (x ≤ 0x7FFFFF)

/-- What a reference to a barrier meets, and, if it meets nothing, what the granule g there does. -/
def Ctx.tbCauses (c : Ctx) (ref : Nat) (bad : Nat → Bool) : List Met :=
  match c.refCauses ref 16 16 with
  | [] => let p := c.csmAt ref; if bad (c.s.granule p.1 p.2) then [(cProt, 0x12, 0)] else []
  | zs => zs

/-- TBINIT (R244). -/
def execTbinit (f : TbOps) (s : State) : Out :=
  run s fun c =>
    c.uIssue f.g false (bWords f.b) false (group false f.a 1 f.wA ++ bSrcs f.b false) []
      (fun c => c.tbCauses (c.sreg f.a).toNat fun _ => bits (c.sB f.b).toNat 19 0 = 0) fun c =>
        let n := bits (c.sB f.b).toNat 19 0
        let s := c.s.putGranule (c.csmAt (c.sreg f.a).toNat) (tbPack n 0 n 0 0)
        (({ c with s := s }).advance (bWords f.b)).finish true

/-- TBARV (R245). -/
def execTbarv (f : R3) (s : State) : Out :=
  run s fun c =>
    c.uIssue f.g false (bWords f.b) false (group false f.a 1 f.wA ++ bSrcs f.b false) (group false f.d 1 true)
      (fun c => c.tbCauses (c.sreg f.a).toNat fun g =>
        tbBad g || bits g 27 8 = 0 || !tbInRange (c.sB f.b).toInt || !tbInRange (tbSectors g + (c.sB f.b).toInt))
      fun c =>
        let p := c.csmAt (c.sreg f.a).toNat
        let g := c.s.granule p.1 p.2
        let s := c.s.putGranule p (tbStep g 1 (c.sB f.b).toInt)
        ((({ c with s := s }).setS f.d (BitVec.ofNat 32 (bits g 3 0))).advance (bWords f.b)).finish true

/-- TBWAIT (R246): it waits until PHASE differs; seeing it is a join edge (R30). -/
def execTbwait (f : TbOps) (s : State) : Out :=
  run s fun c =>
    c.uIssue f.g false (bWords f.b) false (group false f.a 1 f.wA ++ bSrcs f.b false) []
      (fun c => c.tbCauses (c.sreg f.a).toNat tbBad) fun c =>
        let p := c.csmAt (c.sreg f.a).toNat
        if bits (c.s.granule p.1 p.2) 3 0 = bits (c.sB f.b).toNat 3 0 then c.hold
        else ((c.acquire 4).advance (bWords f.b)).finish true

end Sys2Proof.Machine
end

