-- ==== Sys2Proof/Machine/Control.lean ====
section
/-! DEFINITION. Control flow of splits: divergence (R150-R158, R192-R194), branches (R159), EXIT (R154), traps and
returns (R178, R179, R183), YIELD (R184), and access to CSRs (R54-R57, R164, R173, R174). -/

namespace Sys2Proof.Machine

/-- Writes the PC of the issuing split. -/
def Ctx.jump (c : Ctx) (t : Word) : Ctx := { c with sp := { c.sp with pc := t } }

/-- A word offset from the instruction at PC (R58). -/
def Ctx.rel (c : Ctx) (o : Word) : Word := c.sp.pc + 4 * o

/-! ## Reconvergence stack -/

/-- R151, R201: a push would need a 65th entry of a local split. -/
def Ctx.spillFull (c : Ctx) : Bool := c.sp.isLocal && decide (64 ≤ c.sp.stack.length)

/-- R201: a push would need a ninth entry of a fragment. -/
def Ctx.slotFull (c : Ctx) : Bool := !c.sp.isLocal && decide (8 ≤ c.sp.stack.length)

/-- Address of a warp's area in the save pool (R367). -/
def State.warpArea (s : State) (W : Warp) : Nat :=
  (s.part (s.warpPart W)).lsavepa.toNat + 1024 * W.sc.csr.savebase.toNat

/-- Bytes of a warp area (R367). -/
def areaBytes : Nat := 0x4400

/-- R463: a warp's area lies where there is memory. -/
def State.areaIn (s : State) (W : Warp) : Bool := paInside (s.warpArea W) areaBytes

/-- A stack entry's 32 bytes (R369). -/
def StackE.bytes : StackE → List Byte
  | .call r => leBytes 4 1 ++ leBytes 4 r.toNat ++ List.replicate 24 0
  | .join e =>
    let d := e.defer.getD (0, 0)
    leBytes 4 ((if e.defer.isSome then 2 else 0) + e.joins % 256 * 2 ^ 8) ++ leBytes 4 e.j.toNat ++
      leBytes 4 e.mask.toNat ++ leBytes 4 e.arrived.toNat ++ leBytes 4 e.fmt.toNat ++ leBytes 4 d.1.toNat ++
      leBytes 4 d.2.toNat ++ leBytes 4 0

/-- A push (R151). The ninth entry from the top of a local split's stack leaves the chip for the split's spill area (R368);
a pop brings it back from there, and an area where nothing is faults (followSpill). -/
def Ctx.push (c : Ctx) (e : StackE) : Ctx :=
  let st := e :: c.sp.stack
  let s :=
    match st[8]? with
    | some x =>
      if c.sp.isLocal && c.s.areaIn c.W then
        let a := c.s.warpArea c.W + 0x2800 + 1792 * c.sp.id + 32 * (st.length - 9)
        { c.s with mem := Memory.writeN c.s.mem a x.bytes }
      else c.s
    | none => c.s
  { c with s := s, sp := { c.sp with stack := st } }

/-- The cause of a push (R151). -/
def Ctx.pushCauses (c : Ctx) : List Met := if c.spillFull then [(cSpill, 0, 0)] else []

/-- Recalls a fragment whose stack is full before a push, else goes on (R201). -/
def Ctx.pushing (c : Ctx) (k : Ctx → State) : State := if c.slotFull then c.atHome k else k c

/-- The return offset at the top of the stack, if a call entry stands there (R159). -/
def Ctx.topCall (c : Ctx) : Option Word :=
  if c.sp.sup && c.sp.stack.length ≤ c.sp.supBase then none
  else
    match c.sp.stack with
    | .call r :: _ => some r
    | _ => none

/-! ## Division (R152) -/

/-- R192: the N-core slot for a fragment: that of the same logical number first, then the lowest. -/
def Ctx.freeSlot (c : Ctx) : Option (Nat × Nat) :=
  let cl := coreCluster c.W.core
  ((c.W.core :: (List.range 4).map (4 * cl + ·)).findSome? fun n =>
    ((List.range 16).find? fun i => !(c.s.core n).nslots.contains i).map fun i => (n, i))

/-- The slot of a new fragment (R193, R194). Its CYCLEH latch starts at 0 (DESIGN CHOICE, log 86). -/
def Ctx.newSlot (c : Ctx) (n i : Nat) (m : Mask) : Slot :=
  { ncore := n, slot := i, stage := .exporting, lanes := m, present := 0, dirty := 0, vst := [], v := [],
    p := tmap c.W.p fun _ x => x &&& m, pDirty := 0, pending := 0x7FFFFFFFFFFFFFFF, pulls := [], xfers := [],
    refused := none, sreq := none, snap := none, barReq := none, hintdrop := 0, cycleh := 0, queue := [],
    older := c.W.fifo.length, last := 0 }

/-- The issuing split runs the user handler, or is one that the handler made (R177). -/
def Ctx.inHandler (c : Ctx) : Bool :=
  c.W.sc.csr.inh && !c.sp.sup && (c.sp.usrChild || (c.sp.isLocal && c.sp.id == c.W.sc.csr.trapSplit))

/-- R150, R152: a split for the second path. -/
def Ctx.newSplit (c : Ctx) (id : Nat) (pc : Word) (m : Mask) (e : Nat) (home : Home) : Split :=
  { id := id, uid := c.W.nextAge, age := c.W.nextAge, pc := pc, mask := m, fmt := c.sp.fmt, stack := [], link := some e, wait := .none,
    sup := c.sp.sup, supBase := 0, savedWait := .none, trapWait := none, service := false, supChild := c.sp.sup, usrChild := c.inHandler, taken := [], kept := [],
    cwant := none, cheld := false, cuse := none, stalled := false, ibuf := [], home := home }

/-- R152: divides the issuing split; x: the second path may be exported (R157, R192, R200). A second path that starts at
the rejoin offset arrives at once and ends (R153). -/
def Ctx.divide (c : Ctx) (j : Word) (first second : Word × Mask) (x : Bool) : Ctx :=
  let id := c.W.nextJoin
  let e : JoinE := { id := id, j := j, mask := c.sp.mask, arrived := 0, fmt := c.sp.fmt, defer := none, joins := 0 }
  let split := fun (e : JoinE) (c : Ctx) =>
    let c := c.push (.join e)
    { c with W := { c.W with nextJoin := id + 1 }, sp := { c.sp with pc := first.1, mask := first.2 } }
  let free := if c.sp.isLocal then c.W.freeId else none
  match free with
  | none => split { e with defer := some second } c
  | some k =>
    let add := fun (c : Ctx) (X : Split) => { c with W := { c.W with splits := c.W.splits ++ [X], nextAge := c.W.nextAge + 1 } }
    let slot := if x && decide (laneCount second.2 ≤ c.W.sc.csr.exthr.toNat) then c.freeSlot else none
    match slot with
    | some (n, i) =>
      let N := c.s.core n
      let c := add c (c.newSplit k second.1 second.2 id (.ncore (c.newSlot n i second.2)))
      split { e with joins := 1 } { c with s := c.s.setCore n { N with nslots := i :: N.nslots } }
    | none =>
      if second.1 = j then split { e with arrived := second.2 } { c with W := { c.W with nextAge := c.W.nextAge + 1 } }
      else split e (add c (c.newSplit k second.1 second.2 id .wcore))

/-! ## Branches -/

/-- BRD (R157). DEDUCED (log 55): with an empty mask (R465, R180) no lane takes it and it falls through. -/
def execBrd (f : BrdOps) (s : State) : Out :=
  run s fun c =>
    let tgt := c.rel (f.t.signExtend 32)
    let j := c.rel f.j
    let fall := c.sp.pc + 8
    let T := c.sp.mask &&& (if f.n then ~~~(c.pmask f.p) else c.pmask f.p)
    let F := c.sp.mask &&& ~~~T
    let divides := T != 0 && F != 0
    if c.sp.mask = 0 then (c.jump fall).finish false
    else
      c.vIssue 7 2 [] [] (fun c => c.pcCauses tgt ++ c.pcCauses j ++ (if divides then c.pushCauses else []))
        fun c _ =>
          if T = c.sp.mask then (c.jump tgt).finish false
          else if T = 0 then (c.jump fall).finish false
          else
            c.pushing fun c =>
              let o := f.t.toInt
              (if -16 ≤ o && o ≤ -1 then c.divide j (tgt, T) (fall, F) f.x
               else c.divide j (fall, F) (tgt, T) f.x).finish false

/-- JMPV (R158). -/
def execJmpv (f : JmpV) (s : State) : Out :=
  run s fun c =>
    let l0 := (lanesOf c.sp.mask).headD 0
    let group' := fun (c : Ctx) => maskOf fun l => c.sp.mask.getLsbD l && c.v f.a l == c.v f.a l0
    c.vIssue 7 (bWords f.b) (group true f.a 1 f.wA ++ bSrcs f.b true) []
      (fun c => c.pcCauses (c.v f.a l0) ++ c.pcCauses (c.vB f.b l0) ++
        (if group' c = c.sp.mask then [] else c.pushCauses))
      fun c _ =>
        let M := group' c
        if M = c.sp.mask then (c.jump (c.v f.a l0)).finish false
        else
          c.pushing fun c =>
            (c.divide (c.vB f.b l0) (c.v f.a l0, M) (c.sp.pc, c.sp.mask &&& ~~~M) false).finish false

/-- BRA (R159). -/
def execBra (f : UB) (s : State) : Out :=
  run s fun c =>
    let t := c.rel (f.o.signExtend 32)
    c.uIssue f.g f.n 1 false [] [] (fun c => c.pcCauses t) fun c => (c.jump t).finish true

/-- JMP (R159). -/
def execJmp (f : R1) (s : State) : Out :=
  run s fun c =>
    c.uIssue f.g false 1 false (group false f.a 1 f.wA) [] (fun c => c.pcCauses (c.sreg f.a)) fun c =>
      (c.jump (c.sreg f.a)).finish true

/-- Pushes a call entry (R151, R159). -/
def Ctx.pushCall (c : Ctx) : Ctx := c.push (.call (c.sp.pc + 4))

/-- CALL (R159). -/
def execCall (f : UB) (s : State) : Out :=
  run s fun c =>
    let t := c.rel (f.o.signExtend 32)
    c.uIssue f.g f.n 1 false [] [] (fun c => c.pcCauses t ++ c.pushCauses) fun c =>
      c.pushing fun c => (c.pushCall.jump t).finish true

/-- CALLR (R159). -/
def execCallr (f : R1) (s : State) : Out :=
  run s fun c =>
    c.uIssue f.g false 1 false (group false f.a 1 f.wA) [] (fun c => c.pcCauses (c.sreg f.a) ++ c.pushCauses)
      (early := [([], fun c => c.pushCauses)])
      (k := fun c => c.pushing fun c => (c.pushCall.jump (c.sreg f.a)).finish true)

/-- RET (R159). -/
def execRet (f : G) (s : State) : Out :=
  run s fun c =>
    c.uIssue f.g false 1 false [] []
      (fun c => match c.topCall with | none => [(cProt, 0x03, 0)] | some r => c.pcCauses r) fun c =>
        (({ c with sp := { c.sp with stack := c.sp.stack.tail } }).jump (c.topCall.getD 0)).finish true

/-- LOOP (R159): sz reads zero and always branches. -/
def execLoop (f : LoopOps) (s : State) : Out :=
  run s fun c =>
    let t := c.rel f.o
    c.uIssue f.g false 2 false (group false f.d 1 true) []
      (fun c => if c.sreg f.d - 1 = 0 then [] else c.pcCauses t) fun c =>
        let v := c.sreg f.d - 1
        let c := c.setS f.d v
        (if v = 0 then c.advance 2 else c.jump t).finish true

/-- NOP (R159). -/
def execNop (f : G) (s : State) : Out :=
  run s fun c => c.uIssue f.g false 1 false [] [] noCause fun c => (c.advance 1).finish true

/-- SLEEP (R159): at least 1 cycle, at most 2^24. -/
def execSleep (f : SleepOps) (s : State) : Out :=
  run s fun c =>
    c.uIssue f.g false (bWords f.b) false (bSrcs f.b false) [] noCause fun c =>
      let n := max 1 (min (c.sB f.b).toNat 0x1000000)
      let c := c.advance (bWords f.b)
      ({ c with sp := { c.sp with wait := .sleep n } }).finish true

/-- R168: a warp whose every thread has exited ends its mapping. -/
def State.unshareEnded (s : State) (w : Nat) : State :=
  match tfind s.warps w with
  | none => s
  | some W => if W.exited &&& W.covered = W.covered then s.unshare w else s

/-- EXIT (R154): every lane of the mask exits; in supervisor mode the cause that was being serviced waits for
another split (R180). -/
def execExit (f : G) (s : State) : Out :=
  run s fun c =>
    c.uIssue f.g false 1 false [] [] noCause fun c =>
      let b := c.W.block
      let W := { c.W with exited := c.W.exited ||| c.sp.mask }
      let W := if c.sp.sup && !c.sp.supChild then
        { W with supNow := none, supQ := (match W.supNow with | some z => [z] | none => []) ++ W.supQ } else W
      let sp := { c.sp with mask := 0, sup := false, service := false, savedWait := .none, trapWait := none,
                            stack := dropCalls c.sp.stack }
      ((({ c with W := W, sp := sp }).finish true).unshareEnded c.w).barriers b

/-! ## Traps and returns -/

/-- TRAP (R179): TRAPPC takes the next instruction, or in a fragment the TRAP itself (R209). -/
def execTrap (f : TrapOps) (s : State) : Out :=
  run s fun c =>
    c.uIssue f.g false 1 false (group false f.a 1 f.wA) [] noCause fun c =>
      c.trap { code := f.b.toNat, pc := c.sp.pc + 4, addr := 0, aux := (c.sreg f.a).toNat }

/-- STRAPC.UNMAP (R181). -/
def Csrs.unmap (q : Csrs) : Bool := q.strapc.getLsbD 12

/-- R183: what waited on the serviced cause goes on: an access is performed again or fails with PROT 0x13, an
engine operation is replayed or ends with STATUS 0x05, an instruction issues again or meets PROT 0x13. -/
def resumeServiced (s : State) (w : Nat) (z : SupCause) (unmap : Bool) : State :=
  let s :=
    if z.kind = 0 then
      { s with accs := tmod s.accs z.ref fun a =>
          { a with subs := a.subs.mapIdx fun i x =>
              if i = z.sub && x.st = .xlate then
                (if unmap then { x with st := .done, fail := some (cProt, 0x13) } else { x with st := .waiting })
              else x } }
    else if z.kind = 1 then
      { s with ops := tmod s.ops z.ref fun o =>
          { o with
            faulted := false
            stampOff := if unmap && z.sub = 1 then (z.addr / 4096) :: o.stampOff else o.stampOff
            status := if unmap && z.sub != 1 && o.status.isNone then some cProt else o.status } }
    else s
  if z.frag then
    match tfind s.warps w with
    | none => s
    | some W =>
      match W.split z.split with
      | none => s
      | some X =>
        if X.wait = .service then
          let X := { X with wait := .none }
          let X := if unmap && z.kind = 2 then
            X.modSlot fun f => { f with stage := .stopped cProt z.addr 0x13 false } else X
          s.putWarp w (W.setSplit X)
        else s
  else s

/-- R183 for an instruction's own cause that could not be mapped: PROT 0x13 at the instruction. -/
def Ctx.unmapHere (c : Ctx) (z : SupCause) : State :=
  c.trap { code := cProt, pc := c.sp.pc, addr := z.addr, aux := 0x13 }

/-- R153: the entry at which a split waits merges, if everything else has arrived. -/
def State.mergeBack (s : State) (w sp : Nat) : State :=
  match tfind s.warps w with
  | none => s
  | some W =>
    match (W.split sp).bind fun X => match X.wait with | .atJoin e => W.tryMerge e | _ => none with
    | some (W, o) => s.putWarp w (W.settle settleFuel o)
    | none => s

/-- What an LDLC had consumed before a handler interrupted it stands again in its split (R231). -/
def State.retake (s : State) (w id : Nat) (taken : Tab (List Byte)) : State :=
  if taken.isEmpty then s
  else { s with warps := tmod s.warps w fun W =>
    { W with splits := W.splits.map fun X => if X.id = id then { X with taken := taken } else X } }

/-- The split goes on after a handler; one that waits at a join entry again looks whether it has merged meanwhile. -/
def Ctx.goBack (c : Ctx) (then_ : State → State) : State :=
  let s := then_ ((c.finish true).retake c.w c.sp.id c.sp.taken)
  match c.sp.wait with
  | .atJoin _ => s.mergeBack c.w c.sp.id
  | _ => s

/-- ERET (R178, R183). DEDUCED (log 56): while a user handler runs, ERET by another split than the handling one raises PROT
0x04, as outside a handler. -/
def execEret (f : G) (s : State) : Out :=
  run s fun c =>
    c.uIssue f.g false 1 false [] []
      (fun c => if c.sp.sup || (c.sp.isLocal && c.W.sc.csr.inh && c.sp.id = c.W.sc.csr.trapSplit) then []
                else [(cProt, 0x04, 0)]) fun c =>
        if c.sp.sup then
          match c.W.supNow with
          | none => c.leaveSup.goBack id
          | some z =>
            let unmap := c.W.sc.csr.unmap
            let d := c.leaveSup
            if c.sp.service then
              resumeServiced (d.s.putWarp d.w (d.W.dropSplit d.sp.id)) c.w z unmap
            else if z.kind = 2 && unmap && !z.frag && z.cause = cXlate then d.unmapHere z
            else d.goBack fun s => resumeServiced s c.w z unmap
        else c.leaveUser.goBack id

/-- YIELD (R184): with a stop requested the split stands here until the block is saved. -/
def execYield (f : G) (s : State) : Out :=
  run s fun c =>
    c.uIssue f.g false 1 false [] [] noCause fun c =>
      if c.stopWanted && !c.sp.sup then c.atHome fun c => c.s else (c.advance 1).finish true

/-! ## CSRs -/

/-- Bits of FMT that are not reserved (R103). -/
def fmtMask : Word := 0x000FBFFF

/-- Coordinates of a linear id within an extent (R347, R164). -/
def coordOf (n : Nat) (e : Nat × Nat × Nat) : Nat × Nat × Nat :=
  (n % max 1 e.1, n / max 1 e.1 % max 1 e.2.1, n / (max 1 e.1 * max 1 e.2.1))

/-- The CSRs that a warp holds, by index (R55, R181). -/
def Csrs.read (q : Csrs) (i : Nat) : Word :=
  if i = 0x011 then q.exthr else if i = 0x012 then q.ganga else if i = 0x013 then q.gangb
  else if i = 0x018 then q.trapv else if i = 0x019 then q.trapc else if i = 0x01A then q.trappc
  else if i = 0x01B then q.trapal else if i = 0x01C then q.trapah else if i = 0x01D then q.trapaux
  else if i = 0x022 then q.hintdrop else if i = 0x030 then q.princ else if i = 0x031 then q.cbank
  else if i = 0x140 then q.savebase else if i = 0x141 then q.strapc else if i = 0x142 then q.strappc
  else if i = 0x143 then q.strapal else if i = 0x144 then q.strapah else if i = 0x145 then q.strapaux
  else 0

/-- A write of a warp's CSR: reserved bits are discarded (R5), RO registers keep their value (R54). -/
def Csrs.write (q : Csrs) (i : Nat) (v : Word) : Csrs :=
  if i = 0x011 then { q with exthr := if 4 < (v &&& 7).toNat then 4 else v &&& 7 }
  else if i = 0x012 then { q with ganga := v }
  else if i = 0x013 then { q with gangb := v &&& gangbMask }
  else if i = 0x018 then { q with trapv := v &&& 0xFFFFFFFC }
  else if i = 0x01A then { q with trappc := v &&& 0xFFFFFFFC }
  else if i = 0x022 then { q with hintdrop := v }
  else if i = 0x031 then { q with cbank := v &&& 0xF }
  else if i = 0x140 then { q with savebase := v &&& savebaseMask }
  else if i = 0x141 then { q with strapc := (q.strapc &&& ~~~(1#32 <<< 12)) ||| (v &&& (1#32 <<< 12)) }
  else if i = 0x142 then { q with strappc := v &&& 0xFFFFFFFC }
  else q
where
  /-- Bits of GANGB that are not reserved (R290). -/
  gangbMask : Word := 0x0001FFFF
  /-- Bits of SAVEBASE that are not reserved (R367). -/
  savebaseMask : Word := 0xFFFFFFFF

/-- Bits of an ACCOWN CSR that are not reserved (R267). -/
def accownMask : Word := 0x1FFF

/-- The block, its launch and the place that the read-only CSRs name (R55). -/
def Ctx.placeCsr (c : Ctx) (i : Nat) : Word :=
  let B := tfind c.s.blocks c.W.block
  let L := c.s.warpLaunch c.W
  let lin := (B.map (·.lin)).getD 0
  let grid := (L.map (·.desc.grid)).getD (1, 1, 1)
  let xyz := coordOf lin grid
  let lc := c.s.logCluster (c.s.warpPart c.W) (coreCluster c.W.core)
  let n :=
    if i = 0 then c.W.idx
    else if i = 1 then xyz.1 else if i = 2 then xyz.2.1 else if i = 3 then xyz.2.2
    else if i = 4 then grid.1 else if i = 5 then grid.2.1 else if i = 6 then grid.2.2
    else if i = 7 then (B.map (·.rank)).getD 0
    else if i = 8 then lc
    else if i = 9 then lc / 8
    else (L.map (·.id)).getD 0
  BitVec.ofNat 32 n

/-- The CYCLE count that the split sees (R11, R190). -/
def Ctx.cycle (c : Ctx) : DWord :=
  match c.sp.home with
  | .wcore => (c.s.core c.W.core).cycle
  | .ncore f => (c.s.core f.ncore).ncycle

/-- R54-R57: the value of a CSR. -/
def Ctx.csrRead (c : Ctx) (i : Nat) : Word :=
  if i ≤ 0x00A then c.placeCsr i
  else if i = 0x010 then c.sp.fmt
  else if i = 0x020 then c.cycle.extractLsb' 0 32
  else if i = 0x021 then (match c.sp.home with | .wcore => c.W.sc.csr.cycleh | .ncore f => f.cycleh)
  else if 0x100 ≤ i && i < 0x140 then tget 0 (c.s.cluster (coreCluster c.W.core)).accown (i - 0x100)
  else c.scal.csr.read i

/-- R57: a read of CYCLE latches its high half. -/
def Ctx.latchCycle (c : Ctx) (i : Nat) : Ctx :=
  if i = 0x020 then
    let h := c.cycle.extractLsb' 32 32
    match c.sp.home with
    | .wcore => { c with W := { c.W with sc := { c.W.sc with csr := { c.W.sc.csr with cycleh := h } } } }
    | .ncore f => { c with sp := { c.sp with home := .ncore { f with cycleh := h } } }
  else c

/-- R54: a user-mode access to a /S CSR. -/
def Ctx.csrCauses (c : Ctx) (i : Nat) : List Met := if 0x100 ≤ i && !c.sp.sup then [(cProt, 0x08, 0)] else []

/-- R39: TRAPV written in a user handler. -/
def Ctx.csrwCauses (c : Ctx) (i : Nat) : List Met :=
  c.csrCauses i ++ (if i = 0x018 && c.scal.csr.inh && !c.sp.sup && c.sp.isLocal then [(cProt, 0x08, 0)] else [])

/-- R54: writes a CSR. -/
def Ctx.csrWrite (c : Ctx) (i : Nat) (v : Word) : Ctx :=
  if i = 0x010 then { c with sp := { c.sp with fmt := v &&& fmtMask } }
  else if 0x100 ≤ i && i < 0x140 then
    let cl := c.s.cluster (coreCluster c.W.core)
    { c with s := c.s.setCluster (coreCluster c.W.core) { cl with accown := tset cl.accown (i - 0x100) (v &&& accownMask) } }
  else c.scalWrite (.csr i v) fun q => { q with csr := q.csr.write i v }

/-- Accumulator slots that an operation names (R268, R272). -/
def OpKind.slots : OpKind → List Nat
  | .mma m _ => [bits m.packed 5 0]
  | .mmaz first n => (List.range n).map (first + ·)
  | .accrd _ _ packed => [bits packed 5 0]
  | .accst _ slot => [slot]
  | .accld _ slot => [slot]
  | .topkr _ slot _ _ => [slot]
  | _ => []

/-- R269: a write of an ACCOWN waits for the entries that name its slot. -/
def Ctx.accownBusy (c : Ctx) (i : Nat) : Bool :=
  decide (0x100 ≤ i) && decide (i < 0x140) && (c.s.cluster (coreCluster c.W.core)).resv.any fun n =>
    match tfind c.s.ops n with
    | some o => o.kind.slots.contains (i - 0x100)
    | none => false

/-- CSRR (R174). -/
def execCsrr (f : UC) (s : State) : Out :=
  run s fun c =>
    let i := f.i.toNat
    c.uIssue f.g false 1 (0x011 ≤ i && i != 0x020 && i != 0x021) [] (group false f.d 1 true) (fun c => c.csrCauses i)
      fun c => (((c.setS f.d (c.csrRead i)).latchCycle i).advance 1).finish true

/-- CSRW (R174); of GANGA and GANGB it recalls a fragment first (R202). -/
def execCsrw (f : UC) (s : State) : Out :=
  run s fun c =>
    let i := f.i.toNat
    let go := fun (c : Ctx) =>
      c.uIssue f.g false 1 false (group false f.d 1 true) [] (fun c => c.csrwCauses i)
        (early := [([], fun c => c.csrwCauses i)])
        (k := fun c => if c.accownBusy i then c.hold else ((c.csrWrite i (c.sreg f.d)).advance 1).finish true)
    if i = 0x012 || i = 0x013 then c.atHome go else go c

/-- SETFMT (R173). -/
def execSetfmt (f : SetFmtOps) (s : State) : Out :=
  run s fun c =>
    c.uIssue f.g false (bWords f.b) false (bSrcs f.b false) (group false f.d 1 true) noCause fun c =>
      let old := c.sp.fmt
      let c := { c with sp := { c.sp with fmt := c.sB f.b &&& fmtMask } }
      ((c.setS f.d old).advance (bWords f.b)).finish true

/-- CSRV (R164). -/
def execCsrv (f : CsrV) (s : State) : Out :=
  run s fun c =>
    c.vIssue f.g 1 [] (group true f.d 1 true) noCause fun c P =>
      let bd := ((c.s.warpLaunch c.W).map (·.desc.bd)).getD (1, 1, 1)
      let k := f.b.toNat
      c.vWrite 1 f.d P fun l =>
        let t := coordOf (32 * c.W.idx + l) bd
        BitVec.ofNat 32
          (if k = 0 then l else if k = 1 then t.1 else if k = 2 then t.2.1 else if k = 3 then t.2.2 else c.sp.id)

end Sys2Proof.Machine
end

