-- ==== Sys2Proof/Machine/Futures.lean ====
section
/-! DEFINITION. The future instructions FTEST, FMOVE, FCANCEL and FWAIT (R170-R172). -/

namespace Sys2Proof.Machine

/-- R171: register d takes over value, state and mark of register a, and the pending completion, if any, goes to d. -/
def moveFuture (s : State) (w : Nat) (q : Scal) (bd : Bool) (d : BitVec 6) (ba : Bool) (a : BitVec 6) : State × Scal :=
  if bd = ba && d = a then (s, q)
  else
    let v := q.sreg ba a
    let st := q.sstate ba a
    let mark := q.cancel.getLsbD (cancelBit ba a) && a != 63
    let q := q.write ba a v .full
    let q := q.write bd d v st
    let q := if mark && d != 63 then { q with cancel := q.cancel ||| (1#128 <<< cancelBit bd d) } else q
    let na := scalarNo ba a
    let nd := scalarNo bd d
    if st = .full then (s, q)
    else
      ({ s with
          ops := tmap s.ops fun _ o => if o.warp = w && o.dst = some (ba, a.toNat) then { o with dst := some (bd, d.toNat) } else o
          accs := tmap s.accs fun _ x =>
            if x.warp = w && x.scalar then { x with dst := x.dst.map fun n => if n = na then nd else n } else x }, q)

/-- R298: operations leave the latches that they wait in; the other members stay. -/
def State.leaveLatches (s : State) (ns : List Nat) : State :=
  { s with clusters := tmap s.clusters fun _ c => { c with
      latches := (c.latches.map fun l => { l with ops := l.ops.filter fun e => !ns.contains e.2 }).filter
        fun l => !l.ops.isEmpty } }

/-- R171: a cancellation request for the operation whose future register a is: the mark, the request, and whether
there was one. A gang member that has not been granted leaves its latch (R298). -/
def cancelFuture (s : State) (w : Nat) (q : Scal) (ba : Bool) (a : BitVec 6) : State × Scal × Bool :=
  if q.sstate ba a = .future then
    let hit := fun (o : EngOp) => o.warp = w && o.dst = some (ba, a.toNat)
    let waiting := (s.ops.filter fun e => hit e.2 && !e.2.granted).map (·.1)
    (State.leaveLatches { s with ops := tmap s.ops fun _ o => if hit o then { o with cancelled := true } else o } waiting,
     { q with cancel := q.cancel ||| (1#128 <<< cancelBit ba a) }, true)
  else (s, q, false)

/-- R30, R172, R314 item 4: a future is seen to be FULL, which is an acquire: the warp's floor becomes OWC. Its cluster's L1
dropped what was older when the operation completed (log 63). -/
def Ctx.observed (c : Ctx) : Ctx := { c with W := { c.W with floor := (c.s.part (c.s.warpPart c.W)).owc } }

/-- FTEST (R171): one that answers true observes the future (R172). -/
def execFtest (f : FTestOps) (s : State) : Out :=
  run s fun c =>
    c.uIssue f.g false 1 true [] [] noCause fun c =>
      let full := c.sstate f.a == .full
      (((if full then c.observed else c).setQ f.p full).advance 1).finish true

/-- FMOVE (R171). -/
def execFmove (f : FMoveOps) (s : State) : Out :=
  run s fun c =>
    c.uIssue f.g false 1 true [] (if f.d = f.a then [] else group false f.d 1 true) noCause fun c =>
      match c.sp.home with
      | .wcore =>
        let r := moveFuture c.s c.w c.W.sc (c.bank f.d) f.d (c.bank f.a) f.a
        ({ c with s := r.1, W := { c.W with sc := r.2 } }.advance 1).finish true
      | .ncore _ =>
        ({ c with W := { c.W with swrites := c.W.swrites ++ [SWrite.move (scalarNo (c.bank f.d) f.d) (scalarNo (c.bank f.a) f.a)] } }.advance 1).finish true

/-- FCANCEL (R171). -/
def execFcancel (f : FTestOps) (s : State) : Out :=
  run s fun c =>
    c.uIssue f.g false 1 true [] [] noCause fun c =>
      match c.sp.home with
      | .wcore =>
        let r := cancelFuture c.s c.w c.W.sc (c.bank f.a) f.a
        (({ c with s := r.1, W := { c.W with sc := r.2.1 } }.setQ f.p r.2.2).advance 1).finish true
      | .ncore _ =>
        ({ c with W := { c.W with swrites := c.W.swrites ++ [SWrite.cancel (predNo c.sp.sup f.p) (scalarNo (c.bank f.a) f.a)] } }.advance 1).finish true

/-- Clears the cancel mark of a register (R171). -/
def Scal.unmark (q : Scal) (bank : Bool) (r : BitVec 6) : Scal :=
  { q with cancel := q.cancel &&& ~~~(1#128 <<< cancelBit bank r) }

/-- FWAIT (R171): it waits for FULL, whatever the mark. -/
def execFwait (f : FMoveOps) (s : State) : Out :=
  run s fun c =>
    c.uIssue f.g false 1 true [] (group false f.d 1 true) noCause fun c =>
      if c.sstate f.a != .full then c.hold
      else
        let v := c.sreg f.a
        let c := (c.observed.scalWrite (.unmark (scalarNo (c.bank f.a) f.a)) fun q => q.unmark (c.bank f.a) f.a)
        ((c.setS f.d v).advance 1).finish true

end Sys2Proof.Machine
end

