-- ==== Sys2Proof/Machine/Fetch.lean ====
section
/-! DEFINITION. What the issuing split's next instruction is, and what happens beside instructions: clocks, errors, lines
replaced. -/

namespace Sys2Proof.Machine

/-- What the cursor's split has next. -/
inductive Fetched where
  /-- It may not issue now. -/
  | idle
  /-- Words are missing in its instruction buffer. -/
  | need (n : Nat)
  | instr (i : Instr)
  /-- A word whose fate is ILLEGAL (R69). -/
  | illegal (w : Word)
  /-- The instruction or its literal lies beyond the code (R71). -/
  | bound (c : Ctx)

/-- The next instruction of the split that the cursor names (R58, R69, R71). DEDUCED (log 57): an instruction reached by
falling through at or past the code length raises PROT 0x06 as a target there does, and a literal beyond the code raises it
whatever the guard. -/
def fetched (s : State) : Fetched :=
  match issuer s with
  | none => .idle
  | some c =>
    if c.mayIssue then
      let pc := c.sp.pc.toNat
      let len := c.image.codeLen
      if len ≤ pc then .bound c
      else
        match tfind c.sp.ibuf pc with
        | none => .need 1
        | some w =>
          match decode w 0 with
          | .error _ => .illegal w
          | .ok i =>
            if takesLiteral w then
              if len ≤ pc + 4 then .bound c
              else
                match tfind c.sp.ibuf (pc + 4) with
                | none => .need 2
                | some l =>
                  match decode w l with
                  | .ok i => .instr i
                  | .error _ => .illegal w
            else .instr i
    else .idle

/-- The arithmetic clock of a core's region runs: its rail is on and its PLL is not stopped (R11, R434, R435). -/
def Region.clocked (R : Region) : Bool := decide (R.pwr < 2) && !R.gated && !R.railOff

/-- The arithmetic clock reaches a core (R11). -/
def clockTick (s : State) (core : Nat) (frag : Bool) (n : Nat) : State :=
  let c := s.core core
  if (s.region (coreRegion core)).clocked then
    s.setCore core (if frag then { c with ncycle := c.ncycle + BitVec.ofNat 64 n }
                    else { c with cycle := c.cycle + BitVec.ofNat 64 n })
  else s

/-- R332: a region's tile-cache clock makes n cycles: budget of deadline fills accrues with the first region of the partition,
up to what 2048 cycles give. -/
def tcTick (s : State) (r n : Nat) : State :=
  let R := s.region r
  if R.clocked then
    let s := s.setRegion r { R with tclk := R.tclk + n }
    if s.partRegions r = 0 then s
    else
      let P := s.part r
      let sectors := bits P.dfbudget.toNat 15 0
      s.setPart r { P with dfTokens := min (P.dfTokens + n * sectors) (2048 * sectors) }
  else s

/-- An uncorrectable error of one warp's state (R40, R427): SOFT at the split's next boundary. -/
def softError (s : State) (w sp : Nat) (aux : Word) : State :=
  match tfind s.warps w with
  | none => s
  | some W =>
    match W.split sp with
    | none => s
    | some X =>
      s.putWarp w { W with defQ := W.defQ ++ [{ cause := cSoft, reason := 0, addr := 0, split := sp, uid := X.uid, pc := X.pc,
                                                aux := some aux.toNat, sup := X.sup }] }

/-- An uncorrectable error in the data that part k of an access meets (R427): a deferred SOFT (R225). -/
def dataError (s : State) (acc k : Nat) : State :=
  let failed := fun (i : Nat) (x : Sub) =>
    if i = k && x.st != .done then { x with st := .done, fail := some (cSoft, 0) } else x
  State.endFills { s with accs := tmod s.accs acc fun a => { a with subs := a.subs.mapIdx failed } }

/-- A saturating counter steps (R427). -/
def satInc (w : Word) : Word := if w = 0xFFFFFFFF then w else w + 1

/-- ECC_CORRECTED (R427): the region's counter of the structure steps. -/
def eccCorrected (s : State) (r kind : Nat) : State :=
  let x := s.region r
  s.setRegion r (if kind = 0 then { x with recch := satInc x.recch }
                 else if kind = 1 then { x with reccs := satInc x.reccs }
                 else { x with reccc := satInc x.reccc })

/-- A line of the L1 is replaced; it holds nothing that memory lacks (R220). -/
def evictLine (s : State) (cl i : Nat) : State :=
  let c := s.cluster cl
  s.setCluster cl { c with l1 := c.l1.eraseIdx i }

end Sys2Proof.Machine
end

