-- ==== Sys2Proof/Machine/Flags.lean ====
section
/-! DEFINITION. Conditions and the functions of predicates: what the compares, votes and predicate logic
compute (R128, R132, R146, R149, R163), and the OUTMASK flag's validity test (R160). -/

namespace Sys2Proof.Machine

/-- R128: the integer conditions EQ, NE, LT, LE, GT, GE, LTU, LEU. -/
def intCond (k : BitVec 3) (a b : Word) : Bool :=
  if k = 0 then a == b
  else if k = 1 then a != b
  else if k = 2 then a.slt b
  else if k = 3 then a.sle b
  else if k = 4 then b.slt a
  else if k = 5 then b.sle a
  else if k = 6 then a.ult b
  else a.ule b

/-- R132: the FP32 conditions EQ, NE, LT, LE, GT, GE, UNORD, ORD. -/
def fpCond (k : BitVec 3) (a b : Word) : Bool :=
  let x := f32 a
  let y := f32 b
  let un := x.isNan || y.isNan
  if k = 0 then x.eqv y
  else if k = 1 then !(x.eqv y)
  else if k = 2 then x.lt y
  else if k = 3 then !un && !(y.lt x)
  else if k = 4 then y.lt x
  else if k = 5 then !un && !(x.lt y)
  else if k = 6 then un
  else !un

/-- R149: the functions of two predicates. -/
def predFn (k : BitVec 3) (x y : Bool) : Bool :=
  if k = 0 then x && y
  else if k = 1 then x || y
  else if k = 2 then x ^^ y
  else if k = 3 then x && !y
  else if k = 4 then x || !y
  else if k = 5 then !(x && y)
  else if k = 6 then !(x || y)
  else !(x ^^ y)

/-- R163: ALL, ANY and EQ over the participating lanes. -/
def voteFn (m : BitVec 3) (P pred : Mask) : Bool :=
  let t := P &&& pred
  if m = 0 then t == P
  else if m = 1 then t != 0
  else t == P || t == 0

/-- R160: a source lane is valid when it is a lane of the split's mask. -/
def validLane (mask : Mask) (j : Int) : Bool := decide (0 ≤ j) && decide (j < 32) && mask.getLsbD j.toNat

end Sys2Proof.Machine
end

