-- ==== Sys2Proof/Machine/Lsu.lean ====
section
/-! DEFINITION. Loads, stores and atomics at issue (R221-R237): addresses, checks, forwarding from the store queue
and the records that the memory side then works on. -/

namespace Sys2Proof.Machine

/-! ## Addresses of an instruction -/

/-- R223: address of a generic access in lane l. -/
def Ctx.vEa (c : Ctx) (a : BitVec 6) (off : BitVec 8) (size l : Nat) : Nat :=
  (c.vPair a l + off.signExtend 64 * BitVec.ofNat 64 size).toNat

/-- The same for a U-set access. -/
def Ctx.sEa (c : Ctx) (a : BitVec 6) (off : BitVec 8) (size : Nat) : Nat :=
  (c.sPair a + off.signExtend 64 * BitVec.ofNat 64 size).toNat

/-- R231: the CSM reference of a CSM-direct form in lane l, as a local-window address. -/
def Ctx.directEa (c : Ctx) (a : BitVec 6) (off : BitVec 8) (l : Nat) : Nat :=
  localBase + (c.v a l + off.signExtend 32 * 16).toNat

/-- R223, R38: the checks over the lanes of an access; TRAPAL and TRAPAH name the lowest failing lane. -/
def Ctx.laneCauses (c : Ctx) (size : Nat) (globOnly : Bool) (eas : List Nat) (write : Bool := false) : List Met :=
  let cs := fun ea => c.eaCauses ea size write ++ (if globOnly && physBase ≤ ea then [(cProt, 0x01)] else [])
  match eas.find? fun ea => !(cs ea).isEmpty with
  | none => []
  | some first => (eas.flatMap cs).map fun z => (z.1, z.2, first)

/-- The lanes of an access. -/
def Ctx.mkLanes (c : Ctx) (size : Nat) (ls : List Nat) (ea val val2 : Nat → Nat) : List LaneAcc :=
  ls.map fun l => { lane := l, ea := ea l, tgt := c.target (ea l) size, val := val l, val2 := val2 l, res := 0,
                    denied := false, got := false }

/-! ## Forwarding (R222) -/

/-- Whether two byte ranges share a byte. -/
def overlaps (a n b m : Nat) : Bool := decide (a < b + m) && decide (b < a + n)

/-- What the youngest overlapping entry does to a load of one lane: forwards, or makes it wait. An entry that covers the
location by several of its lanes together makes it wait (DEDUCED, log 87). -/
def forwardOne (size : Nat) (x : LaneAcc) : List StoreE → Option LaneAcc
  | [] => some x
  | e :: es =>
    match e.lanes.reverse.find? fun y => overlaps x.ea size y.ea e.size with
    | none => forwardOne size x es
    | some y =>
      if y.ea ≤ x.ea && x.ea + size ≤ y.ea + e.size then
        some { x with res := y.val / 2 ^ (8 * (x.ea - y.ea)) % 2 ^ (8 * size), got := true }
      else none

/-- R222 for every lane, youngest entry first; none: some lane must wait. -/
def forwardAll (q : List StoreE) (size : Nat) : List LaneAcc → Option (List LaneAcc)
  | [] => some []
  | x :: xs =>
    match forwardOne size x q.reverse, forwardAll q size xs with
    | some y, some ys => some (y :: ys)
    | _, _ => none

/-! ## Records -/

/-- Loads and atomics of the stream that are not complete. -/
def Ctx.loadsOut (c : Ctx) : Bool :=
  c.s.accs.any fun e => c.mine e.2 && (match e.2.kind with | .store _ _ => false | _ => true)

/-- The threads of an access: its lanes, or those of the split for a scalar one. -/
def Ctx.threadsOf (c : Ctx) (scalar : Bool) (lanes : List LaneAcc) : Mask :=
  if scalar then c.sp.mask else maskOf fun l => lanes.any fun x => x.lane = l

/-- Issues an access and traces it (R375); an atomic whose scope covers other dies or devices sends the tokens
of a release (R453). -/
def Ctx.issueAcc (c : Ctx) (kind : AccKind) (scalar : Bool) (dst : List Nat) (lanes : List LaneAcc) (trace : Option Nat) : Ctx :=
  let a : Access := { warp := c.w, split := c.sp.id, uid := c.sp.uid, frag := !c.sp.isLocal,
                      threads := c.threadsOf scalar lanes, age := 0, sup := c.sp.sup, pc := c.sp.pc,
                      kind := kind, scalar := scalar, dst := dst, lanes := lanes,
                      subs := subsOf (lanes.filter fun x => !x.got), released := false, gone := none }
  let far := match kind with | .atom _ k => c.s.farScope (c.s.warpPart c.W) k | _ => false
  let s := (if far then c.s.sendTokens (c.s.warpPart c.W) c.W.sc.csr.princ else c.s).addAcc a
  { c with s := match trace with | none => s | some k => s.traceLanes c.W.block k lanes }

/-- A hint that is dropped in some lanes counts once (R70, R215). -/
def Ctx.dropHint (c : Ctx) : Ctx :=
  match c.sp.home with
  | .wcore =>
    let q := c.W.sc.csr
    { c with W := { c.W with sc := { c.W.sc with csr := { q with hintdrop := q.hintdrop + 1 } } } }
  | .ncore f => { c with sp := { c.sp with home := .ncore { f with hintdrop := f.hintdrop + 1 } } }

/-- The split becomes the youngest of its warp (R114, R150); a fragment is not demoted (R228). -/
def Ctx.demote (c : Ctx) : Ctx :=
  if c.sp.isLocal then
    { c with sp := { c.sp with age := c.W.nextAge }, W := { c.W with nextAge := c.W.nextAge + 1 } }
  else c

/-- The destination registers of a vector access, set EMPTY (R224). -/
def Ctx.emptyVs (c : Ctx) (d : BitVec 6) (n : Nat) : Ctx :=
  (group true d n true).foldl (fun c x => c.emptyV x.r) c

/-- The same for a scalar access. -/
def Ctx.emptySs (c : Ctx) (d : BitVec 6) (n : Nat) : Ctx :=
  (group false d n true).foldl (fun c x => c.setSState x.r (c.sreg x.r) .empty) c

/-- Numbers of the destination registers. -/
def vDst (d : BitVec 6) (n : Nat) : List Nat := (group true d n true).map fun x => x.r.toNat
/-- Numbers of scalar destination registers. -/
def Ctx.sDst (c : Ctx) (d : BitVec 6) (n : Nat) : List Nat :=
  (group false d n true).map fun x => scalarNo (c.bank x.r) x.r

/-! ## Hints (R70) -/

/-- A prefetch hint: it never raises, and drops the lanes that would. l1: the load itself would use the L1, as TLDG does
not (R230). -/
def Ctx.hint (c : Ctx) (vec : Bool) (srcs : List Src) (size : Nat) (globOnly l1 : Bool) (eas : Ctx → List Nat)
    (issue : List Src → (Ctx → State) → State) : State :=
  let refused := match c.sp.home with
    | .wcore => false
    | .ncore f => match f.refused with | some r => srcs.any fun x => x.vec && x.r.toNat = r | none => false
  if refused || srcs.any (fun x => (c.srcCause x).isSome) then
    issue [] fun c => (c.dropHint.advance 1).finish (!vec)
  else
    issue srcs fun c =>
      let ok := (eas c).filter fun ea => (c.laneCauses size globOnly [ea]).isEmpty
      let whole := ok.length = (eas c).length
      let c := if whole then c else c.dropHint
      let lanes := (c.mkLanes size (List.range ok.length) (fun i => ok.getD i 0) (fun _ => 0) (fun _ => 0)).filter
        fun x => x.tgt = .glob
      let c := if lanes.isEmpty then c else c.issueAcc (.hint size l1 (!whole)) (!vec) [] lanes none
      (c.advance 1).finish (!vec)

/-! ## Vector forms -/

/-- A plain vector load (R227, R228, R230). n: destination registers. -/
def vLoad (kind : AccKind) (size n : Nat) (isHint globOnly demotes : Bool) (f : M) (s : State) : Out :=
  run s fun c0 =>
    let srcs := group true f.a 2 f.w
    let eas := fun (c : Ctx) => (lanesOf (c.parts f.g)).map fun l => c.vEa f.a f.o size l
    if isHint && f.d = 63 then
      c0.hint true srcs size globOnly (!globOnly) eas fun srcs k => c0.vIssue f.g 1 srcs [] noCause fun c _ => k c
    else
      c0.vIssue f.g 1 srcs (group true f.d n true) (fun c => c.laneCauses size globOnly (eas c)) fun c P =>
        let lanes := c.mkLanes size (lanesOf P) (fun l => c.vEa f.a f.o size l) (fun _ => 0) (fun _ => 0)
        match forwardAll c.queue size lanes with
        | none => c0.hold
        | some lanes =>
          let c := (c.issueAcc kind false (vDst f.d n) lanes (some 0)).emptyVs f.d n
          ((if demotes then c.demote else c).advance 1).finish false

/-- LDACQ (R229): the queue is drained first (R222). -/
def vAcquire (f : MS) (s : State) : Out :=
  run s fun c0 =>
    c0.vIssue f.g 1 (group true f.a 2 f.w) (group true f.d 1 true)
      (fun c => c.laneCauses 4 false ((lanesOf (c.parts f.g)).map fun l => c.vEa f.a 0 4 l)) fun c P =>
        if !c.drained then c0.hold
        else
          let lanes := c.mkLanes 4 (lanesOf P) (fun l => c.vEa f.a 0 4 l) (fun _ => 0) (fun _ => 0)
          let c := (c.issueAcc (.acq f.s.toNat) false (vDst f.d 1) lanes (some 0)).emptyVs f.d 1
          (c.advance 1).finish false

/-- The words of d, d + 1 ... in lane l as one number: store data. -/
def Ctx.vData (c : Ctx) (d : BitVec 6) (n l : Nat) : Nat :=
  (List.range n).foldl (fun v i =>
    v + (if d = 63 then 0 else (c.v (d + BitVec.ofNat 6 i) l).toNat) * 2 ^ (32 * i)) 0

/-- The same of scalar registers. -/
def Ctx.sData (c : Ctx) (d : BitVec 6) (n : Nat) : Nat :=
  (List.range n).foldl (fun v i => v + (if d = 63 then 0 else (c.sreg (d + BitVec.ofNat 6 i)).toNat) * 2 ^ (32 * i)) 0

/-- Enters a store in the queue (R221). -/
def Ctx.enter (c : Ctx) (scalar : Bool) (size : Nat) (rel : Option Nat) (stlf : Bool) (lanes : List LaneAcc) : Ctx :=
  let e : StoreE := { size := size, rel := rel, stlf := stlf, lanes := lanes, pc := c.sp.pc, split := c.sp.id,
                      sup := c.sp.sup, age := c.s.fresh, uid := c.sp.uid, threads := c.threadsOf scalar lanes }
  match c.sp.home with
  | .wcore => { c with W := { c.W with fifo := c.W.fifo ++ [e] } }
  | .ncore f => { c with sp := { c.sp with home := .ncore { f with queue := f.queue ++ [e] } } }

/-- A store instruction waits for room in the queue (R221). -/
def Ctx.queueFull (c : Ctx) : Bool := decide (16 ≤ c.queue.length)

/-- What a store comes to while the queue is full: it is not eligible (R221). -/
def Ctx.noRoom (c : Ctx) : Option State := if c.queueFull then some c.hold else none

/-- A vector store of n registers' data (R227). -/
def vStore (size n : Nat) (f : M) (s : State) : Out :=
  run s fun c0 =>
    c0.vIssue f.g 1 (group true f.a 2 f.w ++ group true f.d n f.w) []
      (fun c => c.laneCauses size false ((lanesOf (c.parts f.g)).map fun l => c.vEa f.a f.o size l) true)
      (busy := c0.noRoom) (k := fun c P =>
        let lanes := c.mkLanes size (lanesOf P) (fun l => c.vEa f.a f.o size l)
          (fun l => c.vData f.d n l % 2 ^ (8 * size)) (fun _ => 0)
        ((c.enter false size none false lanes).advance 1).finish false)

/-- STREL (R229): the queue is drained, then the release enters it. -/
def vRelease (f : MS) (s : State) : Out :=
  run s fun c0 =>
    c0.vIssue f.g 1 (group true f.a 2 f.w ++ group true f.d 1 f.w) []
      (fun c => c.laneCauses 4 false ((lanesOf (c.parts f.g)).map fun l => c.vEa f.a 0 4 l) true) fun c P =>
        if !c.drained then c0.hold
        else
          let lanes := c.mkLanes 4 (lanesOf P) (fun l => c.vEa f.a 0 4 l) (fun l => c.vData f.d 1 l) (fun _ => 0)
          ((c.release.enter false 4 (some f.s.toNat) false lanes).advance 1).finish false

/-- A vector atomic (R232); pair: ATCAS, whose d names a pair. -/
def vAtomic (op : Nat) (pair : Bool) (f : MS) (s : State) : Out :=
  run s fun c0 =>
    c0.vIssue f.g 1 (group true f.a 2 f.w ++ group true f.d (if pair then 2 else 1) true) (group true f.d 1 true)
      (fun c => c.laneCauses 4 false ((lanesOf (c.parts f.g)).map fun l => c.vEa f.a 0 4 l) true) fun c P =>
        if !c.drained then c0.hold
        else
          let lanes := c.mkLanes 4 (lanesOf P) (fun l => c.vEa f.a 0 4 l) (fun l => (c.v f.d l).toNat)
            (fun l => if pair && f.d != 63 then (c.v (f.d + 1) l).toNat else 0)
          let c := (c.release.issueAcc (.atom op f.s.toNat) false (vDst f.d 1) lanes (some 2)).emptyVs f.d 1
          (c.advance 1).finish false

/-! ## CSM-direct forms (R231) -/

/-- Where the granule of a lane lies. -/
def Ctx.directAt (c : Ctx) (a : BitVec 6) (off : BitVec 8) (l : Nat) : Nat × Nat :=
  c.csmAt (c.v a l + off.signExtend 32 * 16).toNat

/-- No older store to the lanes' granules waits in the queue, and the earlier loads are performed. -/
def Ctx.directReady (c : Ctx) (eas : List Nat) : Bool :=
  !c.loadsOut && eas.all fun ea => c.queue.all fun e => e.lanes.all fun y => !overlaps ea 16 y.ea e.size

/-- Writes quads of 16 bytes, by lane. -/
def Ctx.setQuad (c : Ctx) (d : BitVec 6) (P : Mask) (bytes : Nat → List Byte) : Ctx :=
  if d = 63 then c
  else (List.range 4).foldl (fun c i =>
    c.setV (d + BitVec.ofNat 6 i) P fun l => BitVec.ofNat 32 (leNat (((bytes l).drop (4 * i)).take 4))) c

/-- LDLF (R231): it waits until every lane's granule is FULL, with destination vz too (DEDUCED, log 52). -/
def execLdlf (f : M) (s : State) : Out :=
  run s fun c0 =>
    let eas := fun (c : Ctx) => (lanesOf (c.parts f.g)).map fun l => c.directEa f.a f.o l
    c0.vIssue f.g 1 (group true f.a 1 f.w) (group true f.d 4 true) (fun c => c.laneCauses 16 false (eas c)) fun c P =>
      let at_ := fun l => c.directAt f.a f.o l
      if !c.directReady (eas c) || !(lanesOf P).all fun l => c.s.csmFull (at_ l).1 ((at_ l).2 / 16) then c0.hold
      else ((c.setQuad f.d P fun l => c.s.csmRead (at_ l).1 (at_ l).2 16).advance 1).finish false

/-- The lowest lane of each granule among lanes. -/
def firstOfEach (at_ : Nat → Nat × Nat) (ls : List Nat) : List Nat :=
  ls.filter fun l => ((ls.find? fun k => at_ k = at_ l).getD l) = l

/-- LDLC (R231): lanes that name one granule consume it one after the other, each a separate FULL; with destination vz
they wait and consume too (DEDUCED, log 52). -/
def execLdlc (f : M) (s : State) : Out :=
  run s fun c0 =>
    let eas := fun (c : Ctx) => (lanesOf (c.parts f.g)).map fun l => c.directEa f.a f.o l
    c0.vIssue f.g 1 (group true f.a 1 f.w) (group true f.d 4 true) (fun c => c.laneCauses 16 false (eas c)) fun c P =>
      let at_ := fun l => c.directAt f.a f.o l
      let rest := (lanesOf P).filter fun l => (tfind c.sp.taken l).isNone
      let now := firstOfEach at_ rest
      if !c.directReady (eas c) || !now.all fun l => c.s.csmFull (at_ l).1 ((at_ l).2 / 16) then c0.hold
      else
        let taken := now.foldl (fun t l => tset t l (c.s.csmRead (at_ l).1 (at_ l).2 16)) c.sp.taken
        let take := fun (s : State) => now.foldl (fun s l => s.csmMark (at_ l).1 ((at_ l).2 / 16) 1 true) s
        if now.length = rest.length then
          (({ c with s := take c.s }.setQuad f.d P fun l => tget [] taken l).advance 1).finish false
        else { c0 with s := take c0.s, sp := { c0.sp with taken := taken } }.put

/-- STLF (R231): the granule becomes FULL when the entry leaves. -/
def execStlf (f : M) (s : State) : Out :=
  run s fun c0 =>
    c0.vIssue f.g 1 (group true f.a 1 f.w ++ group true f.d 4 f.w) []
      (fun c => c.laneCauses 16 false ((lanesOf (c.parts f.g)).map fun l => c.directEa f.a f.o l))
      (busy := c0.noRoom) (k := fun c P =>
        let lanes := c.mkLanes 16 (lanesOf P) (fun l => c.directEa f.a f.o l) (fun l => c.vData f.d 4 l) (fun _ => 0)
        ((c.enter false 16 none true lanes).advance 1).finish false)

/-! ## Scalar forms -/

/-- A plain scalar load of n registers (R233). -/
def sLoad (size n : Nat) (f : M) (s : State) : Out :=
  run s fun c0 =>
    let srcs := group false f.a 2 f.w
    let eas := fun (c : Ctx) => [c.sEa f.a f.o size]
    if f.d = 63 then c0.hint false srcs size false true eas fun srcs k => c0.uIssue f.g false 1 false srcs [] noCause k
    else
      c0.uIssue f.g false 1 false srcs (group false f.d n true) (fun c => c.laneCauses size false (eas c)) fun c =>
        match forwardAll c.queue size (c.mkLanes size [0] (fun _ => c.sEa f.a f.o size) (fun _ => 0) (fun _ => 0)) with
        | none => c.hold
        | some lanes =>
          (((c.issueAcc (.load size false) true (c.sDst f.d n) lanes (some 0)).emptySs f.d n).advance 1).finish true

/-- SLDACQ (R234). -/
def sAcquire (f : MS) (s : State) : Out :=
  run s fun c0 =>
    c0.uIssue f.g false 1 false (group false f.a 2 f.w) (group false f.d 1 true)
      (fun c => c.laneCauses 4 false [c.sEa f.a 0 4]) fun c =>
        if !c.drained then c.hold
        else
          let lanes := c.mkLanes 4 [0] (fun _ => c.sEa f.a 0 4) (fun _ => 0) (fun _ => 0)
          (((c.issueAcc (.acq f.s.toNat) true (c.sDst f.d 1) lanes (some 0)).emptySs f.d 1).advance 1).finish true

/-- A scalar store of n registers' data (R233). -/
def sStore (size n : Nat) (f : M) (s : State) : Out :=
  run s fun c0 =>
    c0.uIssue f.g false 1 false (group false f.a 2 f.w ++ group false f.d n f.w) []
      (fun c => c.laneCauses size false [c.sEa f.a f.o size] true)
      (busy := c0.noRoom) (k := fun c =>
        let lanes := c.mkLanes size [0] (fun _ => c.sEa f.a f.o size) (fun _ => c.sData f.d n) (fun _ => 0)
        ((c.enter true size none false lanes).advance 1).finish true)

/-- SSTREL (R234). -/
def sRelease (f : MS) (s : State) : Out :=
  run s fun c0 =>
    c0.uIssue f.g false 1 false (group false f.a 2 f.w ++ group false f.d 1 f.w) []
      (fun c => c.laneCauses 4 false [c.sEa f.a 0 4] true) fun c =>
        if !c.drained then c.hold
        else
          let lanes := c.mkLanes 4 [0] (fun _ => c.sEa f.a 0 4) (fun _ => c.sData f.d 1) (fun _ => 0)
          ((c.release.enter true 4 (some f.s.toNat) false lanes).advance 1).finish true

/-- A scalar atomic (R234). -/
def sAtomic (op : Nat) (pair : Bool) (f : MS) (s : State) : Out :=
  run s fun c0 =>
    c0.uIssue f.g false 1 false (group false f.a 2 f.w ++ group false f.d (if pair then 2 else 1) true)
      (group false f.d 1 true) (fun c => c.laneCauses 4 false [c.sEa f.a 0 4] true) fun c =>
        if !c.drained then c.hold
        else
          let lanes := c.mkLanes 4 [0] (fun _ => c.sEa f.a 0 4) (fun _ => (c.sreg f.d).toNat)
            (fun _ => if pair && f.d != 63 then (c.sreg (f.d + 1)).toNat else 0)
          (((c.release.issueAcc (.atom op f.s.toNat) true (c.sDst f.d 1) lanes (some 2)).emptySs f.d 1).advance 1).finish true

/-- WAITV (R237): the load whose word is compared with s[d] when it arrives. -/
def execWaitv (f : MS) (s : State) : Out :=
  run s fun c0 =>
    c0.uIssue f.g false 1 false (group false f.a 2 f.w ++ group false f.d 1 true) (group false f.d 1 true)
      (fun c => c.laneCauses 4 false [c.sEa f.a 0 4]) fun c =>
        if !c.drained then c.hold
        else
          let lanes := c.mkLanes 4 [0] (fun _ => c.sEa f.a 0 4) (fun _ => (c.sreg f.d).toNat) (fun _ => 0)
          let id := c.s.fresh
          let c := c.issueAcc (.waitv f.s.toNat) true (c.sDst f.d 1) lanes (some 0)
          ({ c with sp := { c.sp with wait := .waitvLoad id } }).finish true

/-! ## The instructions -/

/-- LDBS (R227). -/
def execLdbs (f : M) (s : State) : Out := vLoad (.load 1 true) 1 1 true false false f s
/-- LDBU (R227). -/
def execLdbu (f : M) (s : State) : Out := vLoad (.load 1 false) 1 1 true false false f s
/-- LDHS (R227). -/
def execLdhs (f : M) (s : State) : Out := vLoad (.load 2 true) 2 1 true false false f s
/-- LDHU (R227). -/
def execLdhu (f : M) (s : State) : Out := vLoad (.load 2 false) 2 1 true false false f s
/-- LDW (R227). -/
def execLdw (f : M) (s : State) : Out := vLoad (.load 4 false) 4 1 true false false f s
/-- LDD (R227). -/
def execLdd (f : M) (s : State) : Out := vLoad (.load 8 false) 8 2 true false false f s
/-- LDQ (R227). -/
def execLdq (f : M) (s : State) : Out := vLoad (.load 16 false) 16 4 true false false f s
/-- LDP (R228). -/
def execLdp (f : M) (s : State) : Out := vLoad .poll 4 1 false false true f s
/-- LDACQ (R229). -/
def execLdacq (f : MS) (s : State) : Out := vAcquire f s
/-- TLDG (R230): word and denied flag. -/
def execTldg (f : M) (s : State) : Out := vLoad .tldg 4 2 true true false f s
/-- STB (R227). -/
def execStb (f : M) (s : State) : Out := vStore 1 1 f s
/-- STH (R227). -/
def execSth (f : M) (s : State) : Out := vStore 2 1 f s
/-- STW (R227). -/
def execStw (f : M) (s : State) : Out := vStore 4 1 f s
/-- STD (R227). -/
def execStd (f : M) (s : State) : Out := vStore 8 2 f s
/-- STQ (R227). -/
def execStq (f : M) (s : State) : Out := vStore 16 4 f s
/-- STREL (R229). -/
def execStrel (f : MS) (s : State) : Out := vRelease f s
/-- ATADD (R232). -/
def execAtadd (f : MS) (s : State) : Out := vAtomic 0 false f s
/-- ATMIN (R232). -/
def execAtmin (f : MS) (s : State) : Out := vAtomic 1 false f s
/-- ATMAX (R232). -/
def execAtmax (f : MS) (s : State) : Out := vAtomic 2 false f s
/-- ATAND (R232). -/
def execAtand (f : MS) (s : State) : Out := vAtomic 3 false f s
/-- ATOR (R232). -/
def execAtor (f : MS) (s : State) : Out := vAtomic 4 false f s
/-- ATXOR (R232). -/
def execAtxor (f : MS) (s : State) : Out := vAtomic 5 false f s
/-- ATXCH (R232). -/
def execAtxch (f : MS) (s : State) : Out := vAtomic 6 false f s
/-- ATCAS (R232). -/
def execAtcas (f : MS) (s : State) : Out := vAtomic 7 true f s
/-- ATFADD (R232). -/
def execAtfadd (f : MS) (s : State) : Out := vAtomic 8 false f s
/-- SLDW (R233). -/
def execSldw (f : M) (s : State) : Out := sLoad 4 1 f s
/-- SLDD (R233). -/
def execSldd (f : M) (s : State) : Out := sLoad 8 2 f s
/-- SLDQ (R233). -/
def execSldq (f : M) (s : State) : Out := sLoad 16 4 f s
/-- SSTW (R233). -/
def execSstw (f : M) (s : State) : Out := sStore 4 1 f s
/-- SSTD (R233). -/
def execSstd (f : M) (s : State) : Out := sStore 8 2 f s
/-- SLDACQ (R234). -/
def execSldacq (f : MS) (s : State) : Out := sAcquire f s
/-- SSTREL (R234). -/
def execSstrel (f : MS) (s : State) : Out := sRelease f s
/-- SATADD (R234). -/
def execSatadd (f : MS) (s : State) : Out := sAtomic 0 false f s
/-- SATCAS (R234). -/
def execSatcas (f : MS) (s : State) : Out := sAtomic 7 true f s

end Sys2Proof.Machine
end

