-- ==== Sys2Proof/Machine/Const.lean ====
section
/-! DEFINITION. Constant banks (R121, R142, R182, R235, R236), instruction fetch (R71, R72, R182) and words that
are no instruction (R69). -/

namespace Sys2Proof.Machine

/-- The requests of the issuing split at a slice. -/
def Ctx.req (c : Ctx) : Req :=
  let p := c.s.warpPart c.W
  let L := c.s.warpLaunch c.W
  let v := L.bind fun L => tfind c.s.vfs L.vf
  let lc := c.s.logCluster p (coreCluster c.W.core)
  { part := p, asid := (v.map (·.asid)).getD 0, root := (v.map (·.ptroot)).getD 0, frm := some (coreRegion c.W.core),
    princ := c.W.sc.csr.princ, exempt := c.sp.sup, rights := true, engine := false, floor := c.W.floor,
    pc := c.sp.pc.toNat, launchId := (L.map (·.id)).getD 0,
    place := lc % 256 + c.W.core % 4 * 2 ^ 8 + c.W.slot % 32 * 2 ^ 10 + (if c.sp.isLocal then 0 else 2 ^ 15) }

/-! ## Constant words -/

/-- The user image of the warp. -/
def Ctx.userImage (c : Ctx) : Image := ((c.s.warpLaunch c.W).map (·.img)).getD (imageOf fun _ _ => 0)

/-- Address of word k of the selected bank, whether it is bound by CBSET, and its set in the cache (R121, R182). -/
def Ctx.constAddr (c : Ctx) (k : Nat) : Nat × Bool × Nat :=
  let b := (c.W.sc.csr.cbank &&& 0xF).toNat
  let set := 4 * k / 64 % 16
  let off := 4 * k
  if c.sp.sup then
    let p := c.s.part (c.s.warpPart c.W)
    (p.supImage + c.image.cbOff + 1024 * b + off, false, set)
  else
    match tget 0 c.W.cbset b with
    | 0 => (((c.s.warpLaunch c.W).map (·.desc.image)).getD 0 + c.image.cbOff + 1024 * b + off, false, set)
    | a => (a + off, true, set)

/-- R69, R235: the selected bank is not below the image's bank count, or the index not below 256. -/
def Ctx.bankCauses (c : Ctx) (k : Nat) : List Met :=
  if c.image.cbCount ≤ (c.W.sc.csr.cbank &&& 0xF).toNat || 256 ≤ k then [(cProt, 0x07, 0)] else []

/-- Whether a line holds an address for the split. -/
def CLine.holds (x : CLine) (sup : Bool) (asid addr : Nat) : Bool :=
  x.sup = sup && (sup || x.asid = asid) && x.addr = addr / 64 * 64

/-- The word at an address, if the constant cache holds it. -/
def Ctx.constWord (c : Ctx) (addr : Nat) : Option Word :=
  ((c.s.core c.W.core).ccache.find? fun x => x.holds c.sp.sup (c.s.warpAsid c.W) addr).map
    fun x => x.words.getD (addr % 64 / 4) 0

/-- Notes the use of a line (R121). -/
def Ctx.constUsed (c : Ctx) (addr : Nat) : Ctx :=
  let k := c.s.core c.W.core
  let asid := c.s.warpAsid c.W
  let touch : CLine → CLine := fun x => if x.holds c.sp.sup asid addr then { x with used := c.s.fresh } else x
  let s := c.s.setCore c.W.core { k with ccache := k.ccache.map touch }
  { c with s := { s with fresh := s.fresh + 1 } }

/-- The instruction waits for a constant line; a VC holds its collector meanwhile (R121, R189). -/
def Ctx.wantConst (c : Ctx) (vc : Bool) (addr set : Nat) : State :=
  { c with sp := { c.sp with cwant := some (addr, set), cheld := vc && c.sp.isLocal } }.put

/-- R142: a CSRW CBANK of a fragment is still on its way to the bank that the next VC or SLDCB reads. DEDUCED (log 58): the
bank is the warp's live CBANK (R54, R142), for a fragment too. -/
def Ctx.bankComing (c : Ctx) : Bool :=
  !c.sp.isLocal && c.W.swrites.any fun m => match m with | .csr 0x031 _ => true | _ => false

/-- A VC that has issued and missed goes on once its constant is there (R121): with the bank that its issue selected and the
operands that it read then. -/
def Ctx.vConstGo (c : Ctx) (op : Word → Word → Word → Word) (d : BitVec 6) (u : ConstUse) : State :=
  match c.constWord u.addr with
  | none => c.wantConst true u.addr u.set
  | some w =>
    if (group true d 1 true).any c.dstWaits then c.s
    else (c.constUsed u.addr).vWrite 1 d u.lanes fun l => op (laneOf u.a l) (laneOf u.d l) w

/-- A VC instruction (R142): op gets the lane's A and D and the constant. -/
def vConst (op : Word → Word → Word → Word) (words : List Src) (g : BitVec 3) (d a : BitVec 6) (k : BitVec 8)
    (s : State) : Out :=
  run s fun c0 =>
    match c0.sp.cuse with
    | some u => c0.vConstGo op d u
    | none =>
      if c0.bankComing then c0.s
      else
        c0.vIssue g 1 words (group true d 1 true) noCause (early := [([], fun c => c.bankCauses k.toNat)]) (k := fun c P =>
          let x := c.constAddr k.toNat
          match c.constWord x.1 with
          | none =>
            let u : ConstUse := { addr := x.1, set := x.2.2, lanes := P, a := c.vlanes a, d := c.vlanes d }
            let c := c0.consume words
            { c with sp := { c.sp with cuse := some u } }.wantConst true x.1 x.2.2
          | some w => (c.constUsed x.1).vWrite 1 d P fun l => op (c.v a l) (c.v d l) w)

/-- FADDCB (R142). -/
def execFaddcb (f : C3) (s : State) : Out :=
  vConst (fun a _ k => fadd a k) (group true f.a 1 f.wA) f.g f.d f.a f.k s
/-- FMULCB (R142). -/
def execFmulcb (f : C3) (s : State) : Out :=
  vConst (fun a _ k => fmul a k) (group true f.a 1 f.wA) f.g f.d f.a f.k s
/-- FMARCB (R142): D * A + K. -/
def execFmarcb (f : C3) (s : State) : Out :=
  vConst (fun a d k => ffma d a k) (group true f.a 1 f.wA ++ group true f.d 1 true) f.g f.d f.a f.k s
/-- MOVCB (R142). -/
def execMovcb (f : CMov) (s : State) : Out := vConst (fun _ _ k => k) [] f.g f.d 63 f.k s

/-- SLDCB (R235). DEDUCED (log 52): with destination sz it is performed with its waits and causes; R70's hints are the
loads of memory. -/
def execSldcb (f : M) (s : State) : Out :=
  run s fun c0 =>
    if c0.bankComing then c0.s
    else
    let k := fun (c : Ctx) => (c.sreg f.a).toNat + f.o.toNat
    c0.uIssue f.g false 1 false (group false f.a 1 f.w) (group false f.d 1 true) (fun c => c.bankCauses (k c))
      (early := [([], fun c => c.bankCauses 0)]) (k := fun c =>
        let x := c.constAddr (k c)
        match c.constWord x.1 with
        | none => c.wantConst false x.1 x.2.2
        | some w => (((c.constUsed x.1).setS f.d w).advance 1).finish true)

/-- Drops the user lines of a bank's address range (R236). -/
def Core.dropConst (k : Core) (asid addr : Nat) : Core :=
  { k with ccache := k.ccache.filter fun x => x.sup || x.asid != asid || x.addr < addr || addr + 1024 ≤ x.addr }

/-- CBSET (R236): address 0 restores the image's bank. The bound bytes are those that every earlier store leaves, so it
waits for these; a bank number out of range needs no operand. -/
def execCbset (f : CbSet) (s : State) : Out :=
  run s fun c0 =>
    let n := f.n.toNat
    c0.uIssue f.g false 1 false (group false f.a 2 f.w) []
      (fun c =>
        let a := (c.sPair f.a).toNat
        (if a != 0 && (a % 1024 != 0 || physBase ≤ a) then [(cProt, 0x14, a)] else []))
      (early := [([], fun c => if c.userImage.cbCount ≤ n then [(cProt, 0x07, 0)] else [])])
      (k := fun c =>
        if !c.settled then c.hold
        else
        let a := (c.sPair f.a).toNat
        let k := (c.s.core c.W.core).dropConst (c.s.warpAsid c.W) a
        (({ c with
            W := { c.W with cbset := if a = 0 then tdel c.W.cbset n else tset c.W.cbset n a }
            s := if a = 0 then c.s else c.s.setCore c.W.core k }).advance 1).finish true)

/-- The words that bytes spell. -/
def wordsOf : List Byte → List Word
  | a :: b :: c :: d :: t => BitVec.ofNat 32 (leNat [a, b, c, d]) :: wordsOf t
  | _ => []

/-- Puts a line in its set of four ways, in place of the least recently used (R121). -/
def Core.putConst (k : Core) (x : CLine) : Core :=
  let set := k.ccache.filter fun y => y.set = x.set
  let keep :=
    if set.length < 4 then k.ccache
    else
      match set.foldl (fun a y => match a with | none => some y | some z => if y.used < z.used then some y else some z)
        (none : Option CLine) with
      | none => k.ccache
      | some v => k.ccache.erase v
  { k with ccache := x :: keep }

/-- A split of a warp as the issuing one. -/
def splitCtx (s : State) (w sp : Nat) : Option Ctx :=
  match tfind s.warps w with
  | none => none
  | some W => (W.split sp).map fun X => { s := s, w := w, W := W, sp := X }

/-- Reads bytes of an image: by physical address in supervisor mode, else through the tile cache. -/
def Ctx.readImage (c : Ctx) (u : Use) (addr n : Nat) : Served :=
  if c.sp.sup then (if paInside addr n then .ok c.s (Memory.readN c.s.mem addr n) else .machine)
  else serveReadParts c.s c.req u (flatParts addr n)

/-- A cause that a read at the instruction meets is precise (R72, R236); XLATE is serviced first. -/
def Ctx.readFailed (c : Ctx) (addr : Nat) (z : Served) : State :=
  match z with
  | .xlate va true lv => c.s.migFault (((c.s.warpLaunch c.W).map (·.vf)).getD 0) va lv false true
  | .xlate _ false _ =>
    if c.sp.isLocal then c.raiseSup cXlate addr 0x40000000
    else
      let z : SupCause := { cause := cXlate, split := c.sp.id, uid := c.sp.uid, frag := true, addr := addr, aux := 0x40000000,
                            kind := 2, ref := 0, sub := 0 }
      { c with
        W := { c.W with supQ := c.W.supQ ++ [z] }
        sp := { c.sp with wait := .service } }.put
  | .fail s a b => { c with s := s }.raiseAt a b addr
  | .machine => c.s.machineFault (c.s.warpPart c.W) (coreRegion c.W.core)
  | .remote _ _ _ => c.raiseAt cProt 0x52 addr
  | _ => c.s

/-- CONSTANT_FILL (R121, R236): the line that a split waits for lands, or its cause is taken at the instruction. -/
def execConstantFill (w sp : Nat) (s : State) : Out :=
  .next (match splitCtx s w sp with
    | none => s
    | some c =>
      match c.sp.cwant with
      | none => s
      | some (word, set) =>
        let addr := word / 64 * 64
        let asid := s.warpAsid c.W
        let bound := !c.sp.sup && c.W.cbset.any fun e => e.2 ≤ addr && addr < e.2 + 1024
        let land := fun (s : State) (bs : List Byte) =>
          let s := if bound then s.traceFlat c.W.block 0 addr else s
          let k := s.core c.W.core
          let s := s.setCore c.W.core
            (k.putConst { set := set, sup := c.sp.sup, asid := asid, addr := addr, words := wordsOf bs, used := s.fresh })
          { c with s := { s with fresh := s.fresh + 1 }, sp := { c.sp with cwant := none } }.put
        match c.readImage .read addr 64 with
        | .ok s bs => land s bs
        | .denied s => land s (List.replicate 64 0)
        | z => { c with sp := { c.sp with cwant := none } }.readFailed word z)

/-! ## Instruction words -/

/-- Address of the code that the split runs (R85, R182). -/
def Ctx.codeBase (c : Ctx) : Nat :=
  (if c.sp.sup then (c.s.part (c.s.warpPart c.W)).supImage
   else ((c.s.warpLaunch c.W).map (·.desc.image)).getD 0) + c.image.codeOff

/-- Puts the words of a line of code in the split's instruction buffer. -/
def Ctx.buffer (c : Ctx) (addr : Nat) (ws : List Word) : Ctx :=
  let base := c.codeBase
  { c with sp := { c.sp with ibuf := (List.range 16).foldl (fun t i =>
      let a := addr + 4 * i
      if base ≤ a && a < base + c.image.codeLen then tset t (a - base) (ws.getD i 0) else t) c.sp.ibuf } }

/-- INSTRUCTION_FETCH (R72): the next of the words that the split's instruction lacks arrives with its line of
code, from the instruction cache or through the tile cache; or the fetch meets a cause. -/
def execInstructionFetch (n : Nat) (s : State) : Out :=
  run s fun c =>
    match fetched s with
    | .need k =>
      if k = n then
        let a := c.codeBase + c.sp.pc.toNat + 4 * (n - 1)
        let line := a / 64 * 64
        let asid := s.warpAsid c.W
        let k := s.core c.W.core
        match k.icache.find? fun x => x.sup = c.sp.sup && (x.sup || x.asid = asid) && x.addr = line with
        | some x => (c.buffer line x.words).put
        | none =>
          let land := fun (s : State) (bs : List Byte) =>
            let ws := wordsOf bs
            let k := s.core c.W.core
            let s := s.setCore c.W.core
              { k with icache := { sup := c.sp.sup, asid := asid, addr := line, words := ws } :: k.icache }
            ({ c with s := s }.buffer line ws).put
          match c.readImage .fetch line 64 with
          | .ok s bs => land s bs
          | .denied s => land s (List.replicate 64 0)
          | z => c.readFailed a z
      else s
    | _ => s

/-- ILLEGAL_ENCODING (R69): a word without a meaning reaches decode; its guard does not matter. -/
def execIllegalEncoding (w : Word) (s : State) : Out :=
  run s fun c =>
    match fetched s with
    | .illegal v => if v = w then c.raise cIllegal 0 else s
    | _ => s

end Sys2Proof.Machine
end

