-- ==== Sys2Proof/Machine/Slice.lean ====
section
/-! DEFINITION. An access at its tiles' home slices: TILE_REQUEST, PAGE_WALK_COMPLETE and TILE_FILL_COMPLETE (R225,
R303, R304, R317-R320), with the order that R24, R25 and R225 ask for. -/

namespace Sys2Proof.Machine

/-! ## What an atomic does (R232) -/

/-- The new word of an atomic; none: the compare failed. -/
def atomicNew (op : Nat) (old x y : Word) : Option Word :=
  if op = 0 then some (old + x)
  else if op = 1 then some (if x.slt old then x else old)
  else if op = 2 then some (if old.slt x then x else old)
  else if op = 3 then some (old &&& x)
  else if op = 4 then some (old ||| x)
  else if op = 5 then some (old ^^^ x)
  else if op = 6 then some x
  else if op = 7 then (if old = x then some y else none)
  else some (fadd old x)

/-! ## Order -/

/-- Two accesses of one stream: of the local splits of a warp, of one fragment, or of threads in common, which keep their
order across an export (R14, R24). -/
def Access.sameStream (a b : Access) : Bool :=
  a.warp = b.warp && ((a.frag = b.frag && (!a.frag || a.split = b.split)) || a.threads &&& b.threads != 0)

/-- Whether an access is a drained store. -/
def Access.isStore (a : Access) : Bool :=
  match a.kind with
  | .store _ _ => true
  | _ => false

/-- Whether an access is an atomic. -/
def Access.isAtomic (a : Access) : Bool :=
  match a.kind with
  | .atom _ _ => true
  | _ => false

/-- The core of an access's warp. -/
def State.accCore (s : State) (a : Access) : Nat :=
  match a.gone with
  | some (_, core, _, _) => core
  | none => ((tfind s.warps a.warp).map (·.core)).getD 0

/-- Its cluster. -/
def State.accCluster (s : State) (a : Access) : Nat := coreCluster (s.accCore a)

/-- An accepted store has still to reach a tile. -/
def Access.storesTo (a : Access) (tile : Nat) : Bool := a.isStore && a.subs.any fun x => x.tile = tile && x.st != .done

/-- An access numbered m comes before a in program order, as far as numbers tell: a store's own number is that of its
acceptance, and age tells what was issued before it (R25). -/
def Access.older (a : Access) (m : Nat) : Bool := !a.isStore || decide (m < a.age)

/-- An accepted store waits behind an access of its warp that waits on a cause. -/
def State.storeStuck (s : State) (x : Access) : Bool :=
  x.isStore && s.accs.any fun e => e.2.warp = x.warp && e.2.stuck && decide (e.1 < x.age)

/-- R24, R25, R29, R225: the access x, numbered m, precedes the access a, which has a higher number, at a tile: earlier loads
of the stream; for an atomic every earlier access of the warp; an access of the warp that waits on a cause; stores of the
cluster to the tile. The supervisor handler's accesses do not wait for the one whose cause it services, nor for stores
behind such a one (R183). -/
def State.precedes (s : State) (m : Nat) (x a : Access) (tile : Nat) : Bool :=
  (!(a.sup && x.stuck) &&
    ((!x.isStore && x.sameStream a && a.older m) || (a.isAtomic && x.warp = a.warp) ||
      (x.warp = a.warp && x.stuck && a.older m))) ||
  (x.storesTo tile && s.accCluster x = s.accCluster a && !(a.sup && s.storeStuck x))

/-- The number of the first store that the L1 has accepted and that follows load n in its stream. -/
def State.nextStore (s : State) (n : Nat) (a : Access) : Option Nat :=
  (s.accs.find? fun e => decide (n < e.1) && e.2.isStore && e.2.sameStream a && decide (n < e.2.age)).map (·.1)

/-- R25: a load of a core returns every store to its tile that the L1 has accepted from the core, also one with a higher
number, up to the first accepted store that follows the load in its own stream: that one, and those accepted after it,
wait for the load or come after it. -/
def State.seesStore (s : State) (n : Nat) (a : Access) (tile : Nat) : Bool :=
  !a.isStore && !a.frag &&
    let last := s.nextStore n a
    s.accs.any fun e => decide (n < e.1) && (match last with | none => true | some k => decide (e.1 < k)) &&
      !e.2.frag && e.2.storesTo tile && s.accCore e.2 = s.accCore a && !(a.sup && s.storeStuck e.2)

/-- Something must come before part k of access n. -/
def State.subBlocked (s : State) (n : Nat) (a : Access) (tile : Nat) : Bool :=
  s.seesStore n a tile || s.accs.any fun e => decide (e.1 < n) && s.precedes e.1 e.2 a tile

/-! ## Requests -/

/-- The request of a store whose warp has ended. -/
def State.goneReq (s : State) (a : Access) (l core slot : Nat) (princ : Word) : Req :=
  let L := tfind s.launches l
  let v := L.bind fun L => tfind s.vfs L.vf
  let p := (L.map (·.part)).getD 0
  { part := p, asid := (v.map (·.asid)).getD 0, root := (v.map (·.ptroot)).getD 0, frm := some (coreRegion core),
    princ := princ, exempt := a.sup, rights := true, engine := false, floor := 0, pc := a.pc.toNat,
    launchId := (L.map (·.id)).getD 0,
    place := s.logCluster p (coreCluster core) % 256 + core % 4 * 2 ^ 8 + slot % 32 * 2 ^ 10 }

/-- The request that an access makes at a slice. -/
def State.accReq (s : State) (a : Access) : Req :=
  let q :=
    match a.gone, tfind s.warps a.warp with
    | some (l, core, slot, princ), _ => s.goneReq a l core slot princ
    | none, none => s.goneReq a 0 0 0 0
    | none, some W => ({ s := s, w := a.warp, W := W, sp := { W.serviceSplit with sup := a.sup, pc := a.pc } : Ctx }).req
  { q with place := q.place % 2 ^ 15 + (if a.frag then 2 ^ 15 else 0) }

/-- Use of an access. -/
def AccKind.use : AccKind → Use
  | .store _ _ => .write
  | .atom _ _ => .atomic
  | _ => .read

/-- Bytes of a lane of an access. -/
def AccKind.size : AccKind → Nat
  | .load n _ => n
  | .store n _ => n
  | .hint n _ _ => n
  | _ => 4

/-- Lanes of an access that lie in a flat tile and are not forwarded. -/
def Access.lanesIn (a : Access) (tile : Nat) : List LaneAcc :=
  a.lanes.filter fun x => x.tgt = .glob && !x.got && x.ea / 4096 = tile

/-- Replaces lanes of an access by lane number. -/
def Access.putLanes (a : Access) (xs : List LaneAcc) : Access :=
  { a with lanes := a.lanes.map fun x => (xs.find? fun y => y.lane = x.lane).getD x }

/-- Sets the progress of part k. -/
def Access.setSub (a : Access) (k : Nat) (f : Sub → Sub) : Access :=
  { a with subs := a.subs.mapIdx fun i x => if i = k then f x else x }

/-- What comes of the lanes of a part. -/
inductive LanesDone where
  | ok (s : State) (xs : List LaneAcc)
  | denied (s : State)
  | bad (z : Served) (x : LaneAcc)

/-- Performs the lanes of a load in ascending order. -/
def readLanes (q : Req) (tile size : Nat) : State → List LaneAcc → LanesDone
  | s, [] => .ok s []
  | s, x :: xs =>
    match serveTile s q (flatTile q.asid tile) .read (.read (x.ea % 4096) size) with
    | .ok s bs =>
      (match readLanes q tile size s xs with
       | .ok s ys => .ok s ({ x with res := leNat bs } :: ys)
       | z => z)
    | .denied s => .denied s
    | z => .bad z x

/-- Performs the lanes of an atomic in ascending order (R232). -/
def atomicLanes (q : Req) (tile op : Nat) : State → List LaneAcc → LanesDone
  | s, [] => .ok s []
  | s, x :: xs =>
    match serveTile s q (flatTile q.asid tile) .atomic (.read (x.ea % 4096) 4) with
    | .ok s bs =>
      let old : Word := BitVec.ofNat 32 (leNat bs)
      let s := match atomicNew op old (BitVec.ofNat 32 x.val) (BitVec.ofNat 32 x.val2) with
        | none => s
        | some v =>
          match serveTile s q (flatTile q.asid tile) .atomic
              (.write ((leBytes 4 v.toNat).mapIdx fun i b => (x.ea % 4096 + i, b))) with
          | .ok s _ => s
          | _ => s
      (match atomicLanes q tile op s xs with
       | .ok s ys => .ok s ({ x with res := old.toNat } :: ys)
       | z => z)
    | .denied s => .denied s
    | z => .bad z x

/-- Performs the lanes of a store, ascending, as one write (R227). -/
def writeLanes (q : Req) (tile size : Nat) (s : State) (xs : List LaneAcc) : LanesDone :=
  let ws := xs.flatMap fun x => (leBytes size x.val).mapIdx fun i b => (x.ea % 4096 + i, b)
  match serveTile s q (flatTile q.asid tile) .write (.write ws) with
  | .ok s _ => .ok s xs
  | .denied s => .denied s
  | z => match xs with | [] => .ok s [] | x :: _ => .bad z x

/-- Performs the lanes of a part at its slice. -/
def Access.perform (a : Access) (q : Req) (tile : Nat) (s : State) : LanesDone :=
  let xs := a.lanesIn tile
  match a.kind with
  | .store n _ => writeLanes q tile n s xs
  | .atom op _ => atomicLanes q tile op s xs
  | _ => readLanes q tile a.kind.size s xs

/-! ## The L1 (R220) -/

/-- Whether a load may be served by an L1: plain loads of user code and their hints. -/
def Access.cached (a : Access) : Bool :=
  !a.sup && (match a.kind with | .load _ _ => true | .hint _ l1 _ => l1 | _ => false)

/-- The line of an L1 for an address. -/
def State.l1Find (s : State) (cl asid ea : Nat) : Option L1Line :=
  (s.cluster cl).l1.find? fun x => x.asid = asid && x.addr = ea / 128 * 128

/-- Serves lanes from the L1, if every one hits. -/
def l1Lanes (s : State) (cl asid size : Nat) : List LaneAcc → Option (List LaneAcc)
  | [] => some []
  | x :: xs =>
    match s.l1Find cl asid x.ea, l1Lanes s cl asid size xs with
    | some y, some ys => some ({ x with res := leNat ((y.data.drop (x.ea % 128)).take size) } :: ys)
    | _, _ => none

/-- Brings the lines of lanes into the L1; those of an OPN page never stay there (R314). -/
def l1Fill (q : Req) (cl tile : Nat) : State → List LaneAcc → State
  | s, [] => s
  | s, x :: xs =>
    let s := match s.l1Find cl q.asid x.ea with
      | some _ => s
      | none =>
        match serveTile s q (flatTile q.asid tile) .read (.read (x.ea % 4096 / 128 * 128) 128) with
        | .ok s bs =>
          let c := s.cluster cl
          s.setCluster cl { c with l1 := { asid := q.asid, addr := x.ea / 128 * 128, data := bs } :: c.l1 }
        | _ => s
    l1Fill q cl tile s xs

/-- Invalidates the lines of lanes: what was performed at the slice is newer. -/
def State.l1Drop (s : State) (cl asid : Nat) (xs : List LaneAcc) : State :=
  let c := s.cluster cl
  s.setCluster cl { c with l1 := c.l1.filter fun y => !(y.asid = asid && xs.any fun x => y.addr = x.ea / 128 * 128) }

/-! ## Deferred causes (R225) -/

/-- The lowest cause that the parts of an access met, with the lowest failing lane's address. -/
def Access.cause (a : Access) : Option (Nat × Nat × Nat) :=
  let bad := a.subs.filter fun x => x.fail.isSome
  match lowest (bad.filterMap fun x => x.fail.map fun z => (z.1, z.2, 0)) with
  | none => none
  | some (code, reason, _) =>
    let eas := (bad.flatMap fun x => a.lanesIn x.tile)
    some (code, reason, (eas.foldl (fun (m : Option LaneAcc) x => match m with | none => some x | some y => some (if x.lane < y.lane then x else y)) none
      |>.map (·.ea)).getD 0)

/-- R225: queues the deferred cause of an access, if it met one; raised by supervisor code it is a MACHINE fault
(R183). A hint's is a dropped hint (R70), which counts once. -/
def State.deferCause (s : State) (a : Access) : State :=
  match a.cause with
  | none => s
  | some (code, reason, addr) =>
    match tfind s.warps a.warp with
    | none => s
    | some W =>
      match a.kind with
      | .hint _ _ true => s
      | .hint _ _ false =>
        let X := if a.frag then (W.split a.split).filter fun X => !X.isLocal else none
        (match X with
         | some X => s.putWarp a.warp (W.setSplit (X.modSlot fun f => { f with hintdrop := f.hintdrop + 1 }))
         | none =>
           let q := W.sc.csr
           s.putWarp a.warp { W with sc := { W.sc with csr := { q with hintdrop := q.hintdrop + 1 } } })
      | _ =>
        if a.sup then s.machineFault (s.warpPart W) (coreRegion W.core)
        else
          let z : DefCause := { cause := code, reason := reason, addr := addr, split := a.split, uid := a.uid, pc := a.pc, aux := none,
                                sup := false }
          s.putWarp a.warp { W with defQ := W.defQ ++ [z] }

/-- A drained store whose every part is settled is complete: its causes are deferred. -/
def State.settleStore (s : State) (n : Nat) : State :=
  match tfind s.accs n with
  | none => s
  | some a =>
    if a.isStore && a.subs.all fun x => x.st = .done then { s.deferCause a with accs := tdel s.accs n } else s

/-! ## A part performed -/

/-- Whether the page of a flat tile has OPN set. -/
def State.isOpn (s : State) (q : Req) (tile : Nat) : Bool :=
  let h := homeOf s q.part (flatTile q.asid tile)
  match translate s h.region h.slice q.asid q.root (4096 * tile) with
  | .leaf _ e => pteOpn e
  | _ => false

/-- R314 item 3: a plain write to an OPN page. -/
def State.openWrite (s : State) (q : Req) (a : Access) (tile : Nat) : State :=
  if a.kind.use.writes && s.isOpn q tile then
    if a.released then s.addOwc q.part
    else { s with warps := tmod s.warps a.warp fun W => { W with openDirty := true } }
  else s

/-- The scope of a release, if an access is one (R27, R29). -/
def AccKind.relScope : AccKind → Option Nat
  | .store _ rel => rel
  | .atom _ scope => some scope
  | _ => none

/-- R453: a release of a partition whose scope covers threads on another die or device. -/
def State.farRelease (s : State) (part : Nat) (k : AccKind) : Bool :=
  match k.relScope with
  | some scope => s.farScope part scope
  | none => false

/-- A compare-and-swap: none crosses devices (R451, log 96). -/
def AccKind.isSwap : AccKind → Bool
  | .atom 7 _ => true
  | _ => false

/-- Sends the lanes of a part out of a port, one flit a lane (R448), or to the gate that parks them (R430); at_: where byte 0
of the tile lies. -/
def farLanes (a : Access) (n k : Nat) (q : Req) (at_ : Nat → Far) : State → List LaneAcc → State × Bool
  | s, [] => (s, true)
  | s, x :: xs =>
    let who : Asker := { kind := 0, ref := n, sub := 32 * k + x.lane }
    let off := x.ea % 4096
    let rel := s.farRelease q.part a.kind
    let r :=
      match a.kind with
      | .store size _ => s.sendFar q.part q.princ (at_ off) fkWrite 0 size (leBytes size x.val) rel who
      | .atom op _ =>
        s.sendFar q.part q.princ (at_ off) fkAtomic op 4 (leBytes 4 x.val ++ if op = 7 then leBytes 4 x.val2 else []) rel who
      | _ => s.sendFar q.part q.princ (at_ (off / 16 * 16)) fkRead 0 16 [] false who
    if r.2 then farLanes a n k q at_ r.1 xs else r

/-- A part that a gate holds waits (R430). -/
def State.stageSub0 (s : State) (n k : Nat) : State :=
  { s with accs := tmod s.accs n fun a => a.setSub k fun x => { x with st := .waiting } }

/-- Part k of access n is served at its slice; what cannot be done at once is noted on the part. -/
def State.serveSub (s : State) (n k : Nat) (a : Access) (tile : Nat) : State :=
  let q := s.accReq a
  let cl := s.accCluster a
  let done := fun (s : State) (xs : List LaneAcc) (f : Option (Nat × Nat)) =>
    ({ s with accs := tmod s.accs n fun a => (a.putLanes xs).setSub k fun x => { x with st := .done, fail := f } }).settleStore n
  let zeros := (a.lanesIn tile).map fun x => { x with res := 0 }
  if s.farRelease q.part a.kind && !(s.lostPorts q.part).isEmpty then done (s.loseRelease q.part) zeros (some (cProt, 0x54))
  else
  match a.perform q tile (s.takeOver q (flatTile q.asid tile)) with
  | .ok s xs =>
    let s := s.openWrite q a tile
    let s :=
      if a.isStore then xs.foldl (State.l1Store cl q.asid a.kind.size) s
      else if a.cached && !s.isOpn q tile then l1Fill q cl tile (s.l1Drop cl q.asid xs) xs
      else s.l1Drop cl q.asid xs
    done s xs none
  | .denied s =>
    if a.kind.use.writes then done s zeros (some (cTagDeny, 0))
    else done s (zeros.map fun x => { x with denied := true }) none
  | .bad (.xlate va true lv) _ =>
    let s := { s with accs := tmod s.accs n fun a => a.setSub k fun x => { x with st := .host } }
    let l := match a.gone with
      | some (l, _) => l
      | none => ((tfind s.warps a.warp).bind fun W => (tfind s.blocks W.block).map (·.launch)).getD 0
    s.migFault (((tfind s.launches l).map (·.vf)).getD 0) va lv a.kind.use.writes false
  | .bad (.xlate _ false _) x =>
    (match a.kind with
     | .hint _ _ _ => done s zeros (some (cXlate, 0))
     | _ =>
       match tfind s.warps a.warp with
       | none => done s zeros (some (cProt, 0x13))
       | some W =>
         if a.sup then s.machineFault (s.warpPart W) (coreRegion W.core)
         else
           let z : SupCause := { cause := cXlate, split := a.split, uid := a.uid, frag := a.frag, addr := x.ea,
                                 aux := if a.kind.use.writes then 0x80000000 else 0, kind := 0, ref := n, sub := k }
           let W := { W with supQ := W.supQ ++ [z] }
           let W := match (W.split a.split).filter (fun X => a.frag && !X.isLocal && X.wait = .none) with
             | some X => W.setSplit { X with wait := .service }
             | none => W
           { s with accs := tmod s.accs n fun a => a.setSub k fun x => { x with st := .xlate } }.putWarp a.warp W)
  | .bad (.fail s code reason) _ => done s zeros (some (code, reason))
  | .bad .machine _ =>
    s.machineFault q.part ((q.frm).getD 0)
  | .bad (.remote port pa dev) x =>
    if a.kind.isSwap then done s zeros (some (cProt, 0x52))
    else
      let r := farLanes a n k q (fun off => .port port (pa - x.ea % 4096 + off) dev) s (a.lanesIn tile)
      if r.2 then { r.1 with accs := tmod r.1.accs n fun a => a.setSub k fun x => { x with st := .remote } }
      else done r.1 zeros (some (cProt, 0x54))
  | .bad (.parked p region pa) x =>
    let r := farLanes a n k q (fun off => .gate p region (pa - x.ea % 4096 + off)) s (a.lanesIn tile)
    { r.1 with accs := tmod r.1.accs n fun a => a.setSub k fun x => { x with st := .remote } }
  | .bad .held _ => s.stageSub0 n k
  | .bad (.ok s _) _ => s
  | .bad (.denied s) _ => s

/-- R31, R453: a far release to this device's memory waits for the tokens of every path; one that leaves through a port waits
at the egress. -/
def State.releaseHeld (s : State) (a : Access) (tile : Nat) : Bool :=
  s.farRelease (s.accReq a).part a.kind &&
    (let q := s.accReq a
     !(s.unacked q.part).isEmpty &&
       (match walkFrom s.mem (4096 * tile) 4 0 q.root with
        | .leaf lv e => !pteBit (leafPa lv e (4096 * tile)) 51
        | _ => true))

/-- Part k of an access, if it stands at one of some stages and nothing comes first. -/
def State.subAt (s : State) (n k : Nat) (ok : SubSt → Bool) : Option (Access × Nat) :=
  match tfind s.accs n with
  | none => none
  | some a =>
    match a.subs[k]? with
    | none => none
    | some x =>
      if ok x.st && !s.subBlocked n a x.tile && !s.releaseHeld a x.tile && !(a.frag && a.subs.any fun y => y.st = .xlate) then
        some (a, x.tile)
      else none

/-- The first part of an access that has still to be performed and whose page has no leaf. -/
def State.unmapped (s : State) (a : Access) : Option (Nat × Nat) :=
  let q := s.accReq a
  ((a.subs.mapIdx fun j y => (j, y)).find? fun y =>
    y.2.st != .done &&
      (let h := homeOf s q.part (flatTile q.asid y.2.tile)
       (s.entry h).isNone && (match translate s h.region h.slice q.asid q.root (4096 * y.2.tile) with
                              | .none => true
                              | _ => false))).map fun y => (y.1, y.2.tile)

/-- R210: part k of access n is served, but the first part without a leaf in its place where the access is a fragment's:
XLATE is found before any part is performed, so the instruction has had no effect when the fragment goes on. -/
def State.servePart (s : State) (n k : Nat) (a : Access) (tile : Nat) : State :=
  let y := if a.frag then (s.unmapped a).getD (k, tile) else (k, tile)
  s.serveSub n y.1 a y.2

/-- Sets the stage of a part. -/
def State.stageSub (s : State) (n k : Nat) (st : SubSt) : State :=
  { s with accs := tmod s.accs n fun a => a.setSub k fun x => { x with st := st } }

/-! ## Walks (R319) -/

/-- A part of an access that waits for a walk: its access and number, the slice that queues it, and its page. -/
structure WalkReq where
  acc : Nat
  part : Nat
  slice : Nat
  asid : Nat
  page : Nat
  deriving DecidableEq, Repr

/-- The parts that wait for a walk of a region's walkers, oldest first. -/
def State.walks (s : State) (r : Nat) : List WalkReq :=
  s.accs.flatMap fun e => ((e.2.subs.mapIdx fun k x => (k, x)).filter fun y => y.2.st = .walking).filterMap fun y =>
    let q := s.accReq e.2
    let h := homeOf s q.part (flatTile q.asid y.2.tile)
    if h.region = r then
      some { acc := e.1, part := y.1, slice := h.slice, asid := q.asid, page := 4096 * y.2.tile / 65536 }
    else none

/-- Whether two requests share a walk. -/
def WalkReq.samePage (a b : WalkReq) : Bool := a.asid = b.asid && a.page = b.page

/-- The pages that wait, oldest first. -/
def walkPages (ws : List WalkReq) : List (Nat × Nat) := (ws.map fun w => (w.asid, w.page)).eraseDups

/-- A slice queues 64 requests that wait for a walk; further ones are held at its port (R319). -/
def State.walkQueueFull (s : State) (r slice : Nat) : Bool :=
  decide (64 ≤ ((s.walks r).filter fun w => w.slice = slice).length)

/-- A walk has found a leaf for part k of access n: it enters the slice's translation buffer, and the fill starts (R304,
R319); a set in which every entry is filling holds the request. -/
def State.walkDone (s : State) (n k lv e : Nat) : State :=
  match tfind s.accs n with
  | none => s
  | some a =>
    match a.subs[k]? with
    | none => s
    | some x =>
      let q := s.accReq a
      let y := flatTile q.asid x.tile
      let h := homeOf s q.part y
      let va := 4096 * x.tile
      let R := s.region h.region
      let t : Trans := { slice := h.slice, asid := q.asid, level := lv, page := va / levelBytes lv, leaf := BitVec.ofNat 64 e }
      let s := if (tlbFind R.tlb h.slice q.asid va).isSome then s
        else s.setRegion h.region { R with tlb := tlbAdd R.tlb t }
      let ps := [(va, lv, e)]
      let ways := 2 * (s.part q.part).tccfg
      if (pageCause true a.kind.use e).isNone && keepsEntry s q y a.kind.use ps && (s.entry h).isNone then
        if s.setFull h ways then s
        else
          let s := s.makeRoom h ways
          let s := s.putEntry h { newEnt s q y h ps (y.tag ps) (tileGrans y (pagePas ps)) with fill := 1, used := s.fresh }
          s.stageSub n k .filling
      else s.stageSub n k .filling

/-- The fill of a tile ends: FILL is 0 (R303). -/
def State.endFill (s : State) (h : Place0) : State :=
  match s.entry h with
  | none => s
  | some e => if e.fill = 0 then s else s.putEntry h { e with fill := 0 }

/-- TILE_REQUEST (R303, R220): an L1 hit, a hit at the home slice, or a miss that waits for its walk. -/
def execTileRequest (acc k : Nat) (s : State) : Out :=
  .next (match s.subAt acc k (· = .waiting) with
    | none => s
    | some (a, tile) =>
      let q := s.accReq a
      match (if a.cached then l1Lanes s (s.accCluster a) q.asid a.kind.size (a.lanesIn tile) else none) with
      | some xs => { s with accs := tmod s.accs acc fun a => (a.putLanes xs).setSub k fun x => { x with st := .done } }
      | none =>
        let h := homeOf s q.part (flatTile q.asid tile)
        match (s.entry h).filter fun e => e.fresh q.floor with
        | some _ => s.servePart acc k a tile
        | none => if s.walkQueueFull h.region h.slice then s else s.stageSub acc k .walking)

/-- The requests that a walk of part k of access n serves (R319): up to 64 that wait for the page, if a walker has taken it
up, oldest pages first. -/
def State.walkShare (s : State) (r n k : Nat) : List WalkReq :=
  let ws := s.walks r
  match ws.find? fun w => w.acc = n && w.part = k with
  | none => []
  | some w => if ((walkPages ws).take 256).contains (w.asid, w.page) then (ws.filter w.samePage).take 64 else []

/-- A walk that finds no leaf to use settles a request that shares it (R320), once nothing comes first. -/
def State.walkFails (s : State) (w : WalkReq) : State :=
  match s.subAt w.acc w.part (· = .walking) with
  | none => s
  | some (a, tile) => s.servePart w.acc w.part a tile

/-- PAGE_WALK_COMPLETE (R319, R320): the leaf serves every request that shares the walk, or the walk's outcome settles
them. A part that waited for the host's page asks again. -/
def execPageWalkComplete (acc k : Nat) (s : State) : Out :=
  .next (match s.subAt acc k (fun st => st = .walking || st = .host) with
    | none => s
    | some (a, tile) =>
      let q := s.accReq a
      let h := homeOf s q.part (flatTile q.asid tile)
      let ws := s.walkShare h.region acc k
      if (s.walks h.region).any (fun w => w.acc = acc && w.part = k) && !ws.any (fun w => w.acc = acc && w.part = k) then s
      else
        match translate s h.region h.slice q.asid q.root (4096 * tile) with
        | .leaf lv e =>
          if pteHost e then ((ws.filter fun w => !(w.acc = acc && w.part = k)).foldl State.walkFails (s.servePart acc k a tile))
          else if ws.isEmpty then s.walkDone acc k lv e
          else ws.foldl (fun s w => s.walkDone w.acc w.part lv e) s
        | _ => (ws.filter fun w => !(w.acc = acc && w.part = k)).foldl State.walkFails (s.servePart acc k a tile))

/-- TILE_FILL_COMPLETE (R304): the fetched sectors land and the request proceeds. -/
def execTileFillComplete (acc k : Nat) (s : State) : Out :=
  .next (match s.subAt acc k (· = .filling) with
    | none => s
    | some (a, tile) =>
      let q := s.accReq a
      (s.endFill (homeOf s q.part (flatTile q.asid tile))).servePart acc k a tile)

end Sys2Proof.Machine
end

