-- ==== Sys2Proof/Machine/Engine.lean ====
section
/-! DEFINITION. What the engine operations share (R30, R170, R171): issue, captured tensors (R305-R311, R316), their
requests at the slices and through fabric ports, translation faults (R180, R467) and completion. -/

namespace Sys2Proof.Machine

/-! ## Save areas (R367, R368) -/

/-- Offset in a warp area of the register states (R368). -/
def stateOff : Nat := 0x17D

/-- Sets a field of w bits at bit i of a byte memory from a base on. -/
def putField (m : Memory) (base i w v : Nat) : Memory :=
  let a := base + i / 8
  let old := m.num a 2
  let sh := i % 8
  let new := old - bits old (sh + w - 1) sh * 2 ^ sh + v % 2 ^ w * 2 ^ sh
  Memory.writeN m a (leBytes 2 new)

/-- A field of w bits at bit i. -/
def getField (m : Memory) (base i w : Nat) : Nat :=
  let v := m.num (base + i / 8) 2
  bits v (i % 8 + w - 1) (i % 8)

/-- n rounded up to whole KiB. -/
def kib (n : Nat) : Nat := ceilDiv n 1024 * 1024

/-- Bytes of a trace entry (R374). -/
def TraceE.bytes (e : TraceE) : List Byte :=
  leBytes 4 (e.kind + e.flathi * 2 ^ 7 + e.tensor * 2 ^ 12) ++ leBytes 8 (e.start + e.len * 2 ^ 40) ++ leBytes 4 0

/-- Address of a block's area (R367). -/
def State.blockArea (s : State) (B : Block) : Nat :=
  let p := ((tfind s.launches B.launch).map (·.part)).getD 0
  (s.part p).lsavepa.toNat + 1024 * B.unit

/-- The pieces of a block's area that hold its trace (R370). -/
def Block.tracePieces (B : Block) : List (Nat × List Byte) :=
  [(0x210, leBytes 4 (B.trace.length + (if B.tAlways then 2 ^ 16 else 0) + (if B.tAccum then 2 ^ 17 else 0) +
      (if B.tOverflow then 2 ^ 18 else 0) + (if B.tFlat then 2 ^ 19 else 0) + (if B.tPaused then 2 ^ 20 else 0)) ++
      leBytes 4 B.tEpoch),
   (0x400 + kib B.size + kib (ceilDiv B.size 128), B.trace.flatMap TraceE.bytes)]

/-! ## Issue -/

/-- The handle of a future: never zero (R170, log 6). -/
def handleOf (n : Nat) : Word := if Config.handleWord n = 0 then 1 else Config.handleWord n

/-- An engine instruction (R30, R65): unguarded; its sources wait; its own causes are found once every earlier access of
the split is performed. recalls: a fragment is recalled first (R202). busy: the instruction finds its queue full; it is
not eligible, and that wait is a stop point (R249, R271). -/
def engIssue (recalls : Bool) (d : BitVec 6) (srcs : List Src) (extra : Ctx → List Met) (k : Ctx → State) (s : State)
    (early : Early := []) (busy : Ctx → Bool := fun _ => false) : Out :=
  run s fun c =>
    let go := fun (c : Ctx) =>
      if c.settled then
        c.uIssue 7 false 1 false srcs (group false d 1 true) extra k early (if busy c then some c.stall else none)
      else c.hold
    if recalls then c.atHome go else go c

/-- A single scalar source that waits (R65). -/
def usrc (r : BitVec 6) : List Src := group false r 1 true
/-- A scalar pair that waits. -/
def usrc2 (r : BitVec 6) : List Src := group false r 2 true

/-- An operation that has done nothing: of a launch, at a core. -/
def EngOp.made (kind : OpKind) (launch core : Nat) (princ : Word) (asid floor : Nat) : EngOp :=
  { kind := kind, warp := 0, block := 0, launch := launch, core := core, split := 0, uid := 0, frag := false, sup := false, pc := 0,
    dst := none, fmt := 0, princ := princ, asid := asid, floor := floor, granted := false, cancelled := false,
    unitsDone := [], status := none, detail := 0, faulted := false, count := 0, parked := false, stampOff := [],
    opened := false, rdata := [], out := [], acked := [], csm := none, polSeen := [], touched := [], shown := 0, sent := [],
    mates := [], slot := 0 }

/-- Makes the operation: a release (R314), a future handle in s[d] (R170). -/
def Ctx.startOp (c : Ctx) (kind : OpKind) (d : BitVec 6) : Ctx :=
  let c := c.release
  let L := ((tfind c.s.blocks c.W.block).map (·.launch)).getD 0
  let o : EngOp :=
    { EngOp.made kind L c.W.core c.W.sc.csr.princ (c.s.warpAsid c.W) c.W.floor with
      warp := c.w, block := c.W.block, split := c.sp.id, uid := c.sp.uid, frag := !c.sp.isLocal, sup := c.sp.sup, pc := c.sp.pc, slot := c.W.slot
      dst := if d = 63 then none else some (c.bank d, d.toNat), fmt := c.sp.fmt }
  let s := c.s
  let c := { c with s := { s with ops := tset s.ops s.fresh o, fresh := s.fresh + 1, draws := s.draws + 1 } }
  if d = 63 then c
  else
    c.scalWrite (.future (scalarNo (c.bank d) d) s.fresh (handleOf s.draws))
      fun q => q.write (c.bank d) d (handleOf s.draws) .future

/-- The number that the operation an instruction makes has. -/
def Ctx.nextOp (c : Ctx) : Nat := c.s.fresh

/-! ## Tensors -/

/-- The VF of the issuing warp. -/
def Ctx.vf (c : Ctx) : Option Vf := (c.s.warpLaunch c.W).bind fun L => tfind c.s.vfs L.vf

/-- The twelve words, of n bytes each, at an address. -/
def words12 (m : Memory) (a n : Nat) : List Nat := (List.range 12).map fun i => m.num (a + n * i) n

/-- The address of a descriptor in a tensor table. -/
def Vf.desc (v : Vf) (n : Nat) : Nat := v.ttbase + 256 * n

/-- A descriptor at an address, as it stands (R306); a root's own place in itself. -/
def readTensor (m : Memory) (a n : Nat) : Tensor :=
  let rank := m.num (a + 0x08) 1
  let text := (words12 m (a + 0x98) 2).take rank
  let extent := (words12 m (a + 0x20) 4).take rank
  { id := n, base := m.num a 8, rank := rank, format := m.num (a + 0x09) 1, swizzle := m.num (a + 0x0A) 1,
    isOpen := m.num (a + 0x0B) 1 = 1, atag := m.num (a + 0x0C) 2, gen := m.num (a + 0x0E) 1,
    flags := m.num (a + 0x10) 4, stamps := m.num (a + 0x18) 8, extent := extent,
    stride := (words12 m (a + 0x50) 6).take rank, text := text, root := n, origin := List.replicate rank 0,
    rootGrid := List.zipWith ceilDiv extent text }

/-- The flat tensor as an operand (R310): below 2^52, one dimension, INT8. -/
def flatTensor : Tensor :=
  { id := 0, base := 0, rank := 1, format := 6, swizzle := 0, isOpen := false, atag := 0, gen := 0, flags := 2,
    stamps := 0, extent := [2 ^ 52], stride := [1], text := [4096], root := 0, origin := [0], rootGrid := [2 ^ 40] }

/-- Key of a view in the partition's record of origins. -/
def viewKey (asid n : Nat) : Nat := asid * 2 ^ 20 + n

/-- A tensor is registered no more: its epoch is noted (R382). -/
def Part.unregister (P : Part) (asid n : Nat) : Part :=
  { P with registered := P.registered.filter (· != (asid, n)), views := tdel P.views (viewKey asid n)
           unregs := tset P.unregs (viewKey asid n) P.lepoch.toNat }

/-- R305, R309: a tensor that an id names in an address space, with a view led back to its root (R316); none if the id is
not valid. -/
def State.tensorOf (s : State) (p : Nat) (v : Vf) (n : Nat) : Option Tensor :=
  if n = 0 then some flatTensor
  else if n < 32 || v.ttlen ≤ n || !(s.part p).registered.contains (v.asid, n) then none
  else
    let t := readTensor s.mem (v.desc n) n
    let parent := Memory.num s.mem (v.desc n + 0x14) 4
    if pteBit parent 31 then
      let r := readTensor s.mem (v.desc (parent % 2 ^ 20)) (parent % 2 ^ 20)
      some { t with root := r.id, gen := r.gen, stamps := r.stamps, atag := r.atag, rootGrid := r.rootGrid,
                    origin := tget (List.replicate t.rank 0) (s.part p).views (viewKey v.asid n) }
    else some t

/-- The tensor that the issuing warp names by id. -/
def Ctx.tensor (c : Ctx) (n : Nat) : Option Tensor := c.vf.bind fun v => c.s.tensorOf (c.s.warpPart c.W) v n

/-- R316: tile i of a view as its root and the root's tile; a root's own tile is itself. -/
def Ctx.atRoot (c : Ctx) (t : Tensor) (i : Nat) : Option (Tensor × Nat) :=
  if t.id = t.root then some (t, i)
  else (c.tensor t.root).map fun p => (p, undigits t.rootGrid (List.zipWith (· + ·) (digits t.grid i) t.origin))

/-- A tile handle (R309): tensor and tile, or none if it is not valid. One that names a view is turned into its parent's; a
view whose parent is no longer registered has none to be turned into. -/
def Ctx.handle (c : Ctx) (h : Nat) : Option (Tensor × Nat) :=
  if bits h 63 60 != 0 then none
  else
    match c.tensor (bits h 19 0) with
    | none => none
    | some t => if bits h 59 20 < t.tiles then c.atRoot t (bits h 59 20) else none

/-- What a handle operand meets. -/
def Ctx.handleCauses (c : Ctx) (r : BitVec 6) : List Met :=
  if (c.handle (c.sPair r).toNat).isSome then [] else [(cProt, 0x30, 0)]

/-- The handle in a pair, once checked. -/
def Ctx.handleAt (c : Ctx) (r : BitVec 6) : Tensor × Nat := (c.handle (c.sPair r).toNat).getD (flatTensor, 0)

/-! ## Requests -/

/-- The request that an operation makes at a slice. -/
def State.opReq (s : State) (o : EngOp) : Req :=
  let L := tfind s.launches o.launch
  let v := L.bind fun L => tfind s.vfs L.vf
  let p := (L.map (·.part)).getD 0
  let slot := ((tfind s.warps o.warp).map (·.slot)).getD o.slot
  let lc := s.logCluster p (coreCluster o.core)
  { part := p, asid := o.asid, root := (v.map (·.ptroot)).getD 0, frm := some (coreRegion o.core), princ := o.princ,
    exempt := o.sup, rights := true, engine := true, floor := o.floor, pc := o.pc.toNat,
    launchId := (L.map (·.id)).getD 0,
    place := lc % 256 + o.core % 4 * 2 ^ 8 + slot % 32 * 2 ^ 10 + (if o.frag then 2 ^ 15 else 0) }

/-- Changes an operation. -/
def State.modOp (s : State) (n : Nat) (f : EngOp → EngOp) : State := { s with ops := tmod s.ops n f }

/-- The status that an operation will end with, once it has one. -/
def State.opStatus (s : State) (n code : Nat) : State :=
  s.modOp n fun o => if o.status.isNone then { o with status := some code } else o

/-- A translation fault of an operation goes to the supervisor handler (R180, R296, R467); sub 1: of a stamp store
(R339). The cause is held with a warp that is saved; an operation of a warp that is gone ends (DEDUCED, log 82). -/
def State.opFault (s : State) (n : Nat) (o : EngOp) (va : Nat) (write : Bool) (sub : Nat) : State :=
  match tfind s.warps o.warp with
  | none => s.opStatus n cProt
  | some W =>
    if o.sup then s.machineFault (s.warpPart W) (coreRegion o.core)
    else
      let frag := o.frag && ((W.splitOf o.split o.uid).map fun X => !X.isLocal).getD false
      let z : SupCause := { cause := cXlate, split := o.split, uid := o.uid, frag := frag, addr := va,
                            aux := (if write then 0x80000000 else 0) + 0x20000000, kind := 1, ref := n, sub := sub }
      (s.modOp n fun o => { o with faulted := true }).putWarp o.warp { W with supQ := W.supQ ++ [z] }

/-- What an operation does with an answer that is not the data: the state after it. -/
def State.opServed (s : State) (n : Nat) (o : EngOp) (write : Bool) (sub : Nat) (r : Served) : State :=
  match r with
  | .ok s _ => s
  | .denied s => s.opStatus n cTagDeny
  | .xlate va true lv => s.migFault (((tfind s.launches o.launch).map (·.vf)).getD 0) va lv write false
  | .xlate va false _ => s.opFault n o va write sub
  | .fail s code _ => s.opStatus n code
  | .held => s
  | .machine => s.machineFault (s.opReq o).part (coreRegion o.core)
  | .remote _ _ _ => s.opStatus n cProt
  | .parked _ _ _ => s.opStatus n cProt

/-- What an operation's read or write comes to. -/
inductive Got where
  | ok (s : State) (bs : List Byte)
  | denied (s : State)
  /-- Not now: a fault is being serviced, an answer is on its way, or the operation has its status. -/
  | wait (s : State)

/-- The bytes of a granule of which n nibbles are present; the others read zero (R308). -/
def presentBytes (n : Nat) (bs : List Byte) : List Byte :=
  bs.mapIdx fun i b => if 2 * i + 1 < n then b else if 2 * i < n then b &&& 0x0F else 0

/-- One granule of a tile read through a port (R448): the bytes, or the request for them, numbered k. -/
def State.remoteGran (s : State) (n : Nat) (o : EngOp) (q : Req) (k : Nat) (f : Far) : State × Option (List Byte) :=
  if o.acked.contains k then (s, some (Memory.readN o.rdata (16 * k) 16))
  else if o.out.contains k then (s, none)
  else
    let r := s.sendFar q.part q.princ f fkRead 0 16 [] false { kind := 1, ref := n, sub := k }
    if r.2 then (r.1.modOp n fun o => { o with out := k :: o.out }, none) else (r.1.opStatus n cProt, none)

/-- The operation numbered n, as it stands. -/
def State.op (s : State) (n : Nat) (o : EngOp) : EngOp := (tfind s.ops n).getD o

/-- Granules of a tile read one by one where the tile lies behind a port. -/
def remoteRead (n : Nat) (o : EngOp) (q : Req) (x : Tile) : List Nat → State → List Byte → Bool → Got
  | [], s, bs, full => if full then .ok s bs else .wait s
  | g :: gs, s, bs, full =>
    if (x.granule g).2 = 0 then remoteRead n o q x gs s (bs ++ List.replicate 16 0) full
    else
      match serveTile s q x .read (.read (16 * g) 16) with
      | .remote port pa dev =>
        let f := Far.port port pa dev
        (match s.remoteGran n (s.op n o) q f.key f with
         | (s, some ys) => remoteRead n o q x gs s (bs ++ presentBytes (x.granule g).2 ys) full
         | (s, none) => remoteRead n o q x gs s bs false)
      | .ok s ys => remoteRead n o q x gs s (bs ++ ys) full
      | z => .wait (s.opServed n o false 0 z)

/-- Whether the reads of a tile are checked once (R342). -/
def EngOp.checksOnce (o : EngOp) : Bool := match o.kind with | .mcast _ _ _ _ _ => true | _ => false

/-- Notes what the check of a tile came to (R336, R342). -/
def State.tileSeen (s : State) (n idx : Nat) (denied : Bool) : State :=
  s.modOp n fun o => { o with polSeen := tset o.polSeen idx denied }

/-- Operation n reads len bytes, whole granules, of a tile from an offset on. A denied tile records one event, and the reads
of an MCAST are checked once (R336, R342). -/
def State.opReadAt (s : State) (n : Nat) (o : EngOp) (x : Tile) (off len : Nat) : Got :=
  let seen := tfind (s.op n o).polSeen x.idx
  if o.checksOnce && seen = some true then .denied s
  else
    let q := { s.opReq o with exempt := o.sup || (o.checksOnce && seen.isSome) }
    match serveTile s q x .read (.read off len) with
    | .ok s bs => .ok (if o.checksOnce then s.tileSeen n x.idx false else s) bs
    | .denied t => .denied (if seen = some true then s else t.tileSeen n x.idx true)
    | .remote _ _ _ => remoteRead n o q x ((List.range (len / 16)).map (off / 16 + ·)) s [] true
    | z => .wait (s.opServed n o false 0 z)

/-- A demand read of an operation: it takes over a deadline fill of the tile that is queued (R333). -/
def State.opRead (s : State) (n : Nat) (o : EngOp) (x : Tile) (off len : Nat) : Got :=
  (s.takeOver (s.opReq o) x).opReadAt n o x off len

/-- The granules of a run of bytes. -/
def granules (off : Nat) (bs : List Byte) : List (Nat × List Byte) :=
  (List.range (bs.length / 16)).map fun i => (off / 16 + i, (bs.drop (16 * i)).take 16)

/-- Number of the request that writes granule g of a tile elsewhere. -/
def granKey (x : Tile) (g : Nat) : Nat := 2 ^ 68 + x.idx * 2 ^ 9 + g % 512

/-- Some granule of a write has left already. -/
def EngOp.begun (o : EngOp) (x : Tile) (gs : List (Nat × List Byte)) : Bool :=
  gs.any fun g => o.out.contains (granKey x g.1) || o.acked.contains (granKey x g.1)

/-- Half a byte's granule as it is to be written: the old half from memory, or from behind a port. -/
def State.oldGran (s : State) (n : Nat) (o : EngOp) (q : Req) (x : Tile) (g : Nat) (f : Far) : State × Option (List Byte) :=
  match f with
  | .port _ _ _ => s.remoteGran n o q f.peek f
  | .gate _ _ _ =>
    match serveTile s q x .read (.read (16 * g) 16) with
    | .ok s bs => (s, some bs)
    | z => (s.opServed n o true 0 z, none)

/-- Granules of a tile, or runs of granules, written one by one through a port or into a gate's buffer (R430, R448); red: the
operation and format of a reduction. What lies at hand after all is written at once. -/
def farWrite (n : Nat) (o : EngOp) (q : Req) (x : Tile) (red : Option (Nat × (List Byte → List Byte → List Byte))) :
    List (Nat × List Byte) → State → Bool → Got
  | [], s, full => if full then .ok s [] else .wait s
  | (g, bs) :: gs, s, full =>
    let nib := (x.granule g).2
    let half := decide (bs.length ≤ 16) && nib % 2 = 1 && red.isNone
    let len := if 16 < bs.length then bs.length else (nib + 1) / 2
    let now := s.op n o
    if len = 0 || now.acked.contains (granKey x g) then farWrite n o q x red gs s full
    else if now.out.contains (granKey x g) then farWrite n o q x red gs s false
    else
      match serveTile s q x .write (.read (16 * g) bs.length) with
      | .ok s old =>
        let new := match red with | some (_, f) => f old bs | none => bs
        (match serveTile s q x .write (.write (new.mapIdx fun i b => (16 * g + i, b))) with
         | .ok s _ => farWrite n o q x red gs s full
         | z => .wait (s.opServed n o true 0 z))
      | z =>
        match z.far with
        | none => .wait (s.opServed n o true 0 z)
        | some f =>
          match (if half then s.oldGran n (s.op n o) q x g f else (s, some bs)) with
          | (s, none) => farWrite n o q x red gs s false
          | (s, some old) =>
            let data := if half then bs.take (nib / 2) ++
                [(old.getD (nib / 2) 0 &&& 0xF0) ||| (bs.getD (nib / 2) 0 &&& 0x0F)] else bs.take len
            let kind := if red.isSome then fkReduce else fkWrite
            let k := granKey x g
            let r := s.sendFar q.part q.princ f kind ((red.map (·.1)).getD 0) len data false { kind := 1, ref := n, sub := k }
            if r.2 then farWrite n o q x red gs (r.1.modOp n fun o => { o with out := k :: o.out }) false
            else .wait (r.1.opStatus n cProt)

/-- The stamp store of a tile whose stamp page lies behind a fabric port leaves through it (R339, R448), as one to a gate that
parks it does (R430), and the tile's data wait for its answer. Where the port turns it away the stamp is not made, and the
data do not wait. -/
def State.stampOut (s : State) (n : Nat) (o : EngOp) (f : Far) : State :=
  let q := s.opReq o
  let k := f.stamp
  let now := s.op n o
  if now.out.contains k || now.acked.contains k then s
  else
    let bs := leBytes 2 (s.part q.part).lepoch.toNat
    let r := s.sendFar q.part q.princ f fkWrite 0 2 bs false { kind := 1, ref := n, sub := k }
    if r.2 then r.1.modOp n fun o => { o with out := k :: o.out } else r.1.modOp n fun o => { o with acked := k :: o.acked }

/-- Notes that an operation wrote a tensor that is OPEN (R314). -/
def State.wroteOpen (s : State) (n : Nat) (x : Tile) : State :=
  match x.t with
  | some t => if t.isOpen then s.modOp n fun o => { o with opened := true } else s
  | none => s

/-- Operation n writes bytes, whole granules, to a tile, with the tile's stamp (R339). -/
def State.opWrite (s : State) (n : Nat) (o : EngOp) (x : Tile) (off : Nat) (bs : List Byte) : Got :=
  let q := s.opReq o
  let s := s.takeOver q x
  if (s.op n o).begun x (granules off bs) then farWrite n o q x none (granules off bs) s true
  else
  match serveTile s q x .write (.write []) with
  | .ok s _ =>
    let ws := bs.mapIdx fun i b => (off + i, b)
    (match stampingWrite s q x o.stampOff ws with
     | .ok s _ => .ok (s.wroteOpen n x) []
     | z =>
       match z.far with
       | some f =>
         if tileWindowed s q x then farWrite n o q x none (granules off bs) s true
         else if (s.op n o).acked.contains f.stamp then
           (match serveTile s q x .write (.write ws) with
            | .ok s _ => .ok ((markStamped s q x).wroteOpen n x) []
            | z => .wait (s.opServed n o true 0 z))
         else .wait (s.stampOut n o f)
       | none => .wait (s.opServed n o true 1 z))
  | .denied s => .denied s
  | z => if z.far.isSome then farWrite n o q x none (granules off bs) s true else .wait (s.opServed n o true 0 z)

/-- Records a tile access of an operation (R375), once for each tile; a tile of the flat tensor is one of tensor 0, and sets
no flag of the header. -/
def State.traceTile (s : State) (o : EngOp) (kind : Nat) (x : Tile) : State :=
  s.trace o.block kind ((x.t.map (·.root)).getD 0) x.key.2.1

/-- The trace of a saved block is kept in its area (R370): an operation that goes on may still add to it. -/
def State.syncTrace (s : State) (b : Nat) : State :=
  match tfind s.blocks b with
  | none => s
  | some B =>
    if B.saved then
      let a := s.blockArea B
      { s with mem := B.tracePieces.foldl (fun m p => Memory.writeN m (a + p.1) p.2) s.mem }
    else s

/-- Notes that an operation of a block whose accesses are recorded meets tile i of its box or run (R375, R377). -/
def State.touch (s : State) (n : Nat) (o : EngOp) (i : Nat) : State :=
  if (s.recording o.block).isNone then s
  else s.modOp n fun o => { o with touched := if o.touched.contains i then o.touched else i :: o.touched }

/-- Tiles of an operation enter its block's trace, in order (R376). -/
def State.presentList (s : State) (o : EngOp) (kind : Nat) (tile : Nat → Option Tile) (is : List Nat) : State :=
  match s.blockLaunch o.block with
  | none => s
  | some L =>
    (is.foldl (fun s i =>
      match tile i with
      | none => s
      | some x => s.traceAs o.block L.desc.cap kind ((x.t.map (·.root)).getD 0) x.key.2.1) s).syncTrace o.block

/-- R376: an operation presents its box one row of dimension 0 after another, as far as it has met every tile of it. -/
def State.presentMore (s : State) (n : Nat) (o : EngOp) (kind count : Nat) (tile : Nat → Option Tile) : State :=
  let o := s.op n o
  let k := ((List.range count).find? fun i => o.shown ≤ i && !o.touched.contains i).getD count
  if k ≤ o.shown then s
  else (s.presentList o kind tile ((List.range k).drop o.shown)).modOp n fun o => { o with shown := k }

/-- R376: at its end an operation presents the other tiles that it has met, in the order of its box. -/
def State.presentTiles (s : State) (o : EngOp) (kind n : Nat) (tile : Nat → Option Tile) : State :=
  s.presentList o kind tile (((List.range n).drop o.shown).filter o.touched.contains)

/-! ## Completion (R170, R171) -/

/-- A completion lands in a scalar register; a cancel mark stays (R172). -/
def Scal.land (q : Scal) (bank : Bool) (r : Nat) (v : Word) : Scal :=
  if bank then { q with supS := tset q.supS r v, supSt := tset q.supSt r .full }
  else { q with s := tset q.s r v, st := tset q.st r .full }

/-- Whether a warp's state stands in its save area: its block is stopped, or the debug agent has halted it (R185, R366). -/
def State.inArea (s : State) (W : Warp) : Bool :=
  W.halted || ((tfind s.blocks W.block).map (·.saved)).getD false

/-- The handle of operation n, still on its way to the parent, becomes its status (R208, R257). -/
def SWrite.done (n r : Nat) (v : Word) (m : SWrite) : SWrite :=
  match m with
  | .future x k h => if k = n && x = r then .reg x v .full else .future x k h
  | m => m

/-- Whether the handle of operation n is still on its way. -/
def SWrite.isHandle (n r : Nat) (m : SWrite) : Bool :=
  match m with
  | .future x k _ => k = n && x = r
  | _ => false

/-- The status word of operation n reaches the register of its future, in the warp and in its save area. -/
def State.landFuture (s : State) (n w : Nat) (dst : Bool × Nat) (v : Word) : State :=
  match tfind s.warps w with
  | none => s
  | some W =>
    let r := scalarNo dst.1 (BitVec.ofNat 6 dst.2)
    if W.swrites.any (SWrite.isHandle n r) then
      { s with warps := tset s.warps w { W with swrites := W.swrites.map (SWrite.done n r v) } }
    else if W.sc.sstate dst.1 (BitVec.ofNat 6 dst.2) = .future then
      let s := if s.inArea W && !dst.1 then
          let a := s.warpArea W
          { s with mem := putField (Memory.writeN s.mem (a + 0x700 + 4 * dst.2) (leBytes 4 v.toNat)) (a + stateOff)
                            (2 * (63 + dst.2)) 2 0 }
        else s
      { s with warps := tset s.warps w { W with sc := W.sc.land dst.1 dst.2 v } }
    else s

/-- What an observer of a completion may rely on (R30, R314): the floor of the issuing warp rises, and the L1 of the cluster
that issued the operation, and of the one where the warp is now, holds nothing older (R299, R300). -/
def State.observe (s : State) (o : EngOp) : State :=
  let s := s.dropL1 (coreCluster o.core)
  let s := match tfind s.warps o.warp with
    | none => s
    | some W => s.dropL1 (coreCluster W.core)
  let owc := (s.part (s.opReq o).part).owc
  { s with warps := tmod s.warps o.warp fun W => { W with floor := owc } }

/-- R170: an operation completes with its status word; it is gone from every queue. -/
def State.finishOp (s : State) (n unit status detail : Nat) : State :=
  match tfind s.ops n with
  | none => s
  | some o =>
    let s := if o.opened then s.addOwc (s.opReq o).part else s
    let v := BitVec.ofNat 32 (detail % 2 ^ 20 * 2 ^ 12 + unit * 2 ^ 8 + status)
    let s := match o.dst with
      | none => s
      | some d => s.landFuture n o.warp d v
    (s.observe o).dropOps fun k _ => k = n

end Sys2Proof.Machine
end

