-- ==== Sys2Proof/Machine/Area.lean ====
section
/-! DEFINITION. The save area of a warp (R368, R369): writing it from a warp and reading it back, with a halted
warp's fragments (R213). -/

namespace Sys2Proof.Machine

/-! ## What a warp's registers show -/

/-- The fragment slot that holds a lane. -/
def Warp.owner (W : Warp) (l : Nat) : Option Slot :=
  (W.splits.filterMap Split.slot?).find? fun f => f.lanes.getLsbD l

/-- R213: a fragment's value of register r: the slot's, what is on its way to it, or the parent's. -/
def Slot.seen (f : Slot) (W : Warp) (r : Nat) : List Word :=
  if f.present.getLsbD r then tget [] f.v r
  else match tfind f.xfers r with
    | some x => x.vals
    | none => W.vlanes r

/-- Lane l of vector register r as an image shows it. -/
def Warp.seenV (W : Warp) (r l : Nat) : Word :=
  match W.owner l with
  | some f => laneOf (f.seen W r) l
  | none => laneOf (W.vlanes r) l

/-- Lane predicate n as an image shows it. -/
def Warp.seenP (W : Warp) (n : Nat) : Mask :=
  maskOf fun l =>
    match W.owner l with
    | some f => (tget 0 f.p n).getLsbD l
    | none => (tget 0 W.p n).getLsbD l

/-! ## Writing -/

/-- Code of a register state (R368). -/
def RegState.code : RegState → Nat
  | .full => 0
  | .empty => 1
  | .future => 2

/-- The state of a code. -/
def stateOfCode (n : Nat) : RegState := if n = 1 then .empty else if n = 2 then .future else .full

/-- State code of a split entry (R369); site: it stands at a keep site, halted: for the debug agent. -/
def Split.code (X : Split) (site halted : Bool) : Nat :=
  match X.wait with
  | .atJoin _ => 2
  | .bar _ => 3
  | .barw _ => 3
  | .cbar _ => 3
  | .barRest _ _ _ _ => 3
  | .joinPoint _ => 3
  | .waitvLoad _ => 5
  | .waitvSleep _ _ => 5
  | .wqwait _ _ => 5
  | .wqDone _ _ => 5
  | _ => if halted then 6 else if site then 4 else 1

/-- Splits of the warp older than one. -/
def Warp.ageRank (W : Warp) (X : Split) : Nat := (W.splits.filter fun Y => decide (Y.age < X.age)).length

/-- Index of a join entry from the oldest entry of its stack on. -/
def depthOf (st : List StackE) (id : Nat) : Nat :=
  st.reverse.findIdx fun x => match x with | .join e => e.id == id | .call _ => false

/-- The link word of a split (R369). -/
def Warp.linkWord (W : Warp) (X : Split) : Nat :=
  match X.link with
  | none => 0
  | some id =>
    match W.entry id with
    | none => 0
    | some (o, _) =>
      let st := ((W.split o).map (·.stack)).getD []
      0x80000000 + o + depthOf st id * 16

/-- Writes the pieces of an image at a base. -/
def putAll (m : Memory) (base : Nat) (ps : List (Nat × List Byte)) : Memory :=
  ps.foldl (fun m p => Memory.writeN m (base + p.1) p.2) m

/-- A split's entry, on-chip stack and spill area. -/
def Warp.splitPieces (W : Warp) (sites : List Nat) (halted : Bool) (X : Split) : List (Nat × List Byte) :=
  let rs := X.stack.reverse
  let spill := rs.length - 8
  [(0x200 + 64 * X.id,
     leBytes 4 X.pc.toNat ++ leBytes 4 X.mask.toNat ++ leBytes 4 X.fmt.toNat ++
     leBytes 4 (X.id % 4 + W.ageRank X % 4 * 2 ^ 2 + X.code (sites.contains X.id) halted * 2 ^ 4 +
       (rs.length - spill) * 2 ^ 8 + spill * 2 ^ 12) ++
     leBytes 4 (W.linkWord X)),
   (0x300 + 256 * X.id, (rs.drop spill).flatMap StackE.bytes),
   (0x2800 + 1792 * X.id, (rs.take spill).flatMap StackE.bytes)]

/-- The word of HDR that describes a shared range (R368). -/
def State.sharedWord (s : State) (W : Warp) : Nat :=
  match W.shr with
  | none => 0
  | some (f, n, peer) => 0x80000000 + f + (n - 1) % 16 * 2 ^ 6 + ((tfind s.warps peer).map (·.idx)).getD 0 % 32 * 2 ^ 10

/-- The states and cancel marks of PSTATE, as a number (R368). -/
def Warp.stateBits (W : Warp) : Nat :=
  let v := (List.range 63).foldl (fun n r => n + (W.vstate r).code * 4 ^ r) 0
  let u := (List.range 63).foldl (fun n r => n + (W.sc.sstate false (BitVec.ofNat 6 r)).code * 4 ^ r) 0
  v + u * 4 ^ 63 + W.sc.cancel.toNat % 2 ^ 63 * 4 ^ 126

/-- CSR words saved, in the order of R368. -/
def savedCsrs : List Nat := [0x011, 0x012, 0x013, 0x018, 0x019, 0x01A, 0x01B, 0x01C, 0x01D, 0x031]

/-- The pieces of a warp's area (R368). reason: R363's order. -/
def State.areaPieces (s : State) (W : Warp) (reason unit : Nat) (sites : List Nat) : List (Nat × List Byte) :=
  let csr := W.sc.csr
  let inUse := (W.splits.map fun X => 2 ^ (X.id % 4)).foldl (· + ·) 0
  [(0x00, leBytes 4 reason ++ leBytes 4 W.exited.toNat ++ leBytes 4 unit ++ leBytes 4 inUse ++
      leBytes 4 csr.hintdrop.toNat ++ leBytes 4 csr.cycleh.toNat ++ leBytes 4 (s.sharedWord W)),
   (0x40, savedCsrs.flatMap fun i => leBytes 4 (csr.read i).toNat),
   (0x80, (List.range 16).flatMap fun n => leBytes 8 (tget 0 W.cbset n)),
   (0x140, (List.range 4).flatMap fun n =>
      let q := tget { value := 0, seq := 0 } W.sc.sq n
      leBytes 4 q.value.toNat ++ leBytes 4 q.seq.toNat),
   (0x160, (List.range 7).flatMap fun n => leBytes 4 (W.seenP n).toNat),
   (0x17C, leBytes 1 (W.sc.q.toNat % 128)),
   (stateOff, leBytes 40 W.stateBits),
   (0x700, (List.range 63).flatMap fun r => leBytes 4 (tget 0 W.sc.s r).toNat),
   (0x800, (List.range 63).flatMap fun r =>
      (List.range 32).flatMap fun l => leBytes 4 (W.seenV r l).toNat)] ++
  W.splits.flatMap fun X => W.splitPieces sites (reason = 4) X

/-- Writes a warp's area. -/
def State.writeArea (s : State) (W : Warp) (reason unit : Nat) (sites : List Nat) : State :=
  let a := s.warpArea W
  { s with mem := putAll (Memory.zeroN s.mem a areaBytes) a (s.areaPieces W reason unit sites) }

/-- Unit of a warp's block area. -/
def State.warpUnit (s : State) (W : Warp) : Nat := ((tfind s.blocks W.block).map (·.unit)).getD 0

/-- R185: the image of a halted warp, with every register saved; it waits for the special functions in flight, which have
issued and complete. An area where nothing is is a MACHINE fault (R463). -/
def State.writeHalted (s : State) (w : Nat) : State :=
  match tfind s.warps w with
  | none => s
  | some W =>
    if !W.halted || s.sfuBusy w then s
    else if s.areaIn W then s.writeArea W 4 (s.warpUnit W) []
    else s.machineFault (s.warpPart W) (coreRegion W.core)

/-- The bytes of pieces that other pieces do not hold in the same place. -/
def newPieces (old : List (Nat × List Byte)) (ps : List (Nat × List Byte)) : List (Nat × List Byte) :=
  ps.flatMap fun p =>
    let was := tget [] old p.1
    (p.2.mapIdx fun i b => (i, b)).filterMap fun x => if was[x.1]? = some x.2 then none else some (p.1 + x.1, [x.2])

/-- R185: the image of a warp that stays halted takes over what has changed in the machine, and keeps the rest as the debug
agent has it. s is the state before. -/
def State.patchHalted (s t : State) (V W : Warp) : State :=
  { t with mem := putAll t.mem (t.warpArea W) (newPieces (s.areaPieces V 4 (s.warpUnit V) []) (t.areaPieces W 4 (t.warpUnit W) [])) }

/-! ## Reading -/

/-- Reads a word of an area as a register. -/
def Memory.word (m : Memory) (a : Nat) : Word := BitVec.ofNat 32 (Memory.num m a 4)

/-- The stack entry at an address; id names a join entry. -/
def readStackE (m : Memory) (a id : Nat) : StackE :=
  let k := Memory.num m a 4
  if pteBit k 0 then .call (Memory.word m (a + 4))
  else .join { id := id, j := Memory.word m (a + 4), mask := Memory.word m (a + 8), arrived := Memory.word m (a + 12),
               fmt := Memory.word m (a + 16) &&& fmtMask,
               defer := if pteBit k 1 then some (Memory.word m (a + 20), Memory.word m (a + 24)) else none,
               joins := bits k 15 8 }

/-- Number of the join entry of split i at a depth, counted from the entries that a reload makes. -/
def entryNo (base i depth : Nat) : Nat := base + 64 * i + depth

/-- A split's stack, top first. -/
def readStack (m : Memory) (a base i : Nat) : List StackE :=
  let w := Memory.num m (a + 0x200 + 64 * i + 12) 4
  let spill := bits w 17 12
  let chip := bits w 11 8
  ((List.range spill).map (fun k => readStackE m (a + 0x2800 + 1792 * i + 32 * k) (entryNo base i k)) ++
   (List.range chip).map fun k => readStackE m (a + 0x300 + 256 * i + 32 * k) (entryNo base i (spill + k))).reverse

/-- A local split with nothing in it. -/
def blankSplit (id : Nat) : Split :=
  { id := id, uid := 0, age := 0, pc := 0, mask := 0, fmt := 0, stack := [], link := none, wait := .none, sup := false,
    supBase := 0, savedWait := .none, trapWait := none, service := false, supChild := false, usrChild := false, taken := [], kept := [],
    cwant := none, cheld := false, cuse := none, stalled := false, ibuf := [], home := .wcore }

/-- A wait with its join entry named by depth in the split's stack. -/
def Split.byDepth (X : Split) (x : Wait) : Wait :=
  match x with
  | .atJoin e => .atJoin (depthOf X.stack e)
  | x => x

/-- The same wait once the stack of split i has been reloaded. -/
def Wait.byNumber (base i : Nat) (x : Wait) : Wait :=
  match x with
  | .atJoin d => .atJoin (entryNo base i d)
  | x => x

/-- What the save area does not hold of a split. -/
def Split.note (X : Split) : SplitNote :=
  { uid := X.uid, wait := X.byDepth X.wait, trapWait := X.trapWait.map fun z => (X.byDepth z.1, z.2), usrChild := X.usrChild }

/-- What a reloaded split waits for: at a join entry by its state code, else as it did. WAITV issues again; a split that
stood at a YIELD goes on (R184). -/
def reloadWait (code : Nat) (top : List StackE) (old : Wait) (halted : Bool) : Wait :=
  if code = 2 then
    match top with
    | .join e :: _ => .atJoin e.id
    | _ => .none
  else
    match old with
    | .atJoin _ => .none
    | .atYield => .none
    | .waitvSleep x v => if halted then .waitvSleep x v else .none
    | x => x

/-- Split i of an area over what the machine still holds of it. -/
def readSplit (m : Memory) (a base ages : Nat) (old : Split) (n : SplitNote) (halted : Bool) : Split :=
  let e := a + 0x200 + 64 * old.id
  let w := Memory.num m (e + 12) 4
  let st := readStack m a base old.id
  let link := Memory.num m (e + 16) 4
  let pc := Memory.word m e
  { old with
    uid := n.uid
    age := ages + bits w 3 2
    pc := (if n.wait = .atYield then pc + 4 else pc) &&& 0xFFFFFFFC
    mask := Memory.word m (e + 4)
    fmt := Memory.word m (e + 8) &&& fmtMask
    stack := st
    link := if pteBit link 31 then some (entryNo base (bits link 3 0) (bits link 9 4)) else none
    wait := reloadWait (bits w 7 4) st n.wait halted
    savedWait := (old.byDepth old.savedWait).byNumber base old.id
    trapWait := n.trapWait.map fun z => (z.1.byNumber base old.id, z.2)
    usrChild := n.usrChild
    ibuf := [] }

/-- Writes a CSR from an area: every saved word, RO ones too. Reserved bits stay zero, whatever a debug agent wrote (R5). -/
def Csrs.reload (q : Csrs) (f : Nat → Word) : Csrs :=
  { q with exthr := if 4 < (f 0 &&& 7).toNat then 4 else f 0 &&& 7
           ganga := f 1, gangb := f 2 &&& 0x1FFFF, trapv := f 3 &&& 0xFFFFFFFC, trapc := f 4 &&& 0xFFF
           trappc := f 5 &&& 0xFFFFFFFC, trapal := f 6, trapah := f 7, trapaux := f 8, cbank := f 9 &&& 0xF }

/-- A vector register from an area: lanes of fragments that were altered go to their slots, present and dirty, the
others to the warp's file (R213). -/
def Warp.reloadV (W : Warp) (r : Nat) (st : RegState) (f : Nat → Word) : Warp :=
  let changed := fun l => W.seenV r l != f l
  let own := (List.range 32).map fun l => (W.owner l).isSome
  let slots := W.splits.map fun X => X.modSlot fun q =>
    if (lanesOf q.lanes).any changed then
      { q with
        present := q.present ||| (1#64 <<< r)
        dirty := q.dirty ||| (1#64 <<< r)
        v := tset q.v r (lanes32 fun l => if q.lanes.getLsbD l then f l else laneOf (q.seen W r) l) }
    else q
  let lane := fun l => if own.getD l false then laneOf (W.vlanes r) l else f l
  let same := (List.range 32).all fun l => laneOf (W.vlanes r) l == lane l
  let W := { W with splits := slots }
  if same && W.vstate r = st then W
  else
    let W := W.overpush r
    { W with v := tset W.v r (lanes32 lane), vst := tset W.vst r st }

/-- A lane predicate from an area. -/
def Warp.reloadP (W : Warp) (n : Nat) (m : Mask) : Warp :=
  let old := W.seenP n
  let slots := W.splits.map fun X => X.modSlot fun q =>
    if (old ^^^ m) &&& q.lanes != 0 then
      { q with p := tset q.p n ((tget 0 q.p n &&& ~~~q.lanes) ||| (m &&& q.lanes)), pDirty := setBit8 q.pDirty n true }
    else q
  let own := maskOf fun l => (W.owner l).isSome
  { W with splits := slots, p := tset W.p n ((tget 0 W.p n &&& own) ||| (m &&& ~~~own)) }

/-- The warp of the same block with a WARPID. -/
def State.warpOfIdx (s : State) (b idx : Nat) : Option Nat :=
  (s.warps.find? fun e => e.2.block = b && e.2.idx = idx).map (·.1)

/-- The splits of an area over those the machine holds: its fragments stay. -/
def Warp.reloadSplits (W : Warp) (m : Memory) (a : Nat) (halted : Bool) : Warp :=
  let used := Memory.num m (a + 0x0C) 4
  let base := W.nextJoin
  let old := fun i => (W.split i).getD (blankSplit i)
  let ids := (List.range 4).filter fun i => pteBit used i || ((W.split i).bind Split.slot?).isSome
  let ws := W.waits
  { W with
    splits := ids.map fun i => readSplit m a base W.nextAge (old i) (tget (old i).note ws i) halted
    nextJoin := base + 256
    nextAge := W.nextAge + 4 }

/-- R366, R185: a warp's state is reloaded from its area. -/
def State.readArea (s : State) (w : Nat) (halted : Bool) : State :=
  match tfind s.warps w with
  | none => s
  | some W =>
    let a := s.warpArea W
    let m := s.mem
    let f := fun i => Memory.word m (a + 0x40 + 4 * i)
    let csr := { W.sc.csr.reload f with hintdrop := Memory.word m (a + 0x10), cycleh := Memory.word m (a + 0x14) }
    let st := Memory.num m (a + stateOff) 40
    let sc : Scal := { W.sc with
      csr := csr
      s := ((List.range 63).map fun r => (r, Memory.word m (a + 0x700 + 4 * r))).filter fun e => e.2 != 0
      st := ((List.range 63).map fun r => (r, stateOfCode (st / 4 ^ (63 + r) % 4))).filter fun e => e.2 != .full
      cancel := (W.sc.cancel &&& ~~~(0xFFFFFFFFFFFFFFFF : BitVec 128)) ||| BitVec.ofNat 128 (st / 4 ^ 126 % 2 ^ 63)
      q := BitVec.ofNat 8 (Memory.num m (a + 0x17C) 1 % 128)
      sq := (List.range 4).map fun n =>
        (n, { value := Memory.word m (a + 0x140 + 8 * n), seq := BitVec.ofNat 16 (Memory.num m (a + 0x144 + 8 * n) 2) }) }
    let h := Memory.num m (a + 0x18) 4
    let W := { W with
      sc := sc
      exited := Memory.word m (a + 4)
      cbset := ((List.range 16).map fun n => (n, Memory.num m (a + 0x80 + 8 * n) 8)).filter fun e => e.2 != 0
      shr := if pteBit h 31 then (s.warpOfIdx W.block (bits h 14 10)).map fun p => (bits h 5 0, bits h 9 6 + 1, p)
             else none }
    let W := (List.range 63).foldl (fun W r =>
      Warp.reloadV W r (stateOfCode (st / 4 ^ r % 4)) fun l => Memory.word m (a + 0x800 + 128 * r + 4 * l)) W
    let W := (List.range 7).foldl (fun W n => Warp.reloadP W n (Memory.word m (a + 0x160 + 4 * n))) W
    let W := { W.reloadSplits m a halted with waits := [] }
    { s with warps := tset s.warps w W }

/-! ## The spill area (R151) -/

/-- Stack entries of a split that the chip does not hold. -/
def Split.spills (X : Split) : Nat := if X.isLocal then X.stack.length - 8 else 0

/-- Spilled entries of X, from the oldest, that Y does not have spilled in the same place. -/
def Split.newSpills (Y X : Split) : List (Nat × StackE) :=
  ((X.stack.reverse.take X.spills).mapIdx fun k e => (k, e)).filter fun x => (Y.stack.reverse.take Y.spills)[x.1]? != some x.2

/-- The name of an entry, if it is a join entry. -/
def StackE.id : StackE → Nat
  | .join e => e.id
  | .call _ => 0

/-- X after Y with the entries that come back on chip read from the spill area at a base. -/
def Split.refill (Y X : Split) (m : Memory) (base : Nat) : Split :=
  { X with stack := (X.stack.reverse.mapIdx fun k e =>
      if decide (X.spills ≤ k) && decide (k < Y.spills) && Y.stack.reverse[k]? == some e then readStackE m (base + 32 * k) e.id
      else e).reverse }

/-- R151: the spill area of a split follows its stack, from Y to X: what is spilled anew or has changed is written, and what
comes back on chip is read there; an area where nothing is is a MACHINE fault (R463). -/
def State.spillSplit (s : State) (w : Nat) (V : Warp) (X : Split) : State :=
  let Y := (V.splits.find? fun Y => Y.id = X.id && Y.uid = X.uid && Y.isLocal).getD (blankSplit X.id)
  if X.spills = 0 && Y.spills = 0 then s
  else
    match tfind s.warps w with
    | none => s
    | some W =>
     if !s.areaIn W then s.machineFault (s.warpPart W) (coreRegion W.core)
     else
      let base := s.warpArea W + 0x2800 + 1792 * X.id
      let m := (Y.newSpills X).foldl (fun m x => Memory.writeN m (base + 32 * x.1) x.2.bytes) s.mem
      { s with mem := m, warps := tset s.warps w (W.setSplit (Y.refill X s.mem base)) }

/-- R151: the spill areas follow the stacks of the local splits, from state s to state t. -/
def followSpill (s t : State) : State :=
  t.warps.foldl (fun t e =>
    match tfind s.warps e.1 with
    | none => t
    | some V => e.2.splits.foldl (fun t X => t.spillSplit e.1 V X) t) t

/-! ## Halts (R185, R186) -/

/-- R185: a warp halts, and its image is written; one that was halted, and stepped, keeps the image that the debug agent has.
pc: offset that TRAPPC takes, for a BREAK; TRAPC stays, since no cause is delivered (log 90). -/
def State.halt (s : State) (w : Nat) (pc : Option Word) : State :=
  let was := ((tfind s.warps w).map (·.halted)).getD false
  let s := { s with warps := tmod s.warps w fun W =>
    { W with
      halted := true
      step := none
      sc := match pc with
        | none => W.sc
        | some p => { W.sc with csr := { W.sc.csr with trappc := p &&& 0xFFFFFFFC } } } }
  if was then s else s.writeHalted w

/-- The device reloads a halted warp's image when the warp resumes or steps (R185, R186), if it has been written. -/
def State.reloadHalted (s : State) (w : Nat) : State :=
  match tfind s.warps w with
  | none => s
  | some W => if W.halted && !s.sfuBusy w then s.readArea w true else s

/-- R185: the image of a halted warp follows what changes the warp, from state s to state t. -/
def followHalted (s t : State) : State :=
  (t.warps.filter fun e => e.2.halted && !t.sfuBusy e.1 && (s.sfuBusy e.1 || tfind s.warps e.1 != some e.2)).foldl
    (fun t e =>
      match (tfind s.warps e.1).filter fun V => V.halted && !s.sfuBusy e.1 with
      | some V => s.patchHalted t V e.2
      | none => t.writeHalted e.1) t

/-- BKPT (R185): under debug the warp halts after it, and with BLOCKSTOP the whole block; else a user cause. -/
def execBkpt (f : G) (s : State) : Out :=
  run s fun c =>
    c.uIssue f.g false 1 false [] [] noCause fun c =>
      let dbg := (c.s.part (c.s.warpPart c.W)).dbgctl
      if dbg.getLsbD 0 && !c.sp.sup then
        let pc := c.sp.pc + 4
        let b := c.W.block
        let s := ((c.advance 1).finish true).halt c.w (some pc)
        if dbg.getLsbD 1 then
          (s.warpsOf [b]).foldl (fun s w => if w = c.w then s else s.halt w none) s
        else s
      else c.trap { code := cBreak, pc := c.sp.pc + 4, addr := 0, aux := 0 }

/-- The warp that a DBGCMD names (R186): partition, logical cluster, core and slot. -/
def State.debugWarp (s : State) (p : Nat) (v : Word) : Option Nat :=
  let n := v.toNat
  match s.physCluster p (bits n 20 13) with
  | none => none
  | some pc =>
    (s.warps.find? fun e => e.2.core = 4 * pc + bits n 27 26 && e.2.slot = bits n 25 21 &&
      s.warpPart e.2 = p && ((tfind s.blocks e.2.block).map (·.resident)).getD false).map (·.1)

/-- A halted warp goes on. -/
def State.unhalt (s : State) (w : Nat) : State :=
  let s := s.reloadHalted w
  { s with warps := tmod s.warps w fun W => { W with halted := false, step := none } }

/-- DBGCMD RESUME (R186): releases the warp, and under BLOCKSTOP its block. -/
def execDebugResume (p : Nat) (v : Word) (s : State) : Out :=
  .next (match s.debugWarp p v with
    | none => s
    | some w =>
      match tfind s.warps w with
      | none => s
      | some W =>
        if W.halted then
          let ws := if (s.part p).dbgctl.getLsbD 1 then s.warpsOf [W.block] else [w]
          ws.foldl (fun s w => if ((tfind s.warps w).map (·.halted)).getD false then s.unhalt w else s) s
        else s)

/-- DBGCMD STEP (R186): one split of a halted warp may issue one instruction. -/
def execDebugStep (p : Nat) (v : Word) (s : State) : Out :=
  .next (match s.debugWarp p v with
    | none => s
    | some w =>
      let s1 := s.reloadHalted w
      match tfind s1.warps w with
      | none => s
      | some W =>
        let sp := bits v.toNat 29 28
        if W.halted && (W.split sp).isSome then { s1 with warps := tset s1.warps w { W with step := some sp } } else s)

/-- DBGCMD HALT (R186): the warp stops as a BREAK would, without TRAPC changing. -/
def execDebugHalt (p : Nat) (v : Word) (s : State) : Out :=
  .next (match s.debugWarp p v with
    | none => s
    | some w =>
      match tfind s.warps w with
      | none => s
      | some W =>
        if W.halted then s
        else
          let s := s.halt w none
          if (s.part p).dbgctl.getLsbD 1 then
            (s.warpsOf [W.block]).foldl (fun s w =>
              if ((tfind s.warps w).map (·.halted)).getD true then s else s.halt w none) s
          else s)

end Sys2Proof.Machine
end

