-- ==== Sys2Proof/Machine/Arith.lean ====
section
/-! DEFINITION. Vector arithmetic: VR 0x00-0x27, VF and VK (R126-R143). -/

namespace Sys2Proof.Machine

/-- Bits [63:32] of the signed product. -/
def mulHigh (a b : Word) : Word := ((a.signExtend 64 : DWord) * b.signExtend 64).extractLsb' 32 32
/-- Bits [63:32] of the unsigned product. -/
def mulHighU (a b : Word) : Word := ((a.setWidth 64 : DWord) * b.setWidth 64).extractLsb' 32 32
/-- Left shift by the whole count: 0 from 32 on (R126). -/
def shiftL (a b : Word) : Word := if b.toNat < 32 then a <<< b.toNat else 0
/-- Logical right shift by the whole count: 0 from 32 on (R126). -/
def shiftR (a b : Word) : Word := if b.toNat < 32 then a >>> b.toNat else 0
/-- Arithmetic right shift by the whole count: 32 sign bits from 32 on (R126). -/
def shiftA (a b : Word) : Word :=
  if b.toNat < 32 then a.sshiftRight b.toNat else if a.msb then 0xFFFFFFFF else 0
/-- Set bits. -/
def popCount (a : Word) : Word := BitVec.ofNat 32 ((List.range 32).countP fun i => a.getLsbD i)
/-- Leading zero bits; 32 for zero. -/
def leadingZeros (a : Word) : Word :=
  BitVec.ofNat 32 (if a = 0 then 32 else 31 - Nat.log2 a.toNat)

/-- R140: bit-field extract. -/
def bitExtract (a b x : Word) : Word :=
  let pos := b.toNat % 256
  let len := x.toNat % 256
  if len = 0 || 32 ≤ pos then 0
  else
    let len := min len (32 - pos)
    let m := 2 ^ len - 1
    let g := a.toNat / 2 ^ pos % 2 ^ len
    if x.getLsbD 8 && g.testBit (len - 1) then BitVec.ofNat 32 g ||| ~~~(BitVec.ofNat 32 m) else BitVec.ofNat 32 g

/-- R141: bit-field insert. -/
def bitInsert (a b x : Word) : Word :=
  let pos := x.toNat % 256
  let len := x.toNat / 256 % 256
  if len = 0 || 32 ≤ pos then b
  else
    let len := min len (32 - pos)
    let m : Word := BitVec.ofNat 32 ((2 ^ len - 1) * 2 ^ pos)
    (b &&& ~~~m) ||| ((a <<< pos) &&& m)

/-- R134: an SFU instruction is a long-latency producer; the operands wait for SFU_RESULT. -/
def sfuIssue (fn : Nat) (f : R2) (s : State) : Out :=
  run s fun c =>
    c.vIssue f.g 1 (group true f.a 1 f.wA) (group true f.d 1 true) noCause fun c P =>
      let c' := c.emptyV f.d
      let op : SfuOp := { warp := c.w, split := c.sp.id, frag := !c.sp.isLocal, fn := fn, d := f.d.toNat, lanes := P,
                          args := lanes32 fun l => c.v f.a l }
      (({ c' with s := { c'.s with sfus := tset c'.s.sfus c'.s.fresh op, fresh := c'.s.fresh + 1 } }).advance 1).finish false

/-- R137: CVT reads the issuing split's FMT (R103). -/
def cvtIssue (f : RCvt) (s : State) : Out :=
  run s fun c =>
    c.vIssue f.g 1 (group true f.a 1 f.wA) (group true f.d 1 true) noCause fun c P =>
      c.vWrite 1 f.d P fun l =>
        cvt f.k.toNat (Rnd.ofBits (c.sp.fmt.extractLsb' 12 2)) (c.sp.fmt.getLsbD 15) (c.v f.a l)

/-- IADD (R126): A + B. -/
def execIadd (f : R3) (s : State) : Out := vArith (fun a b _ => a + b) false f s

/-- ISUB (R126): A - B. -/
def execIsub (f : R3) (s : State) : Out := vArith (fun a b _ => a - b) false f s

/-- IMUL (R126): the low half of A * B. -/
def execImul (f : R3) (s : State) : Out := vArith (fun a b _ => a * b) false f s

/-- IMULH (R126): the high half of the signed product. -/
def execImulh (f : R3) (s : State) : Out := vArith (fun a b _ => mulHigh a b) false f s

/-- IMULHU (R126): the high half of the unsigned product. -/
def execImulhu (f : R3) (s : State) : Out := vArith (fun a b _ => mulHighU a b) false f s

/-- IMIN (R126): the smaller of S(A), S(B). -/
def execImin (f : R3) (s : State) : Out := vArith (fun a b _ => if a.slt b then a else b) false f s

/-- IMAX (R126): the larger of S(A), S(B). -/
def execImax (f : R3) (s : State) : Out := vArith (fun a b _ => if a.slt b then b else a) false f s

/-- IMINU (R126): the smaller of U(A), U(B). -/
def execIminu (f : R3) (s : State) : Out := vArith (fun a b _ => if a.ult b then a else b) false f s

/-- IMAXU (R126): the larger of U(A), U(B). -/
def execImaxu (f : R3) (s : State) : Out := vArith (fun a b _ => if a.ult b then b else a) false f s

/-- IABS (R126): the absolute value; 0x8000_0000 stays. -/
def execIabs (f : R2) (s : State) : Out := vArith1 (fun a => if a.slt 0 then -a else a) f s

/-- AND (R126): A AND B. -/
def execAnd (f : R3) (s : State) : Out := vArith (fun a b _ => a &&& b) false f s

/-- OR (R126): A OR B. -/
def execOr (f : R3) (s : State) : Out := vArith (fun a b _ => a ||| b) false f s

/-- XOR (R126): A XOR B. -/
def execXor (f : R3) (s : State) : Out := vArith (fun a b _ => a ^^^ b) false f s

/-- ANDN (R126): A AND NOT B. -/
def execAndn (f : R3) (s : State) : Out := vArith (fun a b _ => a &&& ~~~b) false f s

/-- SHL (R126): A shifted left by U(B), 0 from 32 on. -/
def execShl (f : R3) (s : State) : Out := vArith (fun a b _ => shiftL a b) false f s

/-- SHR (R126): A shifted right by U(B), 0 from 32 on. -/
def execShr (f : R3) (s : State) : Out := vArith (fun a b _ => shiftR a b) false f s

/-- SAR (R126): A shifted right arithmetically by U(B). -/
def execSar (f : R3) (s : State) : Out := vArith (fun a b _ => shiftA a b) false f s

/-- ROL (R126): A rotated left by B[4:0]. -/
def execRol (f : R3) (s : State) : Out := vArith (fun a b _ => a.rotateLeft (b.toNat % 32)) false f s

/-- POPC (R126): the number of set bits. -/
def execPopc (f : R2) (s : State) : Out := vArith1 (fun a => popCount a) f s

/-- CLZ (R126): the number of leading zero bits. -/
def execClz (f : R2) (s : State) : Out := vArith1 (fun a => leadingZeros a) f s

/-- BREV (R126): bit i moved to bit 31 - i. -/
def execBrev (f : R2) (s : State) : Out := vArith1 (fun a => a.reverse) f s

/-- LEAW (R127): A64 + sext64(B) * 4. -/
def execLeaw (f : R3) (s : State) : Out := vLea 4 f s

/-- LEAD (R127): A64 + sext64(B) * 8. -/
def execLead (f : R3) (s : State) : Out := vLea 8 f s

/-- ICMP (R128): the condition into a lane predicate. -/
def execIcmp (f : RCmp) (s : State) : Out := vCmp intCond f s

/-- FADD (R129): round(A + B). -/
def execFadd (f : R3) (s : State) : Out := vArith (fun a b _ => fadd a b) false f s

/-- FSUB (R129): round(A - B). -/
def execFsub (f : R3) (s : State) : Out := vArith (fun a b _ => fsub a b) false f s

/-- FMUL (R129): round(A * B). -/
def execFmul (f : R3) (s : State) : Out := vArith (fun a b _ => fmul a b) false f s

/-- FMAR (R129): round(D * A + B), rounded once. -/
def execFmar (f : R3) (s : State) : Out := vArith (fun a b x => ffma x a b) true f s

/-- FMIN (R130). -/
def execFmin (f : R3) (s : State) : Out := vArith (fun a b _ => fmin a b) false f s

/-- FMAX (R130). -/
def execFmax (f : R3) (s : State) : Out := vArith (fun a b _ => fmax a b) false f s

/-- FABS (R131): bit 31 cleared. -/
def execFabs (f : R2) (s : State) : Out := vArith1 (fun a => a &&& 0x7FFFFFFF) f s

/-- FNEG (R131): bit 31 inverted. -/
def execFneg (f : R2) (s : State) : Out := vArith1 (fun a => a ^^^ 0x80000000) f s

/-- FCMP (R132): the condition into a lane predicate. -/
def execFcmp (f : RCmp) (s : State) : Out := vCmp fpCond f s

/-- FRND (R133). -/
def execFrnd (f : RFrnd) (s : State) : Out := vArith1 (frnd f.m) (R2.mk f.g f.wA f.d f.a) s

/-- FRCP (R134): v[d] turns EMPTY; the result follows. -/
def execFrcp (f : R2) (s : State) : Out := sfuIssue 0 f s

/-- FRSQ (R134): v[d] turns EMPTY; the result follows. -/
def execFrsq (f : R2) (s : State) : Out := sfuIssue 1 f s

/-- FSQRT (R134): v[d] turns EMPTY; the result follows. -/
def execFsqrt (f : R2) (s : State) : Out := sfuIssue 2 f s

/-- FEXP2 (R134): v[d] turns EMPTY; the result follows. -/
def execFexp2 (f : R2) (s : State) : Out := sfuIssue 3 f s

/-- FLOG2 (R134): v[d] turns EMPTY; the result follows. -/
def execFlog2 (f : R2) (s : State) : Out := sfuIssue 4 f s

/-- FSIN (R134): v[d] turns EMPTY; the result follows. -/
def execFsin (f : R2) (s : State) : Out := sfuIssue 5 f s

/-- FCOS (R134): v[d] turns EMPTY; the result follows. -/
def execFcos (f : R2) (s : State) : Out := sfuIssue 6 f s

/-- FTANH (R134): v[d] turns EMPTY; the result follows. -/
def execFtanh (f : R2) (s : State) : Out := sfuIssue 7 f s

/-- HADD2 (R136). -/
def execHadd2 (f : R3) (s : State) : Out := vArith (fun a b _ => hadd2 a b) false f s

/-- HMUL2 (R136). -/
def execHmul2 (f : R3) (s : State) : Out := vArith (fun a b _ => hmul2 a b) false f s

/-- HMAX2 (R136). -/
def execHmax2 (f : R3) (s : State) : Out := vArith (fun a b _ => hmax2 a b) false f s

/-- CVT (R137): narrowing under FMT.RND and FMT.SAT. -/
def execCvt (f : RCvt) (s : State) : Out := cvtIssue f s

/-- K4DEC (R138). -/
def execK4dec (f : R3) (s : State) : Out := vArith (fun a b _ => k4dec a b) false f s

/-- IMAD (R139): A * B + C. -/
def execImad (f : F4) (s : State) : Out := vArith3 (fun a b x => a * b + x) f s

/-- BFX (R140). -/
def execBfx (f : F4) (s : State) : Out := vArith3 bitExtract f s

/-- BFI (R141). -/
def execBfi (f : F4) (s : State) : Out := vArith3 bitInsert f s

/-- SEL (R139): A when C is not zero, else B. -/
def execSel (f : F4) (s : State) : Out := vArith3 (fun a b x => if x = 0 then b else a) f s

/-- FFMA (R139): round(A * B + C), rounded once. -/
def execFfma (f : F4) (s : State) : Out := vArith3 ffma f s

/-- FFMAN (R139): round(C - A * B), rounded once. -/
def execFfman (f : F4) (s : State) : Out := vArith3 ffman f s

/-- HFMA2 (R139). -/
def execHfma2 (f : F4) (s : State) : Out := vArith3 hfma2 f s

/-- FADDK (R143): round(D + F). -/
def execFaddk (f : K) (s : State) : Out := vArithK (fun x i => fadd x i) immF true f s

/-- FMULK (R143): round(D * F). -/
def execFmulk (f : K) (s : State) : Out := vArithK (fun x i => fmul x i) immF true f s

/-- FMOVK (R143): F. -/
def execFmovk (f : K) (s : State) : Out := vArithK (fun _ i => i) immF false f s

/-- IADDK (R143): D + N. -/
def execIaddk (f : K) (s : State) : Out := vArithK (fun x i => x + i) immN true f s

/-- IMOVK (R143): N. -/
def execImovk (f : K) (s : State) : Out := vArithK (fun _ i => i) immN false f s

/-- ANDK (R143): D AND N. -/
def execAndk (f : K) (s : State) : Out := vArithK (fun x i => x &&& i) immN true f s

/-- ORK (R143): D OR N. -/
def execOrk (f : K) (s : State) : Out := vArithK (fun x i => x ||| i) immN true f s

/-- XORK (R143): D XOR N. -/
def execXork (f : K) (s : State) : Out := vArithK (fun x i => x ^^^ i) immN true f s

end Sys2Proof.Machine
end

