-- ==== Sys2Proof/Machine/Copy.lean ====
section
/-! DEFINITION. The copy engine (R248-R259): COPY, COPYX, COPYL and FILLZ, their units and their completion. -/

namespace Sys2Proof.Machine

/-! ## Descriptors -/

/-- A number of n bytes at offset a of a list of bytes. -/
def fieldAt (bs : List Byte) (a n : Nat) : Nat := leNat ((bs.drop a).take n)

/-- A descriptor's fields (R248). -/
def copyDesc (bs : List Byte) : CopyDesc :=
  { dir := fieldAt bs 0 1, swz := fieldAt bs 1 1, red := fieldAt bs 2 1 % 4, xtype := fieldAt bs 2 1 / 4 % 4,
    csmRef := fieldAt bs 8 4, tb := if fieldAt bs 0x0C 4 = 0xFFFFFFFF then none else some (fieldAt bs 0x0C 4),
    origin := (List.range 12).map fun i => (BitVec.ofNat 32 (fieldAt bs (0x10 + 4 * i) 4)).toInt,
    box := (List.range 12).map fun i => fieldAt bs (0x40 + 2 * i) 2,
    src := fieldAt bs 0x10 4, len := fieldAt bs 0x14 4 }

/-- R249: an invalid value or a zero field that is not zero, the BOX extents of DIR 0 and 1 apart. -/
def copyDescBad (bs : List Byte) : Bool :=
  let f := fieldAt bs
  2 < f 0 1 || 3 < f 1 1 || 16 ≤ f 2 1 || f 3 1 != 0 || f 8 4 % 128 != 0 || f 0x58 40 != 0 ||
  (if f 0 1 = 2 then
    f 4 4 != 0 || f 0x10 4 % 16 != 0 || f 0x14 4 % 16 != 0 || f 0x14 4 < 16 || 262144 < f 0x14 4 || f 0x18 40 != 0 ||
    f 0x40 24 != 0
   else 2 ^ 20 ≤ f 4 4)

/-- R252, R254, R255: what an instruction asks of DIR and RED; 0 COPY, 1 COPYX, 2 COPYL. -/
def copySuits (ins : Nat) (bs : List Byte) : Bool :=
  let dir := fieldAt bs 0 1
  let red := fieldAt bs 2 1
  if ins = 0 then dir ≤ 1 && red = 0
  else if ins = 1 then red % 4 != 0 && (dir = 1 || dir = 2)
  else dir = 2 && red = 0

/-- R249: BOX against the tensor's rank. -/
def boxBad (d : CopyDesc) (t : Tensor) : Bool :=
  (d.box.take t.rank).any (· == 0) || (d.box.drop t.rank).any (· != 0)

/-- R250: bytes of the CSM side. -/
def copyExtent (d : CopyDesc) (t : Option Tensor) : Nat :=
  match t with
  | none => d.len
  | some t => t.tileStride * prod (d.box.take t.rank)

/-- R251: where byte o of the linear layout lies. -/
def swizzle (swz o : Nat) : Nat := o ^^^ (((o / 128) &&& (2 ^ swz - 1)) * 16)

/-- A CSM range that an engine instruction names. -/
def Ctx.rangeCauses (c : Ctx) (ref n : Nat) : List Met :=
  if (c.csmPlace ref n).isSome then [] else [(cCsmBound, 0, localBase + ref)]

/-- The barrier that an operation names, if any: its bounds are judged with the CSM ranges, its reserved bits last
(DEDUCED, log 89). -/
def Ctx.tbRefCauses (c : Ctx) (tb : Option Nat) : List Met :=
  match tb with
  | none => []
  | some r => c.refCauses r 16 16

/-- R253: a reserved bit of the named barrier is set. -/
def Ctx.tbPoisoned (c : Ctx) (tb : Option Nat) : List Met :=
  match tb with
  | none => []
  | some r => let p := c.csmAt r; if tbBad (c.s.granule p.1 p.2) then [(cProt, 0x12, 0)] else []

/-- The first failure of a list of checks in order. -/
def firstFailure : List (List Met) → List Met
  | [] => []
  | [] :: zs => firstFailure zs
  | (z :: _) :: _ => [z]

/-- PROT with reason 0x10 if a check fails. -/
def prot10 (bad : Bool) : List Met := if bad then [(cProt, 0x10, 0)] else []

/-- Two ranges of one slice share a byte (R249). -/
def Ctx.rangesMeet (c : Ctx) (a b n : Nat) : Bool :=
  let x := c.csmAt a
  let y := c.csmAt b
  x.1 = y.1 && decide (x.2 < y.2 + n) && decide (y.2 < x.2 + n)

/-- The tensor that a descriptor names. -/
def Ctx.copyTensor (c : Ctx) (bs : List Byte) : Option Tensor :=
  if fieldAt bs 0 1 = 2 then none else c.tensor (fieldAt bs 4 4 % 2 ^ 20)

/-- R249: the issue checks, in the order of its rows; the reference has the alignment of its 128 bytes (DEDUCED, log 92). -/
def Ctx.copyCauses (c : Ctx) (ins ref : Nat) : List Met :=
  match c.refCauses ref 128 128 with
  | z :: zs => (lowest (z :: zs)).toList
  | [] =>
    let p := c.csmAt ref
    let bs := c.s.csmRead p.1 p.2 128
    let d := copyDesc bs
    let t := c.copyTensor bs
    let ext := copyExtent d t
    firstFailure [
      prot10 (copyDescBad bs),
      prot10 !(copySuits ins bs),
      (if d.dir != 2 && t.isNone then [(cProt, 0x30, 0)] else []),
      prot10 (match t with | some t => boxBad d t || (ins = 1 && 2 < t.format) | none => false),
      prot10 (d.swz != 0 && (d.csmRef % 1024 != 0 || ext % 1024 != 0)),
      c.rangeCauses d.csmRef ext,
      (if d.dir = 2 then c.rangeCauses d.src d.len else []),
      c.tbRefCauses d.tb,
      prot10 (d.dir = 2 && c.rangesMeet d.csmRef d.src d.len),
      c.tbPoisoned d.tb]

/-! ## Issue -/

/-- The cluster of the issuing split. -/
def Ctx.cluster (c : Ctx) : Nat := coreCluster c.W.core

/-- The copy engine's queue of 32 is full. -/
def Ctx.copyFull (c : Ctx) : Bool := decide (32 ≤ (c.s.cluster c.cluster).copyQ.length)

/-- Enters the operation just made in the copy engine's queue. -/
def State.enqCopy (s : State) (cl n : Nat) : State :=
  let x := s.cluster cl
  s.setCluster cl { x with copyQ := x.copyQ ++ [n] }

/-- R216: a range is EMPTY from issue. -/
def State.markRange (s : State) (b ref n : Nat) (empty : Bool) : State :=
  match s.csmOf b ref n with
  | none => s
  | some (core, a) => s.csmMark core (a / 16) (n / 16) empty

/-- Changes the barrier at a reference. -/
def State.modTb (s : State) (b : Nat) (tb : Option Nat) (f : Nat → Nat) : State :=
  match tb.bind fun r => s.csmOf b r 16 with
  | none => s
  | some p => s.putGranule p (f (s.granule p.1 p.2))

/-- COPY, COPYX and COPYL (R248-R255). -/
def copyIssue (ins : Nat) (f : E2) (s : State) : Out :=
  engIssue false f.d (usrc f.a) (fun c => c.copyCauses ins (c.sreg f.a).toNat) (busy := Ctx.copyFull) (s := s) (k := fun c =>
      let p := c.csmAt (c.sreg f.a).toNat
      let bs := c.s.csmRead p.1 p.2 128
      let d := copyDesc bs
      let t := c.copyTensor bs
      let n := c.nextOp
      let cl := c.cluster
      let b := c.W.block
      let c := c.startOp (.copy d t) f.d
      let s := c.s.enqCopy cl n
      let s := s.modTb b d.tb fun g => tbCopyTag g d.swz
      let s := if d.dir = 1 then s else s.markRange b d.csmRef (copyExtent d t) true
      ({ c with s := s }.advance 1).finish true)

/-- COPY (R252): a tensor LOAD or STORE. -/
def execCopy (f : E2) (s : State) : Out := copyIssue 0 f s
/-- COPYX (R254): a reducing copy. -/
def execCopyx (f : E2) (s : State) : Out := copyIssue 1 f s
/-- COPYL (R255): CSM to CSM. -/
def execCopyl (f : E2) (s : State) : Out := copyIssue 2 f s

/-- The barrier operand of FILLZ. -/
def tbOperand (v : Word) : Option Nat := if v = 0xFFFFFFFF then none else some v.toNat

/-- FILLZ (R256). A misaligned reference raises MISALIGN before the other operands are judged (DEDUCED, log 94). -/
def execFillz (f : E4) (s : State) : Out :=
  engIssue false f.d (usrc f.a ++ usrc f.b ++ usrc f.c) (fun c =>
    let ref := (c.sreg f.a).toNat
    let n := (c.sreg f.b).toNat
    let tb := tbOperand (c.sreg f.c)
    firstFailure [
      (if ref % 16 = 0 then [] else [(cMisalign, 0, localBase + ref)]),
      prot10 (n % 16 != 0 || n < 16 || 262144 < n),
      c.rangeCauses ref n,
      c.tbRefCauses tb,
      c.tbPoisoned tb])
    (early := [(usrc f.a, fun c => if (c.sreg f.a).toNat % 16 = 0 then [] else [(cMisalign, 0, localBase + (c.sreg f.a).toNat)]),
      (usrc f.b, fun c => let n := (c.sreg f.b).toNat; prot10 (n % 16 != 0 || n < 16 || 262144 < n))])
    (busy := Ctx.copyFull) (s := s) (k := fun c =>
      let ref := (c.sreg f.a).toNat
      let len := (c.sreg f.b).toNat
      let tb := tbOperand (c.sreg f.c)
      let n := c.nextOp
      let cl := c.cluster
      let b := c.W.block
      let c := c.startOp (.fillz ref len tb) f.d
      ({ c with s := (c.s.enqCopy cl n).markRange b ref len true }.advance 1).finish true)

/-! ## Units -/

/-- Reference, swizzle, bytes and barrier of the CSM side; whether the operation writes it. -/
structure CsmSide where
  ref : Nat
  swz : Nat
  ext : Nat
  tb : Option Nat
  writes : Bool
  deriving DecidableEq, Repr

/-- The CSM side of a copy-engine operation. -/
def OpKind.side : OpKind → Option CsmSide
  | .copy d t => some { ref := d.csmRef, swz := d.swz, ext := copyExtent d t, tb := d.tb, writes := d.dir != 1 }
  | .fillz ref len tb => some { ref := ref, swz := 0, ext := len, tb := tb, writes := true }
  | _ => none

/-- Units of a side: a final partial unit counts (R253). -/
def CsmSide.units (x : CsmSide) : Nat := ceilDiv x.ext 128

/-- Bytes of unit u. -/
def CsmSide.unitLen (x : CsmSide) (u : Nat) : Nat := min 128 (x.ext - 128 * u)

/-- Reads unit u in linear order. -/
def State.sideRead (s : State) (b : Nat) (x : CsmSide) (u : Nat) : List Byte :=
  match s.csmOf b x.ref x.ext with
  | none => []
  | some (core, a) =>
    (List.range (x.unitLen u / 16)).flatMap fun i => s.csmRead core (a + swizzle x.swz (128 * u + 16 * i)) 16

/-- The granules of unit u become FULL with new bytes, or, with none, keep their old ones (R216, R257). -/
def State.sideLand (s : State) (b : Nat) (x : CsmSide) (u : Nat) (bs : Option (List Byte)) : State :=
  match s.csmOf b x.ref x.ext with
  | none => s
  | some (core, a) =>
    (List.range (x.unitLen u / 16)).foldl (fun s i =>
      let at_ := a + swizzle x.swz (128 * u + 16 * i)
      let s := match bs with
        | none => s
        | some bs => s.csmWrite core at_ ((bs.drop (16 * i)).take 16)
      s.csmMark core (at_ / 16) 1 false) s

/-- Notes that unit u is delivered and decrements SECTORS (R253). -/
def State.unitDone (s : State) (n b u : Nat) (tb : Option Nat) : State :=
  (s.modOp n fun o => { o with unitsDone := u :: o.unitsDone, granted := true }).modTb b tb tbUnit

/-- R250: the tile of unit u and the unit's offset in it; none beyond the tensor's grid. -/
def copyTile (asid : Nat) (d : CopyDesc) (t : Tensor) (u : Nat) : Option Tile × Nat :=
  let per := t.tileStride / 128
  let box := d.box.take t.rank
  let at_ := List.zipWith (fun (o : Int) (i : Nat) => o + i) (d.origin.take t.rank) (digits box (u / per))
  let inside := (List.zipWith (fun (x : Int) (g : Nat) => decide (0 ≤ x) && decide (x < g)) at_ t.grid).all fun b => b
  (if inside then some (tileOf asid t (undigits t.grid (at_.map Int.toNat))) else none, u % per * 128)

/-- R254: the element of a reduction, by format code (3: INT32): 1 ADD, 2 MIN, 3 MAX. -/
def redElem (fmt op old src : Nat) : Nat :=
  if fmt = 3 then
    let a : Word := BitVec.ofNat 32 old
    let b : Word := BitVec.ofNat 32 src
    (if op = 1 then a + b else if op = 2 then (if b.slt a then b else a) else (if a.slt b then b else a)).toNat
  else
    let F := if fmt = 0 then fp32 else if fmt = 1 then bf16 else fp16
    let nan := if fmt = 0 then nan32 else if fmt = 1 then 0x7FC0 else nan16
    if op = 1 then F.roundRNE nan ((F.decode old).add (F.decode src))
    else fpick F nan (op = 3) old src

/-- Reduces two runs of elements of n bytes. -/
def redBytes (fmt op n : Nat) : Nat → List Byte → List Byte → List Byte
  | 0, _, _ => []
  | k + 1, old, src =>
    leBytes n (redElem fmt op (leNat (old.take n)) (leNat (src.take n))) ++
      redBytes fmt op n k (old.drop n) (src.drop n)

/-- Bytes of an element of a reduction. -/
def redSize (fmt : Nat) : Nat := if fmt = 1 || fmt = 2 then 2 else 4

/-- R451: whole granules of a sector that lie side by side in memory travel as one run. -/
def redRuns (x : Tile) : List (Nat × List Byte) → List (Nat × List Byte)
  | [] => []
  | (g, bs) :: rest =>
    match redRuns x rest with
    | [] => [(g, bs)]
    | (h, cs) :: more =>
      let a := x.granule g
      let b := x.granule h
      if h = g + 1 && h / 8 = g / 8 && a.2 = 32 && b.2 = 32 && b.1 = a.1 + 16 && b.1 / 65536 = a.1 / 65536 then
        (g, bs ++ cs) :: more
      else (g, bs) :: (h, cs) :: more

/-- Tiles of a copy's box. -/
def boxTiles (d : CopyDesc) (t : Tensor) : Nat := prod (d.box.take t.rank)

/-- The units of an operation that read the sector at an offset of a tile: those of a COPY LOAD or of an MCAST. -/
def EngOp.unitsAt (o : EngOp) (x : Tile) (off : Nat) : List Nat :=
  let here := fun (y : Option Tile) => (y.map fun y => decide (y.asid = x.asid) && decide (y.key = x.key)).getD false
  match o.kind with
  | .copy d (some t) =>
    let per := t.tileStride / 128
    if d.dir = 0 then
      ((List.range (boxTiles d t)).filter fun i => here (copyTile o.asid d t (i * per)).1).map fun i => i * per + off / 128
    else []
  | .mcast t first k _ _ =>
    let per := t.tileStride / 128
    ((List.range k).filter fun i => here (some (tileOf o.asid t (first + i)))).map fun i => i * per + off / 128
  | _ => []

/-- An operation that may start a further unit. -/
def EngOp.active (o : EngOp) : Bool := o.status.isNone && !o.cancelled && !o.faulted

/-- Units of an operation that still want the sector at an offset of a tile. -/
def EngOp.wants (o : EngOp) (x : Tile) (off : Nat) : List Nat :=
  (o.unitsAt x off).filter fun u => !o.unitsDone.contains u && (tfind o.sent u).isNone

/-- Sectors of a tile. -/
def Tile.sectors (x : Tile) : Nat := ceilDiv x.bytes 128

/-- An operation that goes on and wants some sector of a tile. -/
def State.wantsTile (s : State) (x : Tile) (k : Nat) : Bool :=
  match tfind s.ops k with
  | none => false
  | some o => o.active && (List.range x.sectors).any fun i => !(o.wants x (128 * i)).isEmpty

/-- A send list is one for a tile at its home and a floor. -/
def SendList.isAt (l : SendList) (h : Place0) (floor : Option Nat) : Bool :=
  l.slice = h.slice && l.asid = h.asid && l.tensor = h.tensor && l.tile = h.tile && l.gen = h.gen && l.floor = floor

/-- The home of a tile, and the floor that its send list has: that of an OPEN tensor's requests (R314). -/
def State.sendHome (s : State) (o : EngOp) (x : Tile) : Place0 × Option Nat :=
  (homeOf s (s.opReq o).part x, if (x.t.map (·.isOpen)).getD false then some o.floor else none)

/-- R343: the send list that serves operation n at a tile: the one that it is on, one whose last sector has still to be sent,
which it joins, or a new one. -/
def State.sendList (s : State) (n : Nat) (o : EngOp) (x : Tile) : SendList :=
  let z := s.sendHome o x
  let ls := (s.region z.1.region).sends.filter fun l => l.isAt z.1 z.2
  match ls.find? fun l => l.members.contains n with
  | some l => l
  | none =>
    match ls.find? fun l => decide (l.sent.length < x.sectors) && l.members.any (s.wantsTile x) with
    | some l => { l with members := l.members ++ [n] }
    | none => { slice := z.1.slice, asid := z.1.asid, tensor := z.1.tensor, tile := z.1.tile, gen := z.1.gen, floor := z.2,
                members := [n], sent := [] }

/-- A send list takes its place at the slice; those whose operations are gone leave. -/
def State.putSends (s : State) (o : EngOp) (x : Tile) (l : SendList) : State :=
  let z := s.sendHome o x
  let R := s.region z.1.region
  let old := R.sends.filter fun k =>
    !(k.isAt z.1 z.2 && k.members.any l.members.contains) && k.members.any fun m => (tfind s.ops m).isSome
  s.setRegion z.1.region { R with sends := l :: old }

/-- A sector that the slice sends reaches another operation on the list that wants it, as its own access: a denied tile gives
it zeros (R336, R342). -/
def State.sendTo (x : Tile) (off len : Nat) (bs : List Byte) (s : State) (k : Nat) : State :=
  match tfind s.ops k with
  | none => s
  | some B =>
    let us := B.wants x off
    let put := fun (s : State) (bs : List Byte) =>
      s.modOp k fun B => { B with sent := us.foldl (fun t u => tset t u bs) B.sent }
    if !B.active || us.isEmpty then s
    else
      match s.opReadAt k B x off len with
      | .ok s _ => put s bs
      | .denied s => put s (List.replicate 128 0)
      | .wait _ => s

/-- Whether a tile lies behind a fabric port. -/
def State.tileOutside (s : State) (o : EngOp) (x : Tile) : Bool :=
  let q := s.opReq o
  let h := homeOf s q.part x
  match translateAll s h.region h.slice q x.pages with
  | .inl ps => (tileRoutes s q x ps false).any Route.outside
  | .inr _ => false

/-- R342, R343: the sector at an offset of a tile for operation n, with the state after it, or the state while it must wait.
It is sent to every operation on the tile's list; one that the list had sent before n joined is resent to n alone, after the
others have been sent. -/
def State.sector (s : State) (n : Nat) (o : EngOp) (x : Tile) (off len : Nat) : Sum (State × List Byte) State :=
  let l := s.sendList n o x
  let whole := fun (bs : List Byte) => bs ++ List.replicate (128 - len) 0
  let zeros := List.replicate 128 0
  if s.tileOutside o x then
    match s.opRead n o x off len with
    | .ok s bs => .inl (s, whole bs)
    | .denied s => .inl (s, zeros)
    | .wait s => .inr s
  else if l.sent.contains off && decide (l.sent.length < x.sectors) then .inr (s.putSends o x l)
  else
    match s.opRead n o x off len with
    | .ok s bs =>
      .inl (if l.sent.contains off then s.putSends o x l
            else (l.members.filter (· != n)).foldl (State.sendTo x off len (whole bs))
              (s.putSends o x { l with sent := off :: l.sent }), whole bs)
    | .denied s => .inl (s.putSends o x l, zeros)
    | .wait s => .inr s

/-- R254 for a tile: read, reduce and write as one; through a port as REDUCE flits (R447), and into a gate's buffer (R430). -/
def State.opReduce (s : State) (n : Nat) (o : EngOp) (x : Tile) (fmt red off : Nat) (src : List Byte) : Got :=
  let q := s.opReq o
  let reduce := fun (old bs : List Byte) => redBytes fmt red (redSize fmt) (bs.length / redSize fmt) old bs
  let runs := redRuns x (granules off src)
  let far := fun (s : State) => farWrite n o q x (some (red + 4 * fmt, reduce)) runs s true
  if (s.op n o).begun x runs then far s
  else
  match serveTile s q x .atomic (.read off src.length) with
  | .ok s old => s.opWrite n o x off (reduce old src)
  | .denied s => .denied s
  | z => if z.far.isSome then far s else .wait (s.opServed n o true 0 z)

/-- Unit u of the CSM side that an operation reads: as it stands, or as it stood when the block was saved (R258). -/
def State.opSide (s : State) (o : EngOp) (x : CsmSide) (u : Nat) : List Byte :=
  match o.csm with
  | some bs => (bs.drop (128 * u)).take (x.unitLen u)
  | none => s.sideRead o.block x u

/-- The kind of the entries that a copy makes in its block's trace (R375). -/
def CopyDesc.traceKind (d : CopyDesc) : Nat := if d.dir = 0 then 0 else if d.red = 0 then 1 else 2

/-- Tile i of a copy's box (R376). -/
def boxTile (asid : Nat) (d : CopyDesc) (t : Tensor) (i : Nat) : Option Tile := (copyTile asid d t (i * (t.tileStride / 128))).1

/-- A copy meets the tile of unit u: what it has met of its box so far enters its block's trace (R375, R376). -/
def State.meetTile (s : State) (n : Nat) (o : EngOp) (d : CopyDesc) (t : Tensor) (u : Nat) : State :=
  (s.touch n o (u / (t.tileStride / 128))).presentMore n o d.traceKind (boxTiles d t) (boxTile o.asid d t)

/-- The other tiles that a copy has met enter its block's trace at its end (R375, R376). -/
def State.presentCopy (s : State) (o : EngOp) : State :=
  match o.kind with
  | .copy d (some t) => s.presentTiles o d.traceKind (boxTiles d t) (boxTile o.asid d t)
  | _ => s

/-- Unit u of a copy operation. A load writes the bytes of a unit beyond its tile as zeros (DEDUCED, log 93). -/
def State.copyUnit (s : State) (n : Nat) (o : EngOp) (d : CopyDesc) (t : Option Tensor) (x : CsmSide) (u : Nat) : State :=
  let land := fun (s : State) (bs : List Byte) => (s.sideLand o.block x u (some bs)).unitDone n o.block u x.tb
  match t with
  | none =>
    let src := s.sideRead o.block { x with ref := d.src, swz := 0 } u
    if d.red = 0 then land s src
    else
      let old := s.sideRead o.block x u
      land s (redBytes d.xtype d.red (redSize d.xtype) (src.length / redSize d.xtype) old src)
  | some t =>
    let y := copyTile o.asid d t u
    match y.1 with
    | none => if d.dir = 0 then land s (List.replicate 128 0) else s.unitDone n o.block u x.tb
    | some tile =>
      let len := min 128 (tile.bytes - y.2)
      let met := fun (s : State) => s.meetTile n o d t u
      if d.dir = 0 then
        match tfind o.sent u with
        | some bs => land (met s) bs
        | none =>
          match s.sector n o tile y.2 len with
          | .inl r => land (met r.1) r.2
          | .inr s => s
      else
        let src := (s.opSide o x u).take len
        match (if d.red = 0 then s.opWrite n o tile y.2 src else s.opReduce n o tile t.format d.red y.2 src) with
        | .ok s _ => (met s).unitDone n o.block u x.tb
        | .denied s => (met s).opStatus n cTagDeny
        | .wait s => s

/-- COPY_UNIT_DELIVERED (R253): one 128-byte unit lands. -/
def execCopyUnitDelivered (n u : Nat) (s : State) : Out :=
  .next (match tfind s.ops n with
    | none => s
    | some o =>
      match o.kind.side with
      | none => s
      | some x =>
        if o.active && decide (u < x.units) && !o.unitsDone.contains u then
          let s := s.modOp n fun o => { o with granted := true }
          match o.kind with
          | .copy d t => s.copyUnit n o d t x u
          | _ => (s.sideLand o.block x u (some (List.replicate (x.unitLen u) 0))).unitDone n o.block u x.tb
        else s)

/-- R257: an early end takes every undelivered unit from SECTORS, sets TAG 15 and leaves the old bytes FULL. -/
def State.endUnits (s : State) (o : EngOp) (x : CsmSide) : State :=
  let left := (List.range x.units).filter fun u => !o.unitsDone.contains u
  let s := left.foldl (fun s u =>
    let s := if x.writes then s.sideLand o.block x u none else s
    s.modTb o.block x.tb tbUnit) s
  if left.isEmpty then s else s.modTb o.block x.tb fun g => tbTag g 15

/-- COPY_OP_COMPLETE (R257): every unit is delivered, or the operation ends early. -/
def execCopyOpComplete (n : Nat) (s : State) : Out :=
  .next (match tfind s.ops n with
    | none => s
    | some o =>
      match o.kind.side with
      | none => s
      | some x =>
        let all := (List.range x.units).all fun u => o.unitsDone.contains u
        if o.status.isNone && !all && !o.cancelled then s
        else
          let st := match o.status with | some st => st | none => if all then 0 else 0x20
          ((s.endUnits o x).presentCopy o).finishOp n 0 st o.unitsDone.length)

/-- What an operation has still to deliver or to do (R257, R427): units of a copy with a source, or all of another that has been
granted. -/
def EngOp.unfinished (o : EngOp) : Bool :=
  match o.kind with
  | .copy d t => (List.range (ceilDiv (copyExtent d t) 128)).any fun u => !o.unitsDone.contains u
  | .fillz _ _ _ => false
  | .mcast t _ k dests _ => o.granted && (List.range (k * t.tileStride / 128 * dests.length)).any fun u => !o.unitsDone.contains u
  | _ => o.granted

/-- An uncorrectable error met by an engine operation in the data that it still reads: STATUS 0x0D; a page concerned is no
longer VALID (R257, R297, R427, R467). -/
def engineError (s : State) (op : Nat) (page : Option Nat) : State :=
  match tfind s.ops op with
  | none => s
  | some o =>
    if o.unfinished && o.status.isNone then
      let cl := s.cluster (coreCluster o.core)
      let s := match page with
        | none => s
        | some k => s.setCluster (coreCluster o.core)
            { cl with pages := tmod cl.pages k fun (x : OsPage) => { x with valid := false } }
      { s with ops := tmod s.ops op fun (o : EngOp) => { o with status := some cSoft } }
    else s

end Sys2Proof.Machine
end

