-- ==== Sys2Proof/Machine/Cross.lean ====
section
/-! DEFINITION. Cross-lane instructions (R160-R163), reductions (R165-R167), shared register ranges (R168), constant
banks (R142, R235, R236) and futures (R171, R172). -/

namespace Sys2Proof.Machine

/-! ## Cross-lane -/

/-- R160: what a lane reads from lane j of a register: the value and the OUTMASK flag. -/
def pickLane (mask : Mask) (xs : List Word) (j : Int) : Word × Bool :=
  if validLane mask j then (laneOf xs j.toNat, false) else (0, true)

/-- Writes the OUTMASK flags of the lanes of P into the predicates their selectors name (R161). -/
def Ctx.setFlags (c : Ctx) (P : Mask) (sel : Nat → Word) (flag : Nat → Bool) : Ctx :=
  (List.range 7).foldl (fun c n =>
    let Q := P &&& maskOf fun l => (sel l).extractLsb' 8 3 == BitVec.ofNat 3 n
    if Q = 0 then c else c.setP (BitVec.ofNat 3 n) Q flag) c

/-- R162: a shuffle; src gives the source lane of lane l with selector bits [4:0]. -/
def shflIssue (src : Nat → Nat → Int) (f : R3) (s : State) : Out :=
  run s fun c =>
    c.vIssue f.g (bWords f.b) (group true f.a 1 f.wA ++ bSrcs f.b true) (group true f.d 1 true) noCause fun c P =>
      let xs := c.vlanes f.a
      let sel := fun l => c.vB f.b l
      let r := fun l => pickLane c.sp.mask xs (src l (bits (sel l).toNat 4 0))
      ((c.setV f.d P fun l => (r l).1).setFlags P sel fun l => (r l).2).advance (bWords f.b) |>.finish false

/-- SHFLI (R162). -/
def execShfli (f : R3) (s : State) : Out := shflIssue (fun _ b => b) f s
/-- SHFLU (R162). -/
def execShflu (f : R3) (s : State) : Out := shflIssue (fun l b => l - b) f s
/-- SHFLD (R162). -/
def execShfld (f : R3) (s : State) : Out := shflIssue (fun l b => l + b) f s
/-- SHFLX (R162). -/
def execShflx (f : R3) (s : State) : Out := shflIssue (fun l b => ((l ^^^ b : Nat) : Int)) f s

/-- READLANE (R163). -/
def execReadlane (f : R3) (s : State) : Out :=
  run s fun c =>
    c.vIssue f.g (bWords f.b) (group true f.a 1 f.wA ++ bSrcs f.b true) (group false f.d 1 true) noCause fun c P =>
      let l0 := (lanesOf P).headD 0
      let b := c.vB f.b l0
      let r := pickLane c.sp.mask (c.vlanes f.a) (bits b.toNat 4 0)
      ((c.setS f.d r.1).setQ (b.extractLsb' 8 3) r.2).advance (bWords f.b) |>.finish false

/-- BCAST (R163). -/
def execBcast (f : R2) (s : State) : Out :=
  run s fun c =>
    c.vIssue f.g 1 (group false f.a 1 f.wA) (group true f.d 1 true) noCause fun c P =>
      let x := c.sreg f.a
      c.vWrite 1 f.d P fun _ => x

/-- VOTE (R163). -/
def execVote (f : Vote) (s : State) : Out :=
  run s fun c =>
    c.vIssue f.g 1 [] [] noCause fun c P => ((c.setQ f.p (voteFn f.m P (c.pmask f.t))).advance 1).finish false

/-- BALLOT (R163). -/
def execBallot (f : Ballot) (s : State) : Out :=
  run s fun c =>
    c.vIssue f.g 1 [] (group false f.d 1 true) noCause fun c P =>
      ((c.setS f.d (P &&& c.pmask f.t)).advance 1).finish false

/-- PLOP (R163). -/
def execPlop (f : PLop) (s : State) : Out :=
  run s fun c =>
    c.vIssue f.g 1 [] [] noCause fun c P =>
      let x := c.pmask f.t
      let y := c.pmask f.u
      ((c.setP f.p P fun l => predFn f.f (x.getLsbD l) (y.getLsbD l)).advance 1).finish false

/-! ## Reductions -/

/-- Left fold over the 32 lanes, with the identity where a lane does not participate (R165). -/
def reduceLanes (op : Word → Word → Word) (e : Word) (P : Mask) (x : Nat → Word) : Word :=
  (List.range 32).foldl (fun a l => op a (if P.getLsbD l then x l else e)) e

/-- Adds neighbours: one level of the tree (R166). -/
def pairUp (add : Word → Word → Word) : List Word → List Word
  | a :: b :: xs => add a b :: pairUp add xs
  | xs => xs

/-- R166: the tree sum of 32 values. -/
def treeSum (xs : List Word) : Word :=
  let y := fun zs => pairUp fadd zs
  (y (y (y (y (y xs))))).headD 0

/-- R165: a reduction; its value is written when it completes. -/
def redIssue (op : Mask → (Nat → Word) → Word) (f : Red) (s : State) : Out :=
  run s fun c =>
    c.atHome fun c =>
      c.vIssue f.g 1 (group true f.a 1 f.wA) [] noCause fun c P =>
        let v := op P fun l => c.v f.a l
        (({ c with W := { c.W with reds := c.W.reds ++ [(f.n.toNat, v)] } }).advance 1).finish false

/-- REDADD (R165). -/
def execRedadd (f : Red) (s : State) : Out := redIssue (fun P x => reduceLanes (· + ·) 0 P x) f s
/-- REDMIN (R165). -/
def execRedmin (f : Red) (s : State) : Out :=
  redIssue (fun P x => reduceLanes (fun a b => if b.slt a then b else a) 0x7FFFFFFF P x) f s
/-- REDMAX (R165). -/
def execRedmax (f : Red) (s : State) : Out :=
  redIssue (fun P x => reduceLanes (fun a b => if a.slt b then b else a) 0x80000000 P x) f s
/-- REDFADD (R166): -0 stands in the lanes that do not participate. -/
def execRedfadd (f : Red) (s : State) : Out :=
  redIssue (fun P x => treeSum (lanes32 fun l => if P.getLsbD l then x l else 0x80000000)) f s

/-- REDUCTION_COMPLETE (R165): the oldest reduction into sq n of a warp writes its value. -/
def execReductionComplete (w n : Nat) (s : State) : Out :=
  .next (match tfind s.warps w with
    | none => s
    | some W =>
      match W.reds.find? fun e => e.1 = n with
      | none => s
      | some e =>
        let old := tget ⟨0, 0⟩ W.sc.sq n
        s.putWarp w { W with reds := W.reds.erase e,
                             sc := { W.sc with sq := tset W.sc.sq n ⟨e.2, old.seq + 1⟩ } })

/-- SQRD (R167). -/
def execSqrd (f : SqRdOps) (s : State) : Out :=
  run s fun c =>
    c.uIssue f.g false (bWords f.b) true (bSrcs f.b false) (group false f.d 1 true) noCause fun c =>
      let q := tget ⟨0, 0⟩ c.scal.sq f.n.toNat
      if q.seq = (c.sB f.b).extractLsb' 0 16 then ((c.setS f.d q.value).advance (bWords f.b)).finish true
      else c.stall

/-! ## Shared ranges (R168) -/

/-- The warp of a block with a WARPID. -/
def State.blockWarp (s : State) (b idx : Nat) : Option Nat :=
  (s.warps.find? fun e => e.2.block = b && e.2.idx = idx).map (·.1)

/-- Copies the shared registers of the lower-numbered warp to the higher one when the mapping begins. -/
def shareRegs (f n : Nat) (L H : Warp) : Warp :=
  ((List.range n).map (f + ·)).foldl (syncReg L) H

/-- A split goes on past the SHRMAP at which it waited. -/
def Warp.passShare (W : Warp) (sp : Nat) : Warp :=
  match W.split sp with
  | none => W
  | some X => (W.setSplit { X with pc := X.pc + 4 }).settle settleFuel sp

/-- Both SHRMAPs agree: the range is mapped and both warps go on; sp is the peer's split that waits. -/
def Ctx.shareNow (c : Ctx) (pw : Nat) (P : Warp) (f n sp : Nat) : State :=
  let W := { c.W with shr := some (f, n, pw), shrReq := none }
  let P := { P with shr := some (f, n, c.w), shrReq := none }
  let W := if W.idx < P.idx then W else shareRegs f n P W
  let P := (if W.idx < P.idx then shareRegs f n W P else P).passShare sp
  let s := ({ c with W := W }.advance 1).finish true
  { s with warps := tset s.warps pw P }

/-- A SHRMAP at its rendezvous (R168). A request of count 0 marks a mismatch, which the waiting warp raises too. -/
def Ctx.meet (c : Ctx) (pw : Nat) (P : Warp) (f n : Nat) : State :=
  let mine : ShrReq := { first := f, count := n, peer := P.idx, split := c.sp.id, pc := c.sp.pc }
  let clear := { c with W := { c.W with shrReq := none } }
  if c.W.shrReq = some { mine with count := 0 } then clear.raise cProt 0x05
  else if c.W.shr.isSome || P.shr.isSome then clear.raise cProt 0x05
  else
    match P.shrLive.filter fun r => r.peer = c.W.idx && r.count != 0 with
    | some r =>
      if r.first = f && r.count = n then c.shareNow pw P f n r.split
      else if c.s.sfuBusy c.w then c.s
      else { clear with s := { c.s with warps := tset c.s.warps pw { P with shrReq := some { r with count := 0 } } } }.raise cProt 0x05
    | none => { c with W := { c.W with shrReq := some mine } }.put

/-- SHRMAP (R168): it waits for its peer's SHRMAP. -/
def execShrmap (f : Shr) (s : State) : Out :=
  run s fun c =>
    c.atHome fun c =>
      match f with
      | .unmap g =>
        c.uIssue g false 1 false [] [] noCause fun c => ((c.advance 1).finish true).unshare c.w
      | .map g wA fst a cnt =>
        let peer := fun (c : Ctx) => c.s.blockWarp c.W.block (bits (c.sreg a).toNat 4 0)
        c.uIssue g false 1 false (group false a 1 wA) []
          (fun c => if (peer c).isNone || peer c = some c.w then [(cProt, 0x05, 0)] else [])
          fun c =>
            match peer c with
            | none => c.s
            | some pw =>
              match tfind c.s.warps pw with
              | none => c.s
              | some P => c.meet pw P fst.toNat (cnt.toNat + 1)

end Sys2Proof.Machine
end

