-- ==== Sys2Proof/Machine/Packets.lean ====
section
/-! DEFINITION. What the front end keeps for a VF: its VCP page in host memory (R393-R395), queue slots (R403-R405),
dependence counters (R400), packet status words (R398), and the partition's epoch (R380, R383). -/

namespace Sys2Proof.Machine

/-! ## Host memory -/

/-- A number of n bytes in host memory. -/
def State.hostNum (s : State) (a n : Nat) : Nat := Memory.num s.host a n
/-- Writes host memory. -/
def State.hostPut (s : State) (a : Nat) (bs : List Byte) : State := { s with host := Memory.writeN s.host a bs }

/-- Writes a field of a VF's VCP page (R394). -/
def State.vcpPut (s : State) (n off : Nat) (bs : List Byte) : State :=
  match tfind s.vfs n with
  | none => s
  | some v => s.hostPut (v.vcppa + off) bs

/-! ## Queue slots (R403-R406) -/

/-- INUSE and BORROWED as the page shows them. -/
def State.noteSlots (s : State) (n : Nat) : State :=
  match tfind s.vfs n with
  | none => s
  | some v => s.vcpPut n 0x24 (leBytes 2 v.inuse ++ leBytes 2 v.borrowed)

/-- R405: a slot for a launch, with whether it is a burst slot; none when both are used up. -/
def State.takeSlot (s : State) (n : Nat) : Option (State × Bool) :=
  match tfind s.vfs n with
  | none => none
  | some v =>
    let P := s.part v.part
    if v.inuse < v.qslots then
      some ({ s with vfs := tset s.vfs n { v with inuse := v.inuse + 1 } }.noteSlots n, false)
    else if P.burstUsed < P.burstSlots then
      some (({ s with vfs := tset s.vfs n { v with borrowed := v.borrowed + 1 } }.setPart v.part
        { P with burstUsed := P.burstUsed + 1 }).noteSlots n, true)
    else none

/-- A slot returns (R405): a lent one to the pool of the partition that lent it. -/
def State.giveSlot (s : State) (n : Nat) (burst : Bool) (pool : Nat) : State :=
  match tfind s.vfs n with
  | none => s
  | some v =>
    let P := s.part pool
    if burst then
      ({ s with vfs := tset s.vfs n { v with borrowed := v.borrowed - 1 } }.setPart pool
        { P with burstUsed := P.burstUsed - 1 }).noteSlots n
    else { s with vfs := tset s.vfs n { v with inuse := v.inuse - 1 } }.noteSlots n

/-! ## Dependence counters (R400) -/

/-- Value of a counter. -/
def State.dcGet (s : State) (n i : Nat) : Word := tget 0 (((tfind s.vfs n).map (·.dcs)).getD []) i

/-- Sets a counter. -/
def State.dcSet (s : State) (n i : Nat) (v : Word) : State :=
  { s with vfs := tmod s.vfs n fun (x : Vf) => { x with dcs := tset x.dcs i v } }

/-- Adds 1 to a counter that the VF has; 0xFFFF names none. -/
def State.dcInc (s : State) (n i : Nat) : State :=
  match tfind s.vfs n with
  | none => s
  | some v => if i < v.dccount && i != 0xFFFF then s.dcSet n i (s.dcGet n i + 1) else s

/-- R350, R400: (counter - value) mod 2^32 < 2^31. -/
def dcReached (c v : Word) : Bool := decide ((c - v).toNat < 2 ^ 31)

/-- Whether a named counter exists; 0xFFFF names none. -/
def Vf.dcOk (v : Vf) (i : Nat) : Bool := i == 0xFFFF || decide (i < v.dccount)

/-! ## Status words (R398) -/

/-- Whether an address is mapped in a VF's own address space (log 22). -/
def State.mapped (s : State) (n a : Nat) : Bool :=
  match tfind s.vfs n with
  | none => false
  | some v =>
    decide (a < physBaseVa) &&
    (match walkFrom s.mem a 4 0 v.ptroot with | .leaf _ _ => true | _ => false)
where
  /-- End of global addresses (R18). -/
  physBaseVa : Nat := 0x1FF000000000000

/-- Whether the device can reach a range of host memory (R395, R398). -/
def State.hostReach (s : State) (a n : Nat) : Bool := !s.hostHoles.any fun h => decide (h.1 < a + n) && decide (a < h.1 + h.2)

/-- The device comes to reach a range of host memory, or no more: the host's IOMMU refuses it (R395, R398, R464). -/
def State.setReach (s : State) (a n : Nat) (gone : Bool) : State :=
  let rest := s.hostHoles.filter fun h => h != (a, n)
  { s with hostHoles := if gone then (a, n) :: rest else rest }

/-- The 8-byte status of a packet, in the VF's device memory or in host memory (log 22); one that cannot be written is lost. -/
def State.statusWord (s : State) (n a status detail : Nat) (cookie : Word) : State :=
  if a = 0 then s
  else
    let bs := leBytes 4 (status + detail % 2 ^ 24 * 2 ^ 8) ++ leBytes 4 cookie.toNat
    if s.mapped n a then feTry s (feReq s (((tfind s.vfs n).map (·.part)).getD 0) n) a bs
    else if s.hostReach a 8 then s.hostPut a bs else s

/-- A packet completes (R398, R399). -/
def State.packetDone (s : State) (k status detail : Nat) : State :=
  match tfind s.packets k with
  | none => s
  | some x => { s with packets := tdel s.packets k }.statusWord x.vf x.staddr status detail x.cookie

/-- The packet that made a launch completes. -/
def State.launchPacketDone (s : State) (l status detail : Nat) : State :=
  match s.packets.find? fun e => e.2.launch = some l with
  | none => s
  | some e => s.packetDone e.1 status detail

/-! ## The epoch (R380, R383) -/

/-- R383: a sweep that goes on holds the next advance. -/
def State.epochHeld (s : State) (p : Nat) : Bool := (s.part p).heldEpochs != 0

/-- EPOCH advances by 1; at a multiple of 16 384 a stamp sweep starts, or is due once the one under way has ended. -/
def State.epochAdvance (s : State) (p : Nat) : State :=
  let P := s.part p
  let e := P.lepoch + 1
  let due := e.toNat % 16384 = 0
  s.setPart p { P with
    lepoch := e
    sweeping := P.sweeping || due
    heldEpochs := if due && P.sweeping then 1 else P.heldEpochs }

/-- One stamp word of a sweep (R383). -/
def sweepStamp (epoch st : Nat) : Nat :=
  if (epoch + 65536 - st % 65536) % 65536 ≥ 32768 then (epoch + 32768) % 65536 else st

/-- Reads and writes a stamp word by its virtual address; none when it cannot be reached (R339, R464). -/
def State.stampAt (s : State) (q : Req) (va : Nat) : Option (State × Nat) :=
  match feRead s { q with rights := false } va 2 with
  | .inl (s, bs) => some (s, leNat bs)
  | .inr _ => none

end Sys2Proof.Machine
end

