-- ==== Sys2Proof/Machine/LaunchCheck.lean ====
section
/-! DEFINITION. Launch descriptors (R346, R347, R349), the checks of a launch (R348, R464) and of its image (R84-R90). -/

namespace Sys2Proof.Machine

/-- A field of n bytes at an offset of a list. -/
def fieldOf (bs : List Byte) (o n : Nat) : Nat := leNat ((bs.drop o).take n)

/-- Launch-engine statuses (R348). -/
def stCancelled : Nat := 0x20
/-- IMAGE_BAD. -/
def stImageBad : Nat := 0x22
/-- IMAGE_MISMATCH. -/
def stImageMismatch : Nat := 0x23
/-- IMAGE_FEATURE. -/
def stImageFeature : Nat := 0x24
/-- DESC_BAD. -/
def stDescBad : Nat := 0x25
/-- TRACE_BAD. -/
def stTraceBad : Nat := 0x26
/-- NONIDEMPOTENT. -/
def stNonidempotent : Nat := 0x27
/-- QFULL. -/
def stQFull : Nat := 0x2A
/-- QEMPTY. -/
def stQEmpty : Nat := 0x2B
/-- QCLOSED. -/
def stQClosed : Nat := 0x2C
/-- DC_BAD. -/
def stDcBad : Nat := 0x31

/-! ## The descriptor (R346) -/

/-- Fields of a descriptor. -/
def ldescOf (bs : List Byte) : LDesc :=
  let f := fieldOf bs
  { image := f 0x00 8, grid := (f 0x08 4, f 0x0C 4, f 0x10 4), bd := (f 0x14 2, f 0x16 2, f 0x18 2), warps := f 0x1A 1,
    group := f 0x1B 1, csm := f 0x1C 4, prio := f 0x20 1, trace := f 0x21 1, orphan := f 0x22 1, atomics := f 0x23 1,
    cap := f 0x24 2, flags := f 0x26 2, sheet := f 0x28 8, sheetLen := f 0x30 8, args := f 0x38 8, argLen := f 0x40 4,
    place := f 0x44 4, sigAddr := f 0x48 8, sigVal := f 0x50 8, comprec := f 0x58 8, orphList := f 0x60 8,
    orphCap := f 0x68 4, dcWait := f 0x6C 2, dcSig := f 0x6E 2, dcwVal := f 0x70 4, gridSrc := f 0x78 8 }

/-- A descriptor that could not be read: nothing is signalled. -/
def LDesc.none : LDesc :=
  { image := 0, grid := (0, 0, 0), bd := (1, 1, 1), warps := 1, group := 1, csm := 0, prio := 0, trace := 0, orphan := 0,
    atomics := 0, cap := 0, flags := 0, sheet := 0, sheetLen := 0, args := 0, argLen := 0, place := 0, sigAddr := 0,
    sigVal := 0, comprec := 0, orphList := 0, orphCap := 0, dcWait := 0xFFFF, dcSig := 0xFFFF, dcwVal := 0, gridSrc := 0 }

/-- Blocks of the grid. -/
def LDesc.blocks (d : LDesc) : Nat := d.grid.1 * d.grid.2.1 * d.grid.2.2
/-- Threads of a block (R347). -/
def LDesc.threads (d : LDesc) : Nat := d.bd.1 * d.bd.2.1 * d.bd.2.2

/-- PLACE (R349): SPIN, KPIN, CPIN, SLOT, CORE, CLUSTER. -/
def LDesc.spin (d : LDesc) : Bool := pteBit d.place 18
/-- KPIN. -/
def LDesc.kpin (d : LDesc) : Bool := pteBit d.place 17
/-- CPIN. -/
def LDesc.cpin (d : LDesc) : Bool := pteBit d.place 16
/-- SLOT. -/
def LDesc.pslot (d : LDesc) : Nat := bits d.place 14 10
/-- CORE. -/
def LDesc.pcore (d : LDesc) : Nat := bits d.place 9 8
/-- CLUSTER. -/
def LDesc.pcluster (d : LDesc) : Nat := bits d.place 7 0

/-- R372: offset of the block records in the sheet. -/
def LDesc.recOff (d : LDesc) : Nat := 0x100 + ceilDiv d.argLen 256 * 256

/-- R348 order 1: a field out of range, a zero field that is not zero, or a broken thread count. -/
def LDesc.bad (d : LDesc) (bs : List Byte) : Bool :=
  let within := fun n lo hi => decide (lo ≤ n) && decide (n ≤ hi)
  !(d.image % 256 = 0 && d.grid.1 < 2 ^ 31 && d.grid.2.1 < 2 ^ 31 && d.grid.2.2 < 2 ^ 31 &&
    within d.bd.1 1 1024 && within d.bd.2.1 1 1024 && within d.bd.2.2 1 64 && within d.warps 1 32 &&
    (d.group = 1 || d.group = 2 || d.group = 4) && d.csm ≤ 262144 && d.csm % 16 = 0 && d.prio ≤ 7 && d.trace ≤ 1 &&
    d.orphan ≤ 1 && d.atomics ≤ 1 && d.flags < 4 &&
    (d.trace = 0 || (within d.cap 16 1024 && d.sheet % 256 = 0)) && d.args % 16 = 0 && d.argLen ≤ 4096 &&
    d.argLen % 16 = 0 && d.place < 2 ^ 19 && !pteBit d.place 15 && (!d.spin || d.pslot + d.warps ≤ 32) &&
    (!d.kpin || (d.group != 4 && (d.group = 1 || d.pcore % 2 = 0))) && d.sigAddr % 8 = 0 && d.comprec % 64 = 0 &&
    d.orphList % 16 = 0 && fieldOf bs 0x74 4 = 0 && fieldOf bs 0x80 128 = 0 &&
    (!pteBit d.flags 1 || d.gridSrc % 16 = 0) && 32 * (d.warps - 1) < d.threads && d.threads ≤ 32 * d.warps)

/-! ## The image (R84-R90) -/

/-- A part of an image: count, offset, size, alignment. -/
structure ImgPart where
  n : Nat
  off : Nat
  size : Nat
  align : Nat
  deriving DecidableEq, Repr

/-- R84: an absent part has offset 0; a present one a nonzero offset on its boundary. -/
def ImgPart.ok (x : ImgPart) : Bool := if x.n = 0 then x.off = 0 else x.off != 0 && x.off % x.align = 0

/-- Parts of a header: header, code, constant banks, keep table, tensor declarations. -/
def imgParts (f : Nat → Nat → Nat) : List ImgPart :=
  [⟨1, f 0x08 4, f 0x0C 4, 256⟩, ⟨f 0x14 1, f 0x10 4, 1024 * f 0x14 1, 256⟩, ⟨f 0x20 4, f 0x1C 4, 32 * f 0x20 4, 32⟩,
   ⟨f 0x28 4, f 0x24 4, 32 * f 0x28 4, 32⟩]

/-- Whether two byte ranges share a byte. -/
def rangesMeet (a n b m : Nat) : Bool := decide (a < b + m) && decide (b < a + n)

/-- Present parts, pairwise apart and apart from the header. -/
def partsApart : List ImgPart → Bool
  | [] => true
  | x :: xs => (x.n = 0 || (decide (64 ≤ x.off) && xs.all fun y => y.n = 0 || !rangesMeet x.off x.size y.off y.size)) && partsApart xs

/-- R84: one past the last byte of the header and the present parts. -/
def imgExtent (f : Nat → Nat → Nat) : Nat :=
  (imgParts f).foldl (fun m x => if x.n = 0 then m else max m (x.off + x.size)) 64

/-- R85, R84: a header that the front end accepts. -/
def headerOk (f : Nat → Nat → Nat) : Bool :=
  let g := f 0x16 1
  f 0 4 = 0x4E465449 && f 5 1 = 3 && f 6 2 < 2 && f 0x0C 4 % 4 = 0 && 4 ≤ f 0x0C 4 && f 0x0C 4 ≤ 2 ^ 24 && f 0x14 1 ≤ 16 &&
  1 ≤ f 0x15 1 && f 0x15 1 ≤ 32 && (g = 1 || g = 2 || g = 4) && f 0x17 1 = 0 && f 0x18 4 ≤ 262144 && f 0x18 4 % 16 = 0 &&
  f 0x28 4 ≤ 4096 && f 0x2C 4 = 0 && f 0x38 8 = 0 && 0x100 ≤ f 0x08 4 && (imgParts f).all ImgPart.ok && partsApart (imgParts f)

/-- R87: one keep-table entry. -/
def keepEntryOk (e : Nat → Nat → Nat) (codeLen csm : Nat) : Bool :=
  e 0 4 % 4 = 0 && e 0 4 < codeLen && !pteBit (e 0x04 8) 63 && !pteBit (e 0x0C 8) 63 && e 0x14 4 % 16 = 0 &&
  e 0x18 4 % 16 = 0 && e 0x14 4 + e 0x18 4 ≤ csm && e 0x1C 4 < 4

/-- R87: the table, from an entry on, with PCOFF above the last. -/
def keepTableOk (bs : List Byte) (codeLen csm : Nat) : Nat → Nat → Option Nat → Bool
  | 0, _, _ => true
  | n + 1, i, last =>
    let e := fun o k => fieldOf bs (32 * i + o) k
    keepEntryOk e codeLen csm && (match last with | none => true | some p => decide (p < e 0 4)) &&
      keepTableOk bs codeLen csm n (i + 1) (some (e 0 4))

/-- R90: the layout of a declaration. -/
def declOk (e : Nat → Nat → Nat) : Bool :=
  e 0 4 % 4 = 0 && 1 ≤ e 4 1 && e 4 1 ≤ 12 && (e 5 1 ≤ 6 || e 5 1 = 15) && e 7 1 = 0

/-- What a check comes to: a status with its DETAIL, or the state and a value. -/
abbrev Checked (α : Type) := Sum (State × α) (Nat × Nat)

/-- R89, R90: the declared tensors, matched against the words of the argument block. DESIGN CHOICE (log 74): one by one in
table order, so the first that mismatches or whose word cannot be read decides. -/
def declsMatch (p : Nat) (v : Vf) (q : Req) (d : LDesc) (bs : List Byte) : Nat → Nat → State → Checked Unit
  | 0, _, s => .inl (s, ())
  | n + 1, i, s =>
    let e := fun o k => fieldOf bs (32 * i + o) k
    if d.argLen < e 0 4 + 4 then .inr (stImageMismatch, 0)
    else
      match feRead s q (d.args + e 0 4) 4 with
      | .inr z => .inr z
      | .inl (s, w) =>
        match s.tensorOf p v (leNat w % 2 ^ 20) with
        | none => .inr (stImageMismatch, 0)
        | some t =>
          if leNat w % 2 ^ 20 = 0 || t.rank != e 4 1 || (e 5 1 != 15 && t.format != e 5 1) || (e 6 1 != 255 && t.swizzle != e 6 1) then
            .inr (stImageMismatch, 0)
          else declsMatch p v q d bs n (i + 1) s

/-- R89: the image of a launch. DESIGN CHOICE (log 74): both tables are read before either is checked, and a mismatch comes
before a missing feature. -/
def imageCheck (s : State) (p : Nat) (v : Vf) (q : Req) (d : LDesc) : Checked Image :=
  match feRead s q d.image 64 with
  | .inr z => .inr z
  | .inl (s, h) =>
    let f := fieldOf h
    if !headerOk f then .inr (stImageBad, 0)
    else
      match feRead s q (d.image + f 0x1C 4) (32 * f 0x20 4) with
      | .inr z => .inr z
      | .inl (s, keep) =>
        match feRead s q (d.image + f 0x24 4) (32 * f 0x28 4) with
        | .inr z => .inr z
        | .inl (s, decl) =>
          if !keepTableOk keep (f 0x0C 4) (f 0x18 4) (f 0x20 4) 0 none then .inr (stImageBad, 0)
          else if !(List.range (f 0x28 4)).all fun i => declOk fun o k => fieldOf decl (32 * i + o) k then .inr (stImageBad, 0)
          else if f 0x15 1 != d.warps || f 0x18 4 != d.csm || f 0x16 1 != d.group then .inr (stImageMismatch, 0)
          else
            match declsMatch p v q d decl (f 0x28 4) 0 s with
            | .inr z => .inr z
            | .inl (s, _) =>
              if f 0x30 8 &&& v.featAgreed.toNat != f 0x30 8 then .inr (stImageFeature, 0)
              else .inl (s, { imageOf f with extent := imgExtent f })

/-! ## The whole check (R348) -/

/-- The grid words under GRIDIND (R346). -/
def gridRead (s : State) (q : Req) (d : LDesc) : Checked LDesc :=
  if pteBit d.flags 1 && d.gridSrc % 16 = 0 then
    match feRead s q d.gridSrc 12 with
    | .inr z => .inr z
    | .inl (s, bs) => .inl (s, { d with grid := (fieldOf bs 0 4, fieldOf bs 4 4, fieldOf bs 8 4) })
  else .inl (s, d)

/-- R348 orders 2 to 5, once order 1 has passed. -/
def launchCheckRest (s : State) (p : Nat) (v : Vf) (q : Req) (d : LDesc) : Checked Image :=
  if !v.dcOk d.dcWait || !v.dcOk d.dcSig then .inr (stDcBad, 0)
  else if d.cpin && 8 * s.partRegions p ≤ d.pcluster then .inr (cProt, 0x09)
  else
    match imageCheck s p v q d with
    | .inr z => .inr z
    | .inl (s, img) =>
      if d.trace = 1 && (2 ^ 32 ≤ d.blocks || d.sheetLen < d.recOff + d.blocks * 16 * (d.cap + 1)) then
        .inr (stTraceBad, 0)
      else .inl (s, img)

/-- Records a captured descriptor in a launch and checks it (R348); a failure ends the launch. -/
def State.launchCheck (s : State) (l : Nat) (bs : List Byte) : State :=
  match tfind s.launches l with
  | none => s
  | some L =>
    match tfind s.vfs L.vf with
    | none => s
    | some v =>
      let q := feReq s L.part L.vf
      let d := ldescOf bs
      let put := fun (s : State) (d : LDesc) (img : Image) => { s with launches := tmod s.launches l fun L =>
        { L with desc := d, img := img, src := none, prio := min L.prio d.prio } }
      let fail := fun (s : State) (d : LDesc) (z : Nat × Nat) =>
        (put s d L.img).endLaunch l { status := z.1, detail := z.2, pc := 0, blk := none }
      match gridRead s q d with
      | .inr z => fail s d z
      | .inl (s, d) =>
        if d.bad bs then fail s d (stDescBad, 0)
        else
          match launchCheckRest s L.part v q d with
          | .inr z => fail s d z
          | .inl (s, img) => put s d img

/-- A launch as it is made, before its descriptor is captured. -/
def newLaunch (id part vf depth prio order : Nat) (parent : Option (Nat × Nat × Nat)) (op : Option Nat)
    (burst reprint : Bool) (src : Option Nat) : Launch :=
  { id := id, part := part, vf := vf, desc := LDesc.none, img := imageOf fun _ _ => 0, depth := depth, parent := parent,
    op := op, prio := prio, burst := burst, pool := part, src := src, reprint := reprint, order := order, phase := .waiting, next := 0,
    sel := none, ended := 0, ran := 0, status := none, detail := 0, causePc := 0, causeBlk := none, epoch := 0, runs := 0,
    oldWrites := [], orphanRuns := 0, listed := 0, sheetBad := false, sheetOn := false }

/-- The next LAUNCHID of a partition (log 11). -/
def State.nextLaunchId (s : State) (p : Nat) : Nat := tget 1 s.launchIds p

/-- Adds a launch under the next number, with the next LAUNCHID of its partition. -/
def State.addLaunch (s : State) (L : Launch) : State :=
  { s with launches := tset s.launches s.fresh L, fresh := s.fresh + 1
           launchIds := tset s.launchIds L.part ((s.nextLaunchId L.part + 1) % 2 ^ 32) }

end Sys2Proof.Machine
end

