-- ==== Sys2Proof/Machine/MatMul.lean ====
section
/-! DEFINITION. The arithmetic of the matrix engine (R97-R110): operand elements, the column partial, accumulation, the
top-k fold (R285) and slot images (R266). -/

namespace Sys2Proof.Machine

/-! ## Operands (R99-R102, R105) -/

/-- Operand class of a format code (R91, R105): 16-bit, 8-bit, K4, or none. -/
def opClass (f : Nat) : Nat :=
  if f = 1 || f = 2 then 16 else if f = 3 || f = 4 || f = 6 then 8 else if f = 5 then 4 else 0

/-- FMT.AF (R103). -/
def fmtAf (fmt : Word) : Nat := bits fmt.toNat 3 0
/-- FMT.BF. -/
def fmtBf (fmt : Word) : Nat := bits fmt.toNat 7 4
/-- FMT.OUTF. -/
def fmtOut (fmt : Word) : Nat := bits fmt.toNat 11 8
/-- FMT.RND. -/
def fmtRnd (fmt : Word) : Rnd := Rnd.ofBits (BitVec.ofNat 2 (bits fmt.toNat 13 12))
/-- FMT.SAT. -/
def fmtSat (fmt : Word) : Bool := fmt.getLsbD 15
/-- FMT.KSCH. -/
def fmtKsch (fmt : Word) : Nat := bits fmt.toNat 19 16

/-- R104, R105: the formats of a pass are undefined or of different classes. -/
def fmtBad (fmt : Word) : Bool :=
  opClass (fmtAf fmt) = 0 || opClass (fmtAf fmt) != opClass (fmtBf fmt) || (opClass (fmtAf fmt) = 4 && 2 ≤ fmtKsch fmt)

/-- Bytes read by place. -/
abbrev Bytes := Array Byte

/-- A byte of an operand. -/
def byteOf (a : Bytes) (i : Nat) : Nat := (a.getD i 0).toNat

/-- A subnormal counts as zero of its sign (R108). -/
def flushed (F : Fmt) (v : Nat) : Fp :=
  if v / 2 ^ F.fb % 2 ^ F.eb = 0 then .fin (v / 2 ^ (F.eb + F.fb) % 2 == 1) 0 0 else F.decode v

/-- value() of R108 for the formats without blocks. -/
def plainValue (f v : Nat) : Fp :=
  if f = 1 then flushed bf16 v
  else if f = 2 then flushed fp16 v
  else if f = 3 then flushed e4m3 v
  else if f = 4 then flushed e5m2 v
  else .ofInt (BitVec.ofNat 8 v).toInt

/-- Block of element k of a line (R99): under a bitmap, the set bits up to k less one. -/
def blockOf (ksch : Nat) (maps : Bytes) (x k : Nat) : Nat :=
  if ksch = 0 then k / 32
  else ((List.range (k + 1)).filter fun i => pteBit (byteOf maps (64 * x + i / 8)) (i % 8)).length - 1

/-- An operand as a pass reads it: format, scheme, data, scales and bitmaps (R101, R102). -/
structure Operand where
  fmt : Nat
  ksch : Nat
  data : Bytes
  scales : Bytes
  maps : Bytes

/-- Element j of cell row r in line x (R102, R108). -/
def Operand.elem (o : Operand) (x r j : Nat) : Fp :=
  if opClass o.fmt = 16 then
    let i := 2 * (128 * x + r)
    plainValue o.fmt (byteOf o.data i + 256 * byteOf o.data (i + 1))
  else if opClass o.fmt = 8 then plainValue o.fmt (byteOf o.data (256 * x + 2 * r + j))
  else
    let i := 512 * x + 4 * r + j
    let c := byteOf o.data (i / 2) / (if i % 2 = 0 then 1 else 16) % 16
    k4Value c (byteOf o.scales (64 * x + blockOf o.ksch o.maps x (r + 128 * j)))

/-- R100: the blocks that a line's starts cut are 8 to 64 long. -/
def blocksLegal : List Nat → Bool
  | [] => true
  | [a] => decide (8 ≤ 512 - a) && decide (512 - a ≤ 64)
  | a :: b :: t => decide (8 ≤ b - a) && decide (b - a ≤ 64) && blocksLegal (b :: t)

/-- R100: a line's bitmap is legal. -/
def bitmapLegal (maps : Bytes) (x : Nat) : Bool :=
  let starts := (List.range 512).filter fun i => pteBit (byteOf maps (64 * x + i / 8)) (i % 8)
  starts.head? = some 0 && blocksLegal starts

/-- R100 over the lines of an operand. -/
def Operand.legal (o : Operand) (lines : Nat) : Bool :=
  opClass o.fmt != 4 || o.ksch = 0 || (List.range lines).all (bitmapLegal o.maps)

/-! ## Adding (R108-R110) -/

/-- truncate_to_internal (R109). -/
def truncInternal : Fp → Fp
  | .nan => .nan
  | .inf s => .inf s
  | .fin s m e =>
    if m = 0 then .fin false 0 0
    else
      let k := Nat.log2 m + 1 - 32
      let m := m / 2 ^ k
      let e := e + k
      let top := e + Nat.log2 m
      if top < -126 then .fin false 0 0 else if 128 ≤ top then .inf s else .fin s m e

/-- Elements that a cell takes (R108). -/
def kPerCell (cls : Nat) : Nat := if cls = 16 then 1 else if cls = 8 then 2 else 4

/-- The column partial of R108. -/
def columnPartial (a b : Operand) (m n : Nat) : Fp :=
  (List.range 128).foldl (fun p r =>
    let t := (List.range (kPerCell (opClass a.fmt))).foldl (fun t j => t.add ((a.elem m r j).mul (b.elem n r j))) (.fin false 0 0)
    truncInternal (p.add t)) (.fin false 0 0)

/-- R108, R110: the last step. An accumulator that holds a NaN stays NaN: the canonical one of R93 (DEDUCED, log 15). -/
def accumulate (acc : Word) (p : Fp) : Word :=
  if p.isNan then BitVec.ofNat 32 nan32
  else to32 ((f32 acc).add p)

/-- The data of a slot from a function of place. -/
def accBuild (f : Nat → Word) : Tab Word :=
  (List.range 4096).filterMap fun i => if f i = 0 then none else some (i, f i)

/-- R283: a pass over rows 0 to rows - 1; z zeroes the data first. -/
def AccSlot.pass (x : AccSlot) (a b : Operand) (rows : Nat) (z : Bool) : AccSlot :=
  { x with data := accBuild fun i =>
      let old := if z then 0 else tget 0 x.data i
      if i / 128 < rows then accumulate old (columnPartial a b (i / 128) (i % 128)) else old }

/-! ## Top-k (R265, R285) -/

/-- The index of an empty entry. -/
def emptyIdx : Nat := 0xFFFFFF

/-- An empty entry. -/
def TopE.none : TopE := { value := 0, index := emptyIdx }

/-- better() of R285. -/
def better (order : Nat) (v : Word) (i : Nat) (e : TopE) : Bool :=
  let x := f32 v
  let y := f32 e.value
  (if order = 0 then y.lt x else x.lt y) || (x.eqv y && decide (i < e.index))

/-- Inserts a candidate before the first entry that it is better than. -/
def topInsert (order : Nat) (z : TopE) : List TopE → List TopE
  | [] => [z]
  | e :: es => if better order z.value z.index e then z :: e :: es else e :: topInsert order z es

/-- R285: a candidate enters a list that holds fewer than k entries, or whose worst it is better than; the first k stay.
What stands in empty entries is not touched; the worst is the last live entry, in a list that is not in order too (DESIGN
CHOICE, log 95). -/
def topOffer (k order : Nat) (z : TopE) (es : List TopE) : List TopE :=
  let live := es.takeWhile fun e => e.index != emptyIdx
  if live.length < k || better order z.value z.index (live.getLastD TopE.none) then
    let now := (topInsert order z live).take k
    now ++ List.replicate (live.length - now.length) TopE.none ++ es.drop (max live.length now.length)
  else es

/-- R285 for one row. -/
def foldRow (k order base : Nat) (row : Nat → Word) (es : List TopE) : List TopE :=
  (List.range 128).foldl (fun es n =>
    let v := row n
    let i := (base + n) % 2 ^ 24
    if (f32 v).isNan || i = emptyIdx then es else topOffer k order { value := v, index := i } es) es

/-- R285: the candidates of rows 0 to rows - 1 enter the lists. -/
def AccSlot.fold (x : AccSlot) (rows : Nat) : AccSlot :=
  if x.k = 0 then x
  else
    { x with
      lists := (List.range rows).foldl (fun t m =>
        tset t m (foldRow x.k x.order x.base (fun n => tget 0 x.data (128 * m + n)) (tget [] t m))) x.lists
      base := (x.base + 128) % 2 ^ 24 }

/-- Zeroes the data of rows 0 to rows - 1. -/
def AccSlot.clearRows (x : AccSlot) (rows : Nat) : AccSlot :=
  { x with data := x.data.filter fun e => decide (128 * rows ≤ e.1) }

/-- Entry j of row m. -/
def AccSlot.entry (x : AccSlot) (m j : Nat) : TopE := (tget [] x.lists m).getD j TopE.none

/-- Empties the lists of rows 0 to rows - 1. -/
def AccSlot.emptyRows (x : AccSlot) (rows : Nat) : AccSlot :=
  { x with lists := x.lists.filter fun e => decide (rows ≤ e.1) }

/-! ## Slot images (R266) -/

/-- Bytes of a slot image. -/
def slotImageLen : Nat := 18432

/-- The image of a slot. -/
def AccSlot.image (x : AccSlot) : List Byte :=
  ((List.range 4096).flatMap fun i => leBytes 4 (tget 0 x.data i).toNat) ++
  ((List.range 32).flatMap fun m => (List.range 8).flatMap fun j => leBytes 4 (x.entry m j).value.toNat) ++
  ((List.range 32).flatMap fun m => (List.range 8).flatMap fun j => leBytes 3 (x.entry m j).index) ++
  leBytes 1 x.k ++ leBytes 1 x.order ++ leBytes 2 0 ++ leBytes 4 x.base ++ leBytes 248 0

/-- The number at n bytes of an image. -/
def imgNum (bs : Bytes) (a n : Nat) : Nat := (List.range n).foldl (fun v i => v + byteOf bs (a + i) * 256 ^ i) 0

/-- R289: the header of an image keeps its rules. -/
def imageGood (bs : Bytes) : Bool :=
  decide (byteOf bs 0x4700 ≤ 8) && decide (byteOf bs 0x4701 ≤ 1) && imgNum bs 0x4702 2 == 0 &&
  byteOf bs 0x4707 == 0 && (List.range 248).all fun i => byteOf bs (0x4708 + i) == 0

/-- The slot of an image: a list keeps its entries up to the last that is not empty. -/
def ofImage (bs : Bytes) : AccSlot :=
  let row := fun m => (List.range 8).map fun j =>
    ({ value := BitVec.ofNat 32 (imgNum bs (0x4000 + 32 * m + 4 * j) 4), index := imgNum bs (0x4400 + 24 * m + 3 * j) 3 } : TopE)
  { data := accBuild fun i => BitVec.ofNat 32 (imgNum bs (4 * i) 4)
    k := byteOf bs 0x4700, order := byteOf bs 0x4701, base := imgNum bs 0x4704 3
    lists := (List.range 32).filterMap fun m =>
      let es := ((row m).reverse.dropWhile fun e => e = TopE.none).reverse
      if es.isEmpty then none else some (m, es) }

/-! ## ACCRD (R288) -/

/-- A NaN of an output is positive (R93); INT8 gives 0. -/
def accOut (outf : Nat) (r : Rnd) (sat : Bool) (y : Fp) : Nat :=
  if outf = 6 then (BitVec.ofInt 8 (toIntClamp r (-128) 127 y)).toNat
  else
    let F := if outf = 0 then fp32 else if outf = 1 then bf16 else if outf = 2 then fp16 else if outf = 3 then e4m3 else e5m2
    F.narrow r sat false y

/-- Bytes of an element of an output format. -/
def outSize (outf : Nat) : Nat := if outf = 0 then 4 else if outf = 1 || outf = 2 then 2 else 1

/-- The bytes that ACCRD writes in DATA mode. -/
def accrdData (x : AccSlot) (fmt scale : Word) (rows : Nat) : List Byte :=
  let o := fmtOut fmt
  (List.range (128 * rows)).flatMap fun i =>
    leBytes (outSize o) (accOut o (fmtRnd fmt) (fmtSat fmt) ((f32 (tget 0 x.data i)).mul (f32 scale)))

/-- The bytes that ACCRD writes in TOPK mode. -/
def accrdTopk (x : AccSlot) (rows : Nat) : List Byte :=
  (List.range (8 * rows)).flatMap fun i =>
    let e := x.entry (i / 8) (i % 8)
    if e.index = emptyIdx then leBytes 4 0x7FC00000 ++ leBytes 4 0xFFFFFFFF
    else leBytes 4 e.value.toNat ++ leBytes 4 e.index

end Sys2Proof.Machine
end

