-- ==== Sys2Proof/Machine/TileOps.lean ====
section
/-! DEFINITION. The tile-cache instructions (R322-R333) and MCAST (R341-R344): issue, grant, effect and completion. -/

namespace Sys2Proof.Machine

/-! ## Issue -/

/-- Makes an operation and enters it in the cluster's tile-operation queue (R330). -/
def Ctx.startTile (c : Ctx) (kind : OpKind) (d : BitVec 6) : Ctx :=
  let n := c.nextOp
  let cl := c.cluster
  let c := c.startOp kind d
  let x := c.s.cluster cl
  { c with s := c.s.setCluster cl { x with tileQ := x.tileQ ++ [n] } }

/-- PROT with reason 0x31 if a check fails (R322). -/
def prot31 (bad : Bool) : List Met := if bad then [(cProt, 0x31, 0)] else []

/-- A tile-cache instruction (R322). -/
def tileIssue (d : BitVec 6) (srcs : List Src) (extra : Ctx → List Met) (kind : Ctx → OpKind) (s : State)
    (early : Early := []) : Out :=
  engIssue false d srcs extra (fun c => ((c.startTile (kind c) d).advance 1).finish true) s early

/-- The causes of a handle operand, which it decides by itself (R38). -/
def handleEarly (a : BitVec 6) : List Src × (Ctx → List Met) := (usrc2 a, fun c => c.handleCauses a)

/-- TLOOK (R323). -/
def execTlook (f : E2) (s : State) : Out :=
  tileIssue f.d (usrc2 f.a) (fun c => c.handleCauses f.a)
    (fun c => let h := c.handleAt f.a; .tlook h.1 h.2) s

/-- R324: the tile at u and its selected neighbours, those outside the grid left out. -/
def neighbours (t : Tensor) (i sel : Nat) : List Nat :=
  let u := digits t.grid i
  let near := (List.range (2 * t.rank)).filterMap fun k =>
    let x := u.getD (k / 2) 0
    let g := t.grid.getD (k / 2) 0
    if pteBit sel k then
      if k % 2 = 0 then (if x = 0 then none else some (undigits t.grid (u.set (k / 2) (x - 1))))
      else if x + 1 < g then some (undigits t.grid (u.set (k / 2) (x + 1)))
      else none
    else none
  i :: near

/-- TPREF (R324). -/
def execTpref (f : E3) (s : State) : Out :=
  tileIssue f.d (usrc2 f.a ++ usrc f.b) (fun c =>
      c.handleCauses f.a ++
      prot31 (2 ^ 24 ≤ (c.sreg f.b).toNat || 2 ^ (2 * (c.handleAt f.a).1.rank) ≤ (c.sreg f.b).toNat))
    (fun c => let h := c.handleAt f.a; .tpref h.1 (neighbours h.1 h.2 (c.sreg f.b).toNat)) s
    (early := [handleEarly f.a, (usrc f.b, fun c => prot31 (2 ^ 24 ≤ (c.sreg f.b).toNat))])

/-- Bytes of an element of a tensor (not K4). -/
def Tensor.elemBytes (t : Tensor) : Nat := fmtBits t.format / 8

/-- Extents of the output box of a THALO. -/
def haloBox (t : Tensor) (h dims : Nat) : List Nat :=
  t.text.mapIdx fun i x => if pteBit dims i then x + 2 * h else x

/-- R325: bytes that a THALO writes. -/
def haloExtent (t : Tensor) (h dims : Nat) : Nat := ceilDiv (prod (haloBox t h dims) * t.elemBytes) 128 * 128

/-- THALO (R325). -/
def execThalo (f : E4) (s : State) : Out :=
  engIssue false f.d (usrc2 f.a ++ usrc f.b ++ usrc f.c) (fun c =>
      let t := (c.handleAt f.a).1
      let ref := (c.sreg f.b).toNat
      let p := (c.sreg f.c).toNat
      let h := bits p 3 0
      let dims := bits p 19 8
      let ext := haloExtent t h dims
      c.refCauses ref 0 128 ++ c.handleCauses f.a ++
      prot31 (bits p 7 4 != 0 || bits p 31 20 != 0 || 4 < h || 2 ^ t.rank ≤ dims || t.format = 5 ||
        (t.text.mapIdx fun i x => pteBit dims i && decide (x < h)).any id ||
        (t.swizzle != 0 && (ref % 1024 != 0 || ext % 1024 != 0))) ++
      c.rangeCauses ref ext)
    (fun c =>
      let x := c.handleAt f.a
      let ref := (c.sreg f.b).toNat
      let p := (c.sreg f.c).toNat
      let b := c.W.block
      let c := c.startTile (.thalo x.1 x.2 ref (bits p 3 0) (bits p 19 8)) f.d
      ({ c with s := c.s.markRange b ref (haloExtent x.1 (bits p 3 0) (bits p 19 8)) true }.advance 1).finish true) s
    (early := [handleEarly f.a, (usrc f.b, fun c => c.refCauses (c.sreg f.b).toNat 0 128),
      (usrc f.c, fun c =>
        let p := (c.sreg f.c).toNat
        prot31 (bits p 7 4 != 0 || bits p 31 20 != 0 || 4 < bits p 3 0))])

/-- A tensor id operand (R305, R309). -/
def Ctx.idCauses (c : Ctx) (v : Word) : List Met :=
  (if (c.tensor (v.toNat % 2 ^ 20)).isSome then [] else [(cProt, 0x30, 0)]) ++ prot31 (2 ^ 20 ≤ v.toNat)

/-- The flat tensor has no place here (R322). -/
def flatCauses (isFlat : Bool) : List Met := if isFlat then [(cProt, 0x35, 0)] else []

/-- TINV (R326). -/
def execTinv (f : EDAC) (s : State) : Out :=
  tileIssue f.d (usrc f.a ++ usrc f.c) (fun c =>
      c.idCauses (c.sreg f.a) ++ prot31 (2 ≤ (c.sreg f.c).toNat) ++ flatCauses ((c.sreg f.a).toNat % 2 ^ 20 = 0))
    (fun c => .tinv ((c.tensor ((c.sreg f.a).toNat % 2 ^ 20)).getD flatTensor) (c.sreg f.c = 1)) s
    (early := [(usrc f.a, fun c => c.idCauses (c.sreg f.a) ++ flatCauses ((c.sreg f.a).toNat % 2 ^ 20 = 0)),
      (usrc f.c, fun c => prot31 (2 ≤ (c.sreg f.c).toNat))])

/-- TWB (R327). -/
def execTwb (f : E3) (s : State) : Out :=
  tileIssue f.d (usrc2 f.a ++ usrc f.b) (fun c =>
      let h := c.handleAt f.a
      c.handleCauses f.a ++ prot31 (c.sreg f.b = 0 && h.2 != 0) ++ flatCauses (c.sreg f.b = 0 && h.1.id = 0))
    (fun c => let h := c.handleAt f.a; .twb h.1 h.2 (c.sreg f.b).toNat) s (early := [handleEarly f.a])

/-- Deadline fills that a region's queue holds (R332). -/
def Ctx.dfRoom (c : Ctx) (n : Nat) : Bool := decide ((c.s.region (coreRegion c.W.core)).dfq.length + n ≤ 256)

/-- Enters fills of the operation numbered n in the queue of the issuer's region, with their deadline, which is converted
into a count of the tile-cache clock at issue. -/
def Ctx.enqFills (c : Ctx) (n : Nat) (tiles : List Nat) (deadline : Nat) : Ctx :=
  let r := coreRegion c.W.core
  let x := c.s.region r
  let at_ := x.tclk + Config.tcCycles c.s.draws deadline
  let fills := tiles.map fun i => ({ op := n, idx := i, deadline := at_ } : DFill)
  { c with s := State.setRegion { c.s with draws := c.s.draws + 1 } r { x with dfq := x.dfq ++ fills } }

/-- The fills of a TDEAD whose operands are valid fit in the queue; one whose fills do not is not eligible (R332). -/
def Ctx.deadRoom (c : Ctx) (f : E4) : Bool :=
  let h := c.handleAt f.a
  let n := (c.sreg f.b).toNat
  decide (64 < n) || c.dfRoom ((List.range n).filter fun i => h.2 + i < h.1.tiles).length

/-- TDEAD (R328). -/
def execTdead (f : E4) (s : State) : Out :=
  engIssue false f.d (usrc2 f.a ++ usrc f.b ++ usrc f.c) (fun c =>
      let n := (c.sreg f.b).toNat
      let dl := (c.sreg f.c).toNat
      if c.deadRoom f then c.handleCauses f.a ++ prot31 (n = 0 || 64 < n || dl = 0 || 2 ^ 31 ≤ dl) else [])
    (fun c =>
      let h := c.handleAt f.a
      let n := (c.sreg f.b).toNat
      let dl := (c.sreg f.c).toNat
      let tiles := (List.range n).filter fun i => h.2 + i < h.1.tiles
      if !c.deadRoom f then c.stall
      else
        let k := c.nextOp
        (((c.startTile (.tdead h.1 h.2 n dl) f.d).enqFills k tiles dl).advance 1).finish true) s
    (early := [handleEarly f.a, (usrc f.b, fun c => let n := (c.sreg f.b).toNat; prot31 (n = 0 || 64 < n)),
      (usrc f.c, fun c => let dl := (c.sreg f.c).toNat; prot31 (dl = 0 || 2 ^ 31 ≤ dl))])

/-- A descriptor's FLAGS in the table. -/
def tableFlags (s : State) (v : Vf) (n : Nat) : Nat := Memory.num s.mem (v.desc n + 0x10) 4

/-- R305, R309: an id that no tensor can have. -/
def Vf.badId (v : Vf) (n : Nat) : Bool := n != 0 && (n < 32 || v.ttlen ≤ n)

/-- R329: the target carries VSLOT and is not a registered tensor other than a view, whose entries TVIEW would leave behind:
to make a view, or, as read here, to unregister one (DEDUCED, log 65). -/
def viewTarget (s : State) (p : Nat) (v : Vf) (n : Nat) : Bool :=
  pteBit (tableFlags s v n) 3 &&
    (!(s.part p).registered.contains (v.asid, n) || pteBit (Memory.num s.mem (v.desc n + 0x14) 4) 31)

/-- A view spec in CSM (R329). -/
def Ctx.viewSpec (c : Ctx) (ref : Nat) : List Int × List Nat :=
  let p := c.csmAt ref
  let bs := c.s.csmRead p.1 p.2 96
  ((List.range 12).map fun i => (BitVec.ofNat 32 (fieldAt bs (4 * i) 4)).toInt,
   (List.range 12).map fun i => fieldAt bs (48 + 4 * i) 4)

/-- R329: the box lies in the tile grid of the source. -/
def specFits (t : Tensor) (z : List Int × List Nat) : Bool :=
  ((List.range 12).all fun i =>
    let o := z.1.getD i 0
    let b := z.2.getD i 0
    if i < t.rank then decide (0 ≤ o) && decide (1 ≤ b) && decide (o.toNat + b ≤ t.grid.getD i 0)
    else o = 0 && b = 0)

/-- TVIEW (R329). -/
def execTview (f : E4) (s : State) : Out :=
  tileIssue f.d (usrc f.a ++ usrc f.b ++ usrc f.c) (fun c =>
      let a := (c.sreg f.a).toNat
      let b := (c.sreg f.b).toNat
      let r := (c.sreg f.c).toNat
      let unreg := r = 0xFFFFFFFF
      let refs := if unreg then [] else c.refCauses r 96 16
      let badId := (c.vf.map fun v => v.badId (b % 2 ^ 20)).getD true
      let target := match c.vf with
        | some v => viewTarget c.s (c.s.warpPart c.W) v (b % 2 ^ 20)
        | none => false
      let spec := if unreg || !refs.isEmpty then true
        else match c.tensor (a % 2 ^ 20) with | some t => specFits t (c.viewSpec r) | none => true
      refs ++ c.idCauses (c.sreg f.a) ++ (if badId then [(cProt, 0x30, 0)] else []) ++ prot31 (2 ^ 20 ≤ b) ++
      (if a % 2 ^ 20 = 0 || b % 2 ^ 20 = 0 then [(cProt, 0x35, 0)]
       else if target && spec then [] else [(cProt, 0x33, 0)]))
    (fun c =>
      let t := (c.tensor ((c.sreg f.a).toNat % 2 ^ 20)).getD flatTensor
      let r := (c.sreg f.c).toNat
      .tview t ((c.sreg f.b).toNat % 2 ^ 20) (if r = 0xFFFFFFFF then none else some (c.viewSpec r))) s
    (early := [(usrc f.a, fun c => c.idCauses (c.sreg f.a)), (usrc f.b, fun c => prot31 (2 ^ 20 ≤ (c.sreg f.b).toNat)),
      (usrc f.c, fun c =>
        let r := (c.sreg f.c).toNat
        if r = 0xFFFFFFFF then [] else c.refCauses r 96 16)])

/-- The packed operand of MCAST (R341). -/
structure McastPack where
  n : Nat
  nb : Bool
  tb : Nat
  dst : Nat
  deriving DecidableEq, Repr

/-- Its fields. -/
def mcastPack (v : Nat) : McastPack :=
  { n := bits v 31 28 + 1, nb := pteBit v 25, tb := 16 * bits v 24 11, dst := 128 * bits v 10 0 }

/-- R341: the blocks of the issuer's launch on the masked logical cores of its region; none where there is not one. -/
def Ctx.mcastBlocks (c : Ctx) (mask : Word) : List (Option Block) :=
  let p := c.s.warpPart c.W
  let l := ((tfind c.s.blocks c.W.block).map (·.launch)).getD 0
  let reg := c.s.logCluster p c.cluster / 8
  (lanesOf mask).map fun k =>
    match c.s.physCluster p (8 * reg + k / 4) with
    | none => none
    | some pc =>
      match c.s.blocks.filter fun e => e.2.launch = l && e.2.resident && e.2.core = 4 * pc + k % 4 with
      | [e] => some e.2
      | _ => none

/-- MCAST (R341, R342). -/
def execMcast (f : E4) (s : State) : Out :=
  engIssue false f.d (usrc2 f.a ++ usrc f.b ++ usrc f.c) (fun c =>
      let h := c.handleAt f.a
      let v := (c.sreg f.c).toNat
      let k := mcastPack v
      let bs := c.mcastBlocks (c.sreg f.b)
      let len := k.n * h.1.tileStride
      let tbs := bs.filterMap fun b => match b with
        | some B => if k.nb || decide (B.size < k.tb + 16) then none else some (B.core, B.base + k.tb)
        | none => none
      c.handleCauses f.a ++
        (if h.1.tiles < h.2 + k.n then [(cProt, 0x30, 0)] else []) ++
        prot31 (bits v 27 26 != 0) ++
        (if bs.isEmpty || bs.any Option.isNone then [(cProt, 0x34, 0)] else []) ++
        (if bs.any fun b => match b with
          | some B => decide (B.size < k.dst + len) || (!k.nb && decide (B.size < k.tb + 16))
          | none => false
         then [(cCsmBound, 0, localBase + k.dst)] else []) ++
        (if tbs.any fun p => tbBad (c.s.granule p.1 p.2) then [(cProt, 0x12, 0)] else []))
    (fun c =>
      let h := c.handleAt f.a
      let k := mcastPack (c.sreg f.c).toNat
      let bs := (c.mcastBlocks (c.sreg f.b)).filterMap fun b => b
      let dests := bs.map fun B => (B.core, B.base + k.dst)
      let tbs := bs.map fun B => (B.core, B.base + k.tb)
      let c := c.startTile (.mcast h.1 h.2 k.n dests (if k.nb then none else some tbs)) f.d
      let s := if k.nb then c.s else tbs.foldl (fun s p => s.putGranule p (tbCopyTag (s.granule p.1 p.2) 0)) c.s
      let s := dests.foldl (fun s p => s.csmMark p.1 (p.2 / 16) (k.n * h.1.tileStride / 16) true) s
      ({ c with s := s }.advance 1).finish true) s
    (early := [handleEarly f.a, (usrc f.c, fun c => prot31 (bits (c.sreg f.c).toNat 27 26 != 0)),
      (usrc f.b, fun c =>
        let bs := c.mcastBlocks (c.sreg f.b)
        if bs.isEmpty || bs.any Option.isNone then [(cProt, 0x34, 0)] else [])])

/-! ## Grant (R330) -/

/-- Writes a descriptor (R306) into the tensor table; parent: the PARENT word. -/
def putTensor (m : Memory) (a : Nat) (t : Tensor) (flags parent : Nat) : Memory :=
  let pad := fun (n : Nat) (xs : List Nat) => (List.range 12).flatMap fun i => leBytes n (xs.getD i 0)
  Memory.writeN m a (leBytes 8 t.base ++ leBytes 1 t.rank ++ leBytes 1 t.format ++ leBytes 1 t.swizzle ++
    leBytes 1 (if t.isOpen then 1 else 0) ++ leBytes 2 t.atag ++ leBytes 1 t.gen ++ leBytes 1 0 ++ leBytes 4 flags ++
    leBytes 4 parent ++ leBytes 8 t.stamps ++ pad 4 t.extent ++ pad 6 t.stride ++ pad 2 t.text ++ leBytes 80 0)

/-- The VF whose address space an operation uses. -/
def State.opVf (s : State) (o : EngOp) : Option Vf := (tfind s.launches o.launch).bind fun L => tfind s.vfs L.vf

/-- R329: registers a view, or unregisters one. -/
def State.grantView (s : State) (o : EngOp) (t : Tensor) (target : Nat) (spec : Option (List Int × List Nat)) : State :=
  match s.opVf o with
  | none => s
  | some v =>
    let p := (s.opReq o).part
    let P := s.part p
    match spec with
    | none =>
      s.setPart p (P.unregister v.asid target)
    | some (org, box) =>
      let org := (org.take t.rank).map Int.toNat
      let starts := List.zipWith (· * ·) org t.text
      let ext := List.zipWith min (List.zipWith (· * ·) (box.take t.rank) t.text) (List.zipWith (· - ·) t.extent starts)
      let view := { t with base := t.elemVa starts, extent := ext }
      let flags := t.flags % 8 + 8
      let m := putTensor s.mem (v.desc target) view flags (2 ^ 31 + t.root)
      { s with mem := m }.setPart p
        { P with registered := (v.asid, target) :: P.registered.filter (· != (v.asid, target)),
                 views := tset P.views (viewKey v.asid target) (List.zipWith (· + ·) t.origin org) }

/-- The root of a tensor with the geometry that its own tiles have (R316). -/
def State.rootOf (s : State) (o : EngOp) (t : Tensor) : Tensor :=
  if t.id = t.root then t
  else ((s.opVf o).bind fun v => s.tensorOf (s.opReq o).part v t.root).getD t

/-- Stamps a list of tiles of a tensor (R340); what must come first, where something must. acked: the stamp words elsewhere
that are stored. -/
def stampAll (q : Req) (t : Tensor) (off acked : List Nat) : State → List Nat → Sum State Served
  | s, [] => .inl s
  | s, i :: is =>
    match stampTile s q t i off with
    | .ok s _ => stampAll q t off acked (markStamped s q (tileOf q.asid t i)) is
    | z => if ((z.far.map Far.stamp).map acked.contains).getD false then stampAll q t off acked s is else .inr z

/-- R326 at grant: stamps, a new generation, and a sweep. -/
def State.grantTinv (s : State) (n : Nat) (o : EngOp) (t : Tensor) : State :=
  let t := s.rootOf o t
  let q := s.opReq o
  let P := s.part q.part
  if P.sweeps.contains (o.asid, t.id) then s
  else
    match (if pteBit t.flags 1 then Sum.inl s else stampAll q t o.stampOff o.acked s (List.range t.tiles)) with
    | .inr z =>
      (match z.far with
       | some f => s.stampOut n o f
       | none => s.opServed n o true 1 z)
    | .inl s =>
      match s.opVf o with
      | none => s
      | some v =>
        let a := v.desc t.id + 0x0E
        let P := s.part q.part
        let s := { s with mem := Memory.write s.mem a (Memory.read s.mem a + 1) }.setPart q.part
          { P with sweeps := (o.asid, t.id) :: P.sweeps }
        s.modOp n fun o => { o with granted := true }

/-- TILE_OP_GRANT (R330): an operation starts, behind its cluster's earlier ones. -/
def execTileOpGrant (n : Nat) (s : State) : Out :=
  .next (match tfind s.ops n with
    | none => s
    | some o =>
      let q := (s.cluster (coreCluster o.core)).tileQ.filter fun k =>
        match tfind s.ops k with | some x => !x.granted | none => false
      if q.head? = some n && o.active then
        match o.kind with
        | .tinv t _ => s.grantTinv n o t
        | .tview t target spec => (s.grantView o t target spec).modOp n fun o => { o with granted := true }
        | _ => s.modOp n fun o => { o with granted := true }
      else s)

/-! ## Effects and completion -/

/-- What the tile cache holds of a tile: its tag, whether it is filling and dirty, and its valid sectors. -/
structure Held where
  part : Nat
  tag : Nat
  filling : Bool
  dirty : Bool
  valid : Nat
  deriving DecidableEq, Repr

/-- R422: what the slices hold of a tile whose pages are homed by their physical addresses: present when every page of it is. -/
def State.heldByPage (s : State) (q : Req) (x : Tile) : Option Held :=
  let h := homeOf s q.part x
  match translateAll s h.region h.slice q x.pages with
  | .inr _ => none
  | .inl ps =>
    let grans := if x.t.isNone then flatGrans (firstPa ps) else tileGrans x (pagePas ps)
    let frames := ((grans.filter fun g => g.2 != 0).map fun g => g.1 / 4096).eraseDups
    let find := fun (t : Nat) => (s.windowHome q (4096 * t)).bind fun z => (s.entry (homeOfPa s z.1 z.2 (4096 * t))).map fun e => (z.1, e)
    let es := frames.filterMap fun t => (find t).map fun e => (t, e)
    match es.head? with
    | none => none
    | some z =>
      if es.length < frames.length then none
      else
        let has := fun (g : Nat × Nat) => g.2 = 0 ||
          ((tfind es (g.1 / 4096)).map fun e => e.2.svalid.getLsbD (g.1 % 4096 / 128)).getD false
        some { part := z.2.1, tag := z.2.2.atag, filling := es.any fun e => e.2.2.fill != 0, dirty := es.any fun e => e.2.2.sdirty != 0,
               valid := ((List.range (ceilDiv grans.length 8)).filter fun k => ((grans.drop (8 * k)).take 8).all has).length }

/-- What the tile cache holds of a tile for an operation, at its home or at those of its pages. -/
def State.held (s : State) (o : EngOp) (x : Tile) : Option Held :=
  let q := s.opReq o
  match (s.entry (homeOf s q.part x)).filter fun e => e.fresh q.floor with
  | some e => some { part := q.part, tag := e.atag, filling := e.fill != 0, dirty := e.sdirty != 0, valid := laneCount e.svalid }
  | none => s.heldByPage q x

/-- R323: what TLOOK reports, as DETAIL; a tile that the issuer may not read is not present. -/
def State.look (s : State) (o : EngOp) (x : Tile) : Nat :=
  match (s.held o x).filter fun z => policyAllows s z.part (s.opReq o) z.tag false with
  | none => 0
  | some z => 2 ^ 19 + (if z.filling then 2 ^ 18 else 0) + (if z.dirty then 2 ^ 17 else 0) + z.valid * 2 ^ 11

/-- R324: fills a tile whole, as a demand fill (R333), or drops it: whether it was dropped; none while a set whose entries
all fill, or a gate, holds it. -/
def State.prefetch (s : State) (o : EngOp) (x : Tile) : Option (State × Bool) :=
  let q := s.opReq o
  match serveTile (s.takeOver q x) q x .read (.read 0 x.bytes) with
  | .ok s _ => some (s, false)
  | .held => none
  | _ => some (s, true)

/-- Whether a tile is present for an operation. -/
def State.isPresent (s : State) (o : EngOp) (x : Tile) : Bool := (s.held o x).isSome

/-- Fills tiles one after another, and counts those dropped. -/
def prefetchAll (o : EngOp) (t : Tensor) : List Nat → State → Nat → Option (State × Nat)
  | [], s, k => some (s, k)
  | i :: is, s, k =>
    match s.prefetch o (tileOf o.asid t i) with
    | none => none
    | some r => prefetchAll o t is r.1 (k + if r.2 then 1 else 0)

/-- R324: TPREF's fills and its DETAIL; none while one is held. -/
def State.runPref (s : State) (o : EngOp) (t : Tensor) (tiles : List Nat) : Option (State × Nat) :=
  (prefetchAll o t tiles s 0).map fun r =>
    (r.1, (tiles.filter fun i => r.1.isPresent o (tileOf o.asid t i)).length + r.2 * 2 ^ 5)

/-- Reads whole tiles, by index; none when one must wait. -/
def State.readTiles (n : Nat) (o : EngOp) (t : Tensor) : State → List Nat → List (Nat × List Byte) → Sum (State × List (Nat × List Byte)) State
  | s, [], acc => .inl (s, acc)
  | s, i :: is, acc =>
    let x := tileOf o.asid t i
    match s.opRead n o x 0 x.bytes with
    | .ok s bs => State.readTiles n o t (s.traceTile o 0 x) is ((i, bs) :: acc)
    | .denied s => State.readTiles n o t (s.traceTile o 0 x) is ((i, List.replicate x.bytes 0) :: acc)
    | .wait s => .inr s

/-- Coordinates of element k of a THALO's box; none outside the tensor's extents. -/
def haloCoord (t : Tensor) (tile h dims k : Nat) : Option (List Nat) :=
  let lo := (List.zipWith (· * ·) (digits t.grid tile) t.text).mapIdx fun i (x : Nat) =>
    if pteBit dims i then (x : Int) - h else (x : Int)
  let e := List.zipWith (fun (a : Int) (b : Nat) => a + b) lo (digits (haloBox t h dims) k)
  if (List.zipWith (fun (a : Int) (x : Nat) => decide (0 ≤ a) && decide (a < x)) e t.extent).all fun b => b then
    some (e.map Int.toNat)
  else none

/-- The tile that holds an element, and the element's place in it. -/
def Tensor.locate (t : Tensor) (e : List Nat) : Nat × Nat :=
  (undigits t.grid (List.zipWith (· / ·) e t.text), undigits t.text (List.zipWith (· % ·) e t.text))

/-- The bytes of a THALO's box, from the tiles read. -/
def haloBytes (t : Tensor) (tile h dims : Nat) (tiles : List (Nat × List Byte)) : List Byte :=
  (List.range (prod (haloBox t h dims))).flatMap fun k =>
    match haloCoord t tile h dims k with
    | none => List.replicate t.elemBytes 0
    | some e =>
      let x := t.locate e
      (((tiles.find? fun y => y.1 = x.1).map (·.2)).getD []).drop (x.2 * t.elemBytes) |>.take t.elemBytes

/-- The CSM side of a THALO, as a copy's (R325). -/
def haloSide (t : Tensor) (ref h dims : Nat) : CsmSide :=
  { ref := ref, swz := t.swizzle, ext := haloExtent t h dims, tb := none, writes := true }

/-- R325: reads the tile and its halo and writes the box. -/
def State.runHalo (s : State) (n : Nat) (o : EngOp) (t : Tensor) (tile ref h dims : Nat) : State :=
  let box := prod (haloBox t h dims)
  let need := (((List.range box).filterMap fun k => (haloCoord t tile h dims k).map fun e => (t.locate e).1).eraseDups)
  match State.readTiles n o t s need [] with
  | .inr s => s
  | .inl (s, tiles) =>
    let side := haloSide t ref h dims
    let bs := haloBytes t tile h dims tiles
    let bs := bs ++ List.replicate (side.ext - bs.length) 0
    let s := (List.range side.units).foldl (fun s u => s.sideLand o.block side u (some ((bs.drop (128 * u)).take 128))) s
    s.finishOp n 2 0 side.units

/-- Dirty sectors of the entries of some regions that satisfy f. -/
def State.dirtyIn (s : State) (rs : List Nat) (f : Ent → Bool) : Nat :=
  rs.foldl (fun k r =>
    k + (((s.region r).ents.flatMap (·.2)).filter f).foldl (fun k e => k + laneCount e.sdirty) 0) 0

/-- Dirty sectors of the entries of a partition that satisfy f. -/
def State.dirtyCount (s : State) (p : Nat) (f : Ent → Bool) : Nat := s.dirtyIn (s.regionsOf p) f

/-- A count as DETAIL, saturating. -/
def satDetail (n : Nat) : Nat := min n (2 ^ 20 - 1)

/-- R327: the entries that a TWB names. -/
def EngOp.twbHits (o : EngOp) (t : Tensor) (tile n : Nat) : Ent → Bool :=
  if n = 0 then fun e => e.asid = o.asid && e.tensor = t.root
  else
    let keys := ((List.range n).filter fun i => tile + i < t.tiles).map fun i => (tileOf o.asid t (tile + i)).key
    fun e => e.asid = o.asid && keys.any fun k => e.tensor = k.1 && e.tile = k.2.1

/-- One past the last byte of a tensor's footprint (R312). -/
def Tensor.footEnd (t : Tensor) : Nat :=
  let k4 := t.format = 5
  let rest := (List.zipWith (fun e st => (e - 1) * st) t.extent t.stride).drop (if k4 then 1 else 0)
  rest.foldl (· + ·) (t.base + (if k4 then ceilDiv (t.extent.headD 0) 2 else fmtBits t.format / 8))

/-- R302, R327, R422: the entries of windowed pages, in the lenders' slices, that hold bytes of the tiles that a TWB names. -/
def State.twbWindowed (s : State) (o : EngOp) (t : Tensor) (tile n : Nat) (e : Ent) : Bool :=
  e.asid = 15 &&
  (match (s.opVf o).bind fun v => backWalk s.mem (4096 * e.tile) 4 0 v.ptroot 0 with
   | none => false
   | some va =>
     if n = 0 then decide (t.base < va + 4096) && decide (va < t.footEnd)
     else
       ((List.range n).filter fun i => tile + i < t.tiles).any fun i =>
         let x := tileOf o.asid t (tile + i)
         (List.range (ceilDiv x.bytes 16)).any fun g => let y := x.granule g; y.2 != 0 && y.1 / 4096 = va / 4096)

/-- The regions of lenders whose windows a partition borrows (R421). -/
def State.lenders (s : State) (p : Nat) : List Nat :=
  (s.regions.filter fun e => !s.inPart p e.1 && e.2.wins.any fun w => w.2.valid && w.2.borrower = p).map (·.1)

/-- Units written so far become FULL (R330), and a cancelled operation ends. -/
def State.endHalo (s : State) (o : EngOp) (side : CsmSide) : State :=
  (List.range side.units).foldl (fun s u => s.sideLand o.block side u none) s

/-- Units of an MCAST at one destination. -/
def mcastUnits (t : Tensor) (n : Nat) : Nat := n * t.tileStride / 128

/-- R342, R257: an early end of an MCAST at destination i: what was not delivered there turns FULL and leaves SECTORS. -/
def State.endDest (s : State) (o : EngOp) (units : Nat) (tbs : Option (List (Nat × Nat))) (i : Nat) (d : Nat × Nat) : State :=
  let left := (List.range units).filter fun u => !o.unitsDone.contains (i * units + u)
  let poke := fun (f : Nat → Nat) (s : State) =>
    match tbs.bind fun t => t[i]? with
    | some p => s.putGranule p (f (s.granule p.1 p.2))
    | none => s
  let s := left.foldl (fun s u => poke tbUnit (s.csmMark d.1 ((d.2 + 128 * u) / 16) 8 false)) s
  poke (fun g => tbTag g 15) s

/-- R342, R257: an early end of an MCAST at every destination. -/
def State.endMcast (s : State) (o : EngOp) (units : Nat) (dests : List (Nat × Nat)) (tbs : Option (List (Nat × Nat))) : State :=
  (dests.mapIdx fun i d => (i, d)).foldl (fun s x => s.endDest o units tbs x.1 x.2) s

/-- The other tiles that an MCAST has sent enter its block's trace at its end (R375, R376). -/
def State.presentMcast (s : State) (o : EngOp) (t : Tensor) (first k : Nat) : State :=
  s.presentTiles o 0 k fun i => some (tileOf o.asid t (first + i))

/-- Whether an operation captured a tensor by its id (R305, R311). -/
def OpKind.captured (k : OpKind) (id : Nat) : Bool :=
  match k with
  | .copy _ t | .mma _ t | .tracex _ t _ _ => (t.map fun t => decide (t.id = id)).getD false
  | .mcast t _ _ _ _ | .tlook t _ | .tpref t _ | .thalo t _ _ _ _ | .tinv t _ | .twb t _ _ | .tdead t _ _ _ => t.id = id
  | .tview t _ spec => spec.isSome && t.id = id
  | _ => false

/-- R322: what a tile-cache operation does when it completes; nothing while it must wait. -/
def State.completeTile (s : State) (n : Nat) (o : EngOp) : State :=
  let cancelled := o.cancelled || o.status.isSome
  let st := o.status.getD 0x20
  match o.kind with
  | .tlook t i => s.finishOp n 2 (o.status.getD 0) (s.look o (tileOf o.asid t i))
  | .tpref t tiles =>
    if cancelled then s.finishOp n 2 st 0
    else match s.runPref o t tiles with
      | none => s
      | some r => r.1.finishOp n 2 0 r.2
  | .thalo t i ref h dims =>
    if cancelled then (s.endHalo o (haloSide t ref h dims)).finishOp n 2 st 0
    else if o.faulted then s
    else s.runHalo n o t i ref h dims
  | .twb t i k =>
    let p := (s.opReq o).part
    let f := o.twbHits t i k
    let far := s.twbWindowed o t i k
    let d := s.dirtyCount p f + s.dirtyIn (s.lenders p) far
    let s := (s.lenders p).foldl (fun s r => s.flushRegion r far false false) (s.flushPart p f false false)
    s.finishOp n 2 (o.status.getD 0) (satDetail d)
  | .tdead _ _ _ _ =>
    let waits := s.regions.any fun r => r.2.dfq.any fun f => f.op = n
    if cancelled then s.finishOp n 2 st o.unitsDone.length
    else if waits then s
    else s.finishOp n 2 0 o.unitsDone.length
  | .tview _ target spec =>
    let held := spec.isNone && s.ops.any fun e => e.1 != n && e.2.asid = o.asid && e.2.kind.captured target
    if held then s else s.finishOp n 2 (o.status.getD 0) 0
  | .mcast t first k dests tbs =>
    let units := mcastUnits t k
    let all := (List.range (units * dests.length)).all fun u => o.unitsDone.contains u
    if all then (s.presentMcast o t first k).finishOp n 2 (o.status.getD 0) dests.length
    else if cancelled then ((s.endMcast o units dests tbs).presentMcast o t first k).finishOp n 2 st dests.length
    else s
  | _ => s

/-- Whether an operation is one of the tile cache's. -/
def OpKind.isTile : OpKind → Bool
  | .tlook _ _ | .tpref _ _ | .thalo _ _ _ _ _ | .tinv _ _ | .twb _ _ _ | .tdead _ _ _ _ | .tview _ _ _
  | .mcast _ _ _ _ _ => true
  | _ => false

/-- An operation that was never granted ends without effect (R330). -/
def State.dropTile (s : State) (n : Nat) (o : EngOp) : State :=
  let st := o.status.getD 0x20
  match o.kind with
  | .thalo t _ ref h dims => (s.endHalo o (haloSide t ref h dims)).finishOp n 2 st 0
  | .mcast t _ k dests tbs => (s.endMcast o (mcastUnits t k) dests tbs).finishOp n 2 st dests.length
  | _ => s.finishOp n 2 st 0

/-- TILE_OP_COMPLETE (R322, R330): an operation does its work and completes; one that was cancelled before its grant
completes without effect. TINV completes with its sweep. -/
def execTileOpComplete (n : Nat) (s : State) : Out :=
  .next (match tfind s.ops n with
    | none => s
    | some o =>
      if !o.kind.isTile then s
      else if !o.granted then (if o.cancelled || o.status.isSome then s.dropTile n o else s)
      else
        match o.kind with
        | .tinv _ _ => s
        | _ => s.completeTile n o)

/-- TINV_SWEEP_DONE (R326): the old entries are written back, unless discarded, and dropped. -/
def execTinvSweepDone (n : Nat) (s : State) : Out :=
  .next (match tfind s.ops n with
    | none => s
    | some o =>
      match o.kind with
      | .tinv t discard =>
        if o.granted then
          let q := s.opReq o
          let gen := (s.rootOf o t).gen
          let now := match s.opVf o with
            | some v => (Memory.read s.mem (v.desc t.root + 0x0E)).toNat
            | none => gen
          let f := fun (e : Ent) => e.asid = o.asid && e.tensor = t.root && e.gen != now
          let d := if discard then 0 else s.dirtyCount q.part f
          let s := s.flushPart q.part f true discard
          let P := s.part q.part
          (s.setPart q.part { P with sweeps := P.sweeps.filter (· != (o.asid, t.root)) }).finishOp n 2
            (o.status.getD 0) (satDetail d)
        else s
      | _ => s)

/-- A sector of an MCAST lands at destination i (R342, R344). -/
def State.mcastLand (s : State) (n i e u : Nat) (d : Nat × Nat) (tbs : Option (List (Nat × Nat))) (bs : List Byte) : State :=
  let s := (s.csmWrite d.1 (d.2 + 128 * u) bs).csmMark d.1 ((d.2 + 128 * u) / 16) 8 false
  let s := match tbs.bind fun t => t[i]? with
    | some p => s.putGranule p (tbUnit (s.granule p.1 p.2))
    | none => s
  s.modOp n fun o => { o with unitsDone := e :: o.unitsDone }

/-- A sector of an MCAST, sent by the slice or on its way: the state after the read, and the sector. -/
def State.mcastSector (s : State) (n : Nat) (o : EngOp) (x : Tile) (u off len : Nat) : Sum (State × List Byte) State :=
  match tfind o.sent u with
  | some bs => .inl (s, bs)
  | none =>
    match s.sector n o x off len with
    | .inl r => .inl (r.1.modOp n fun o => { o with sent := tset o.sent u r.2 }, r.2)
    | .inr s => .inr s

/-- MCAST_SECTOR_SEND (R342-R344): sector u is sent once and lands at one destination after another: event e is that of
destination e / units. -/
def execMcastSectorSend (n e : Nat) (s : State) : Out :=
  .next (match tfind s.ops n with
    | none => s
    | some o =>
      match o.kind with
      | .mcast t first k dests tbs =>
        let per := t.tileStride / 128
        let units := mcastUnits t k
        let u := e % units
        let x := tileOf o.asid t (first + u / per)
        let off := u % per * 128
        (match dests[e / units]? with
         | none => s
         | some d =>
           if o.granted && o.active && !o.unitsDone.contains e then
             match s.mcastSector n o x u off (min 128 (x.bytes - off)) with
             | .inl (s, bs) => ((s.touch n o (u / per)).presentMore n o 0 k fun i => some (tileOf o.asid t (first + i))).mcastLand n (e / units) e u d tbs bs
             | .inr s => s
           else s)
      | _ => s)

/-! ## Deadline fills (R332, R333) -/

/-- The fill with the earliest deadline. -/
def earliest (q : List DFill) : Option DFill :=
  q.foldl (fun a f => match a with | none => some f | some g => some (if f.deadline < g.deadline then f else g)) none

/-- Fills tiles whole; none when one must wait. -/
def State.fillAll (n : Nat) (o : EngOp) : State → List Tile → Sum State State
  | s, [] => .inl s
  | s, x :: xs =>
    match s.opReadAt n o x 0 x.bytes with
    | .ok s _ => State.fillAll n o s xs
    | .denied s => State.fillAll n o s xs
    | .wait s => .inr s

/-- Sectors that a fill has to fetch. -/
def State.fillSectors (s : State) (f : DFill) : Nat :=
  match tfind s.ops f.op with
  | none => 0
  | some o =>
    let q := s.opReq o
    (o.fillTiles f.idx).foldl (fun n x =>
      let all := ceilDiv x.bytes 128
      n + all - (match (s.entry (homeOf s q.part x)).filter fun e => e.fresh q.floor with
                 | some e => min all (laneCount e.svalid)
                 | none => 0)) 0

/-- The partition of a deadline fill. -/
def State.fillPart (s : State) (f : DFill) : Nat := ((tfind s.ops f.op).map fun o => (s.opReq o).part).getD 0

/-- The fills that a queue starts before one: of earlier deadlines, and of the same one those that came before. -/
def aheadOf (q : List DFill) (f : DFill) : List DFill :=
  (q.filter fun g => g.deadline < f.deadline) ++ (q.takeWhile (· != f)).filter fun g => g.deadline = f.deadline

/-- R332: a fill's deadline has passed, or lies before its estimated completion: the sectors queued ahead of it by the
budget rate, and the fill latency. -/
def State.fillLate (s : State) (r : Nat) (f : DFill) : Bool :=
  let R := s.region r
  let rate := (s.part (s.fillPart f)).dfbudget.toNat
  let ahead := ((aheadOf R.dfq f).map s.fillSectors).foldl (· + ·) 0
  rate = 0 || R.tclk ≥ f.deadline || f.deadline < R.tclk + ahead * 1024 / rate + Config.fillLatency R.tclk

/-- R330: a TDEAD is granted, or it is the first of its cluster's queue that is not; an OSLD's fills go ahead of it. -/
def State.mayFill (s : State) (n : Nat) (o : EngOp) : Bool :=
  !o.kind.isTile || o.granted || ((s.cluster (coreCluster o.core)).tileQ.filter fun k =>
    match tfind s.ops k with | some x => !x.granted | none => false).head? = some n

/-- DEADLINE_FILL_START (R332): the fill with the earliest deadline starts and is performed, within the budget. -/
def execDeadlineFillStart (r : Nat) (s : State) : Out :=
  .next (match earliest (s.region r).dfq with
    | none => s
    | some f =>
      match tfind s.ops f.op with
      | none => s
      | some o =>
        let p := s.fillPart f
        let cost := 1024 * s.fillSectors f
        if o.active && s.mayFill f.op o && !s.fillLate r f && cost ≤ (s.part p).dfTokens then
          match State.fillAll f.op o s (o.fillTiles f.idx) with
          | .inr s => s
          | .inl s =>
            let P := s.part p
            ((s.setPart p { P with dfTokens := P.dfTokens - cost }).fillDone r f).modOp f.op fun o =>
              { o with granted := o.granted || o.kind.isTile }
        else s)

/-- DEADLINE_FILL_CANCEL (R332): a fill that cannot meet its deadline is cancelled; its operation ends LATE. -/
def execDeadlineFillCancel (r k : Nat) (s : State) : Out :=
  .next (match (s.region r).dfq[k]? with
    | none => s
    | some f =>
      if s.fillLate r f then
        let R := s.region r
        (s.setRegion r { R with dfq := R.dfq.eraseIdx k }).opStatus f.op 0x21
      else s)

end Sys2Proof.Machine
end

