-- ==== Sys2Proof/Machine/Matrix.lean ====
section
/-! DEFINITION. The matrix engine (R260-R300): issue, the reservation table (R271-R273), gangs (R290-R294), and what
each operation does at grant and at completion. -/

namespace Sys2Proof.Machine

/-! ## Ownership and issue -/

/-- R268: a slot of another context; the lowest is named. -/
def Ctx.ownerCauses (c : Ctx) (slots : List Nat) : List Met :=
  if c.sp.sup then []
  else
    let own := fun (n : Nat) => tget 0 (c.s.cluster c.cluster).accown n
    match slots.find? fun n => (own n).getLsbD 12 && bits (own n).toNat 11 0 != c.s.warpAsid c.W with
    | none => []
    | some n => [(cAccOwner, n + bits (own n).toNat 11 0 * 2 ^ 16, 0)]

/-- R268: an unowned slot is claimed. -/
def Ctx.claim (c : Ctx) (slots : List Nat) : Ctx :=
  if c.sp.sup then c
  else
    let x := c.s.cluster c.cluster
    let asid := c.s.warpAsid c.W
    { c with s := c.s.setCluster c.cluster { x with
        accown := slots.foldl (fun t n =>
          if (tget 0 t n).getLsbD 12 then t else tset t n (BitVec.ofNat 32 (2 ^ 12 + asid))) x.accown } }

/-- PROT with reason 0x20 if a check fails (R277). -/
def prot20 (bad : Bool) : List Met := if bad then [(cProt, 0x20, 0)] else []

/-- LAYOUT if a check fails. -/
def layoutIf (bad : Bool) : List Met := if bad then [(cLayout, 0, 0)] else []

/-- Makes an operation and enters it in the reservation table (R271). -/
def Ctx.startMat (c : Ctx) (kind : OpKind) (d : BitVec 6) : Ctx :=
  let n := c.nextOp
  let cl := c.cluster
  let c := (c.claim kind.slots).startOp kind d
  let x := c.s.cluster cl
  { c with s := c.s.setCluster cl { x with resv := x.resv ++ [n] } }

/-- R271: all 32 entries of the reservation table are in use. -/
def Ctx.resvFull (c : Ctx) : Bool := decide (32 ≤ (c.s.cluster c.cluster).resv.length)

/-- An instruction of this chapter (R275): it waits while all 32 entries are in use. -/
def matIssue (d : BitVec 6) (srcs : List Src) (extra : Ctx → List Met) (kind : Ctx → OpKind) (after : Nat → Ctx → Ctx)
    (s : State) (early : Early := []) : Out :=
  engIssue true d srcs extra (fun c =>
    let n := c.nextOp
    ((after n (c.startMat (kind c) d)).advance 1).finish true) s early Ctx.resvFull

/-- Nothing follows the issue. -/
def noMore (_ : Nat) (c : Ctx) : Ctx := c

/-! ## MMA at issue (R279-R282) -/

/-- Rows of a packed operand. -/
def packRows (p : Nat) : Nat := bits p 12 8 + 1
/-- G: A comes from a tile handle. -/
def packG (p : Nat) : Bool := pteBit p 7
/-- Z. -/
def packZ (p : Nat) : Bool := pteBit p 6
/-- EPI. -/
def packEpi (p : Nat) : Nat := bits p 15 13
/-- ASWZ or DSWZ. -/
def packSwz (p : Nat) : Nat := bits p 17 16
/-- SLOT. -/
def packSlot (p : Nat) : Nat := bits p 5 0

/-- Bytes of A with its side arrays (R280, R281). -/
def aLen (fmt : Word) (rows : Nat) : Nat :=
  256 * rows + (if opClass (fmtAf fmt) = 4 then 64 * rows * (if fmtKsch fmt = 1 then 2 else 1) else 0)

/-- Members that the gang CSRs list (R290): core and number. -/
def gangList (a b : Word) : List (Nat × Nat) :=
  ((List.range 6).map fun i => bits (a.toNat + b.toNat % 65536 * 2 ^ 32) (8 * i + 7) (8 * i)).filterMap fun m =>
    if pteBit m 7 then some (bits m 6 5, bits m 4 0) else none

/-- The warp that a member names. -/
def Ctx.gangWarp (c : Ctx) (bySlot : Bool) (m : Nat × Nat) : Option Nat :=
  if bySlot then
    (c.s.warps.find? fun e =>
      e.2.core = 4 * c.cluster + m.1 && e.2.slot = m.2 &&
        ((tfind c.s.blocks e.2.block).map (·.resident)).getD false).map (·.1)
  else (memberOn c.s c.W.block m.1).bind fun B => B.warps[m.2]?

/-- The warps of the issuing warp's gang; none in the list where a member names nothing. -/
def Ctx.gang (c : Ctx) : List (Option Nat) :=
  (gangList c.W.sc.csr.ganga c.W.sc.csr.gangb).map (c.gangWarp (c.W.sc.csr.gangb.getLsbD 16))

/-- R291: the list names two to six distinct resident warps, the issuing one among them, or nobody. -/
def Ctx.gangCauses (c : Ctx) : List Met :=
  let g := c.gang
  if g.isEmpty then []
  else
    let ws := g.filterMap fun x => x
    if g.all Option.isSome && ws.eraseDups.length = ws.length && 2 ≤ ws.length && ws.contains c.w then []
    else [(cProt, 0x21, 0)]

/-- R282: the issue checks of the A operand of an MMA. -/
def Ctx.mmaSource (c : Ctx) (aLo aHi p : Nat) : List Met :=
  let rows := packRows p
  let g := packG p
  let len := aLen c.sp.fmt rows
  let tb := if aHi = 0xFFFFFFFF then none else some aHi
  let h := c.handle (aLo + aHi * 2 ^ 32)
  (if g then [] else
    (if aLo % 16 = 0 then [] else [(cMisalign, 0, localBase + aLo)]) ++
    (match tb with | some r => if r % 16 = 0 then [] else [(cMisalign, 0, localBase + r)] | none => [])) ++
  prot20 (!g && packSwz p != 0 && (aLo % 1024 != 0 || rows % 4 != 0)) ++
  (if g then
    match h with
    | none => [(cProt, 0x30, 0)]
    | some (t, i) =>
      (if t.tiles < i + ceilDiv len t.tileBytes then [(cProt, 0x30, 0)] else []) ++
      (if t.tileBytes % 256 = 0 then [] else [(cProt, 0x23, 0)])
   else
    (if (c.csmPlace aLo len).isSome then [] else [(cCsmBound, 0, localBase + aLo)]) ++
    (match tb with
     | some r =>
       if (c.csmPlace r 16).isSome then
         let q := c.csmAt r
         let tag := bits (c.s.granule q.1 q.2) 7 4
         layoutIf (tag != 0 && tag != packSwz p + 1)
       else [(cCsmBound, 0, localBase + r)]
     | none => []))

/-- R282: the issue checks of MMA. -/
def Ctx.mmaCauses (c : Ctx) (aLo aHi bref p : Nat) : List Met :=
  prot20 (2 < packEpi p || 2 ^ 18 ≤ p || (packG p && packSwz p != 0) || 2 ^ 17 ≤ bref) ++ c.mmaSource aLo aHi p ++
  layoutIf (fmtBad c.sp.fmt) ++ c.gangCauses ++ c.ownerCauses [packSlot p]

/-! ## Latches (R292-R294) -/

/-- Two lists name the same set. -/
def sameSet (a b : List Nat) : Bool := a.length = b.length && a.all b.contains

/-- The operands of an MMA. -/
def EngOp.mma? (o : EngOp) : Option MmaOps :=
  match o.kind with
  | .mma m _ => some m
  | _ => none

/-- R293: what the members of a full latch disagree in: 0 nothing, 1 formats, 2 anything else. -/
def latchClash (os : List EngOp) : Nat :=
  let ms := os.filterMap EngOp.mma?
  let fm := os.map fun o => (fmtAf o.fmt, fmtBf o.fmt, fmtKsch o.fmt)
  let slots := ms.map fun m => packSlot m.packed
  if fm.any fun x => some x != fm.head? then 1
  else if (ms.any fun m => some m.bref != (ms.head?).map (·.bref)) || slots.eraseDups.length != slots.length ||
      2 < (ms.filter fun m => packG m.packed).length then 2
  else 0

/-- Operations by number. -/
def State.opsOf (s : State) (ns : List Nat) : List EngOp := ns.filterMap (tfind s.ops ·)

/-- R293: a latch that has filled with members that do not agree ends. -/
def State.checkLatch (s : State) (cl : Nat) (l : Latch) : State :=
  if l.ops.length < l.members.length then s
  else
    let k := latchClash (s.opsOf (l.ops.map (·.2)))
    if k = 0 then s
    else
      let s := l.ops.foldl (fun s e =>
        s.modOp e.2 fun o => { o with status := some (if k = 1 then cLayout else 0x22), count := if k = 1 then 0 else 1 }) s
      let x := s.cluster cl
      s.setCluster cl { x with latches := x.latches.filter (· != l) }

/-- Puts a member's entry in the first latch of its set that lacks one from it, or in a new one (R292). -/
def joinLatches (gang : List Nat) (w n : Nat) : List Latch → List Latch
  | [] => [{ members := gang, ops := [(w, n)] }]
  | l :: ls =>
    if sameSet l.members gang && !l.ops.any fun e => e.1 = w then { l with ops := l.ops ++ [(w, n)] } :: ls
    else l :: joinLatches gang w n ls

/-- A gang MMA joins its latch. -/
def Ctx.joinLatch (c : Ctx) (gang : List Nat) (n : Nat) : Ctx :=
  if gang.isEmpty then c
  else
    let cl := c.cluster
    let x := c.s.cluster cl
    let ls := joinLatches gang c.w n x.latches
    let s := c.s.setCluster cl { x with latches := ls }
    { c with s := match ls.find? fun l => l.ops.any fun e => e.2 = n with
                  | some l => s.checkLatch cl l
                  | none => s }

/-- MMA (R279-R282). -/
def execMma (f : E4) (s : State) : Out :=
  matIssue f.d (usrc2 f.a ++ usrc f.b ++ usrc f.c)
    (fun c => c.mmaCauses (c.sreg f.a).toNat ((c.sPair f.a).toNat / 2 ^ 32) (c.sreg f.b).toNat (c.sreg f.c).toNat)
    (fun c =>
      let p := (c.sreg f.c).toNat
      let h := (c.sPair f.a).toNat
      let x := if packG p then c.handle h else none
      let h := match x with | some (t, i) => t.id + i * 2 ^ 20 | none => h
      .mma { aLo := h % 2 ^ 32, aHi := h / 2 ^ 32, bref := (c.sreg f.b).toNat, packed := p,
             gang := c.gang.filterMap fun x => x } (x.map (·.1)))
    (fun n c => c.joinLatch (c.gang.filterMap fun x => x) n) s
    (early := [([], fun c => layoutIf (fmtBad c.sp.fmt) ++ c.gangCauses),
      (usrc f.b, fun c => prot20 (2 ^ 17 ≤ (c.sreg f.b).toNat)),
      (usrc f.c, fun c =>
        let p := (c.sreg f.c).toNat
        prot20 (2 < packEpi p || 2 ^ 18 ≤ p || (packG p && packSwz p != 0)) ++ c.ownerCauses [packSlot p]),
      (usrc2 f.a ++ usrc f.c, fun c =>
        c.mmaSource (c.sreg f.a).toNat ((c.sPair f.a).toNat / 2 ^ 32) (c.sreg f.c).toNat)])

/-! ## The other instructions at issue -/

/-- MMAZ (R286). -/
def execMmaz (f : EDC) (s : State) : Out :=
  matIssue f.d (usrc f.c)
    (fun c =>
      let p := (c.sreg f.c).toNat
      let first := bits p 5 0
      let n := bits p 13 8 + 1
      prot20 (bits p 7 6 != 0 || 2 ^ 14 ≤ p || 64 < first + n) ++ layoutIf (fmtBad c.sp.fmt) ++
        c.ownerCauses (((List.range n).map (first + ·)).filter (· < 64)))
    (fun c => let p := (c.sreg f.c).toNat; .mmaz (bits p 5 0) (bits p 13 8 + 1)) noMore s
    (early := [([], fun c => layoutIf (fmtBad c.sp.fmt))])

/-- TOPKR (R287). -/
def execTopkr (f : EDAC) (s : State) : Out :=
  matIssue f.d (usrc f.a ++ usrc f.c)
    (fun c =>
      let p := (c.sreg f.c).toNat
      prot20 (2 ^ 24 ≤ (c.sreg f.a).toNat || bits p 7 6 != 0 || 2 ^ 13 ≤ p || 8 < bits p 11 8) ++
        c.ownerCauses [packSlot p])
    (fun c =>
      let p := (c.sreg f.c).toNat
      .topkr (c.sreg f.a).toNat (packSlot p) (bits p 11 8) (bits p 12 12)) noMore s
    (early := [(usrc f.a, fun c => prot20 (2 ^ 24 ≤ (c.sreg f.a).toNat)),
      (usrc f.c, fun c =>
        let p := (c.sreg f.c).toNat
        prot20 (bits p 7 6 != 0 || 2 ^ 13 ≤ p || 8 < bits p 11 8) ++ c.ownerCauses [packSlot p])])

/-- Bytes that an ACCRD writes (R288). -/
def accrdLen (fmt : Word) (p : Nat) : Nat :=
  if pteBit p 7 then 64 * packRows p else 128 * outSize (fmtOut fmt) * packRows p

/-- R96, R104: OUTF does not name an output format. -/
def outBad (fmt : Word) : Bool := fmtOut fmt = 5 || 6 < fmtOut fmt

/-- ACCRD (R288). -/
def execAccrd (f : E4) (s : State) : Out :=
  matIssue f.d (usrc f.a ++ usrc f.b ++ usrc f.c)
    (fun c =>
      let ref := (c.sreg f.a).toNat
      let p := (c.sreg f.c).toNat
      let topk := pteBit p 7
      let len := accrdLen c.sp.fmt p
      (if ref % 16 = 0 then [] else [(cMisalign, 0, localBase + ref)]) ++
      prot20 (2 ^ 18 ≤ p || bits p 15 13 != 0 || (topk && packSwz p != 0) ||
        (!topk && packSwz p != 0 && (ref % 1024 != 0 || len % 1024 != 0))) ++
      c.rangeCauses ref len ++ layoutIf (!topk && outBad c.sp.fmt) ++ c.ownerCauses [packSlot p])
    (fun c => .accrd (c.sreg f.a).toNat (c.sreg f.b) (c.sreg f.c).toNat) noMore s
    (early := [(usrc f.a, fun c => if (c.sreg f.a).toNat % 16 = 0 then [] else [(cMisalign, 0, localBase + (c.sreg f.a).toNat)]),
      (usrc f.c, fun c =>
        let p := (c.sreg f.c).toNat
        prot20 (2 ^ 18 ≤ p || bits p 15 13 != 0 || (pteBit p 7 && packSwz p != 0)) ++
          layoutIf (!pteBit p 7 && outBad c.sp.fmt) ++ c.ownerCauses [packSlot p]),
      (usrc f.a ++ usrc f.c, fun c => c.rangeCauses (c.sreg f.a).toNat (accrdLen c.sp.fmt (c.sreg f.c).toNat))])

/-- The address operand of ACCST, ACCLD and OSLD (R264, R289). -/
def vaCauses (va n : Nat) : List Met :=
  if physBase < va + n then [(cProt, 0x01, va)] else if va % 256 != 0 then [(cProt, 0x24, va)] else []

/-- R182: an address of the supervisor physical window, which n bytes from va on do not leave. -/
def physInside (va n : Nat) : Bool := decide (physBase ≤ va) && decide (va < ctrlBase) && paInside (va - physBase) n

/-- What the address operand of ACCST and ACCLD meets (R289); in supervisor mode they take an address of the physical window
(R182). -/
def Ctx.imageVaCauses (c : Ctx) (va : Nat) (write : Bool) : List Met :=
  if c.sp.sup && physInside va slotImageLen then
    (if va % 256 != 0 then [(cProt, 0x24, va)] else []) ++
      (c.physCauses (va - physBase) slotImageLen write).map fun z => (z.1, z.2, va)
  else vaCauses va slotImageLen

/-- What ACCST and ACCLD meet (R289). -/
def Ctx.slotVaCauses (c : Ctx) (va p : Nat) (write : Bool) : List Met :=
  c.imageVaCauses va write ++ prot20 (64 ≤ p) ++ c.ownerCauses [p % 64]

/-- Those that one operand of the two decides. -/
def slotVaEarly (f : EDAC) (write : Bool) : Early :=
  [(usrc2 f.a, fun c => c.imageVaCauses (c.sPair f.a).toNat write),
   (usrc f.c, fun c => prot20 (64 ≤ (c.sreg f.c).toNat) ++ c.ownerCauses [(c.sreg f.c).toNat % 64])]

/-- ACCST (R289). -/
def execAccst (f : EDAC) (s : State) : Out :=
  matIssue f.d (usrc2 f.a ++ usrc f.c) (fun c => c.slotVaCauses (c.sPair f.a).toNat (c.sreg f.c).toNat true)
    (fun c => .accst (c.sPair f.a).toNat (c.sreg f.c).toNat) noMore s (early := slotVaEarly f true)

/-- ACCLD (R289). -/
def execAccld (f : EDAC) (s : State) : Out :=
  matIssue f.d (usrc2 f.a ++ usrc f.c) (fun c => c.slotVaCauses (c.sPair f.a).toNat (c.sreg f.c).toNat false)
    (fun c => .accld (c.sPair f.a).toNat (c.sreg f.c).toNat) noMore s (early := slotVaEarly f false)

/-- Pages of an OSLD. -/
def osldPages (p : Nat) : Nat := bits p 15 8 + 1

/-- The fills of an OSLD with a deadline fit in the queue; without, it is not eligible (R332). -/
def Ctx.osldRoom (c : Ctx) (f : E4) : Bool := c.sreg f.c = 0 || c.dfRoom (osldPages (c.sreg f.b).toNat)

/-- OSLD (R264): one deadline fill for each page. -/
def execOsld (f : E4) (s : State) : Out :=
  engIssue true f.d (usrc2 f.a ++ usrc f.b ++ usrc f.c)
    (fun c =>
      let p := (c.sreg f.b).toNat
      if c.osldRoom f then
        prot20 (2 ^ 16 ≤ p || 256 < bits p 7 0 + osldPages p) ++ vaCauses (c.sPair f.a).toNat (32768 * osldPages p)
      else [])
    (fun c =>
      let p := (c.sreg f.b).toNat
      let dl := (c.sreg f.c).toNat
      let n := osldPages p
      if !c.osldRoom f then c.stall
      else
        let k := c.nextOp
        let c := c.startMat (.osld (c.sPair f.a).toNat (bits p 7 0) n dl) f.d
        ((if dl = 0 then c else c.enqFills k (List.range n) dl).advance 1).finish true) s
    (early := [(usrc f.b, fun c =>
      let p := (c.sreg f.b).toNat
      prot20 (2 ^ 16 ≤ p || 256 < bits p 7 0 + osldPages p))])
    (busy := Ctx.resvFull)

/-! ## The reservation table (R271-R273) -/

/-- Pages that an operation reads (R262, R272). -/
def EngOp.reads (o : EngOp) : List Nat :=
  match o.mma? with
  | none => []
  | some m => bits m.bref 7 0 :: (if opClass (fmtBf o.fmt) = 4 then [bits m.bref 15 8] else [])

/-- Pages that an operation loads. -/
def EngOp.loads (o : EngOp) : List Nat :=
  match o.kind with
  | .osld _ page n _ => (List.range n).map (page + ·)
  | _ => []

/-- Unit of an operation (R274): array, accumulator port, epilogue, fill unit. -/
def OpKind.unit : OpKind → Nat
  | .mma _ _ => 0
  | .mmaz _ _ => 1
  | .topkr _ _ _ _ => 1
  | .osld _ _ _ _ => 3
  | _ => 2

/-- Whether an operation is a matrix-engine one. -/
def OpKind.isMat : OpKind → Bool
  | .mma _ _ | .mmaz _ _ | .topkr _ _ _ _ | .osld _ _ _ _ | .accrd _ _ _ | .accst _ _ | .accld _ _ => true
  | _ => false

/-- Whether an MMA reads A through a handle. -/
def EngOp.global (o : EngOp) : Bool := match o.mma? with | some m => packG m.packed | none => false

/-- Two lists share a member. -/
def shares (a b : List Nat) : Bool := a.any b.contains

/-- R272: an older entry holds a younger one back. -/
def EngOp.holds (e o : EngOp) : Bool :=
  (shares e.kind.slots o.kind.slots && !(e.mma?.isSome && o.mma?.isSome && e.granted)) ||
  shares o.reads e.loads || shares o.loads (e.reads ++ e.loads)

/-- Entries older than n. -/
def olderThan (n : Nat) (resv : List Nat) : List Nat := resv.takeWhile (· != n)

/-- R272 for the entry numbered n. -/
def State.allowed (s : State) (cl : Cluster) (n : Nat) (o : EngOp) : Bool :=
  (s.opsOf (olderThan n cl.resv)).all fun e => !e.holds o

/-- The entries of a latch in the order M0 to M5 of the first list that arrived (DEDUCED, log 66). -/
def Latch.passes (l : Latch) : List Nat := l.members.filterMap fun w => (l.ops.find? fun e => e.1 = w).map (·.2)

/-- The latch of an entry. -/
def Cluster.latchOf (cl : Cluster) (n : Nat) : Option Latch := cl.latches.find? fun l => l.ops.any fun e => e.2 = n

/-- A member of a group whose pass is still to run: granted and not complete (R292). -/
def State.passLeft (s : State) (k : Nat) : Bool := ((tfind s.ops k).map (·.granted)).getD false

/-- The entries that are granted with n, in the order of their passes: its group (R292), or itself; none while its latch is
not full or holds a parked member (R299). A replayed member goes alone, after the others have completed (R296). -/
def State.groupOf (s : State) (cl : Cluster) (n : Nat) (o : EngOp) : Option (List Nat) :=
  match o.mma? with
  | none => some [n]
  | some m =>
    if m.gang.isEmpty then some [n]
    else if o.count = 2 then (if (o.mates.filter (· != n)).any s.passLeft then none else some [n])
    else
      match cl.latchOf n with
      | none => none
      | some l =>
        let ns := l.passes
        if l.ops.length = l.members.length && !(s.opsOf ns).any (·.parked) then some ns else none

/-- Whether an entry may be granted now. -/
def State.eligible (s : State) (cl : Cluster) (n : Nat) : Bool :=
  match tfind s.ops n with
  | none => false
  | some o =>
    !o.granted && o.active && !o.parked &&
    (match s.groupOf cl n o with
     | none => false
     | some ns =>
       let os := s.opsOf ns
       os.all (·.active) && ns.all (fun k => match tfind s.ops k with | some e => s.allowed cl k e | none => false) &&
       decide (cl.shadows.length + (os.filter (·.global)).length ≤ 2))

/-- R273: supervisor entries first, then the highest launch priority. -/
def State.entryRank (s : State) (cl : Cluster) (n : Nat) : Nat :=
  match tfind s.ops n with
  | none => 0
  | some o =>
    (s.opsOf ((s.groupOf cl n o).getD [n])).foldl (fun r e =>
      max r ((if e.sup then 256 else 0) + ((tfind s.launches e.launch).map (·.prio)).getD 0)) 0

/-- R273: the entry that a unit grants next: the oldest one, once it is old enough, or the best rank. -/
def State.mayGrant (s : State) (cl : Cluster) (n : Nat) (unit : Nat) : Bool :=
  let es := cl.resv.filter fun k =>
    (match tfind s.ops k with | some o => o.kind.unit = unit | none => false) && s.eligible cl k
  let best := es.foldl (fun r k => max r (s.entryRank cl k)) 0
  es.contains n &&
    (es.head? = some n || (es.find? fun k => s.entryRank cl k = best) = some n ||
     (match tfind s.ops n, es.head? with
      | some o, some h => ((s.groupOf cl n o).getD []).contains h
      | _, _ => false))

/-- A page is VALID for an address space (R261). -/
def Cluster.pageOk (cl : Cluster) (asid k : Nat) : Bool :=
  match tfind cl.pages k with
  | none => false
  | some p => p.valid && p.asid = asid

/-- What happens at grant (R264, R283, R295). -/
def State.grantMat (s : State) (ci n : Nat) : State :=
  match tfind s.ops n with
  | none => s
  | some o =>
    let cl := s.cluster ci
    let s := s.modOp n fun o => { o with granted := true }
    match o.kind with
    | .osld _ page k _ =>
      s.setCluster ci { cl with pages := cl.pages.filter fun e => e.1 < page || page + k ≤ e.1 }
    | .mma m _ =>
      if !o.reads.all (cl.pageOk o.asid) then s.opStatus n 0x22
      else if packG m.packed then
        let slot := packSlot m.packed
        s.setCluster ci { cl with shadows := cl.shadows ++ [(n, slot, tget AccSlot.reset cl.slots slot)] }
      else s
    | _ => s

/-- RESERVATION_GRANT (R272, R273): a unit takes up an entry; a gang's members are granted together (R292). -/
def execReservationGrant (n : Nat) (s : State) : Out :=
  .next (match tfind s.ops n with
    | none => s
    | some o =>
      let ci := coreCluster o.core
      let cl := s.cluster ci
      if o.kind.isMat && s.mayGrant cl n o.kind.unit then
        let ns := (s.groupOf cl n o).getD []
        let s := ns.foldl (fun s k => (s.grantMat ci k).modOp k fun o => if o.count = 2 then o else { o with mates := ns }) s
        let cl := s.cluster ci
        s.setCluster ci { cl with latches := cl.latches.filter fun l => !l.ops.any fun e => e.2 = n }
      else s)

/-! ## Completion -/

/-- R278: the cause of an operation that ended so is raised in the issuing warp; that of supervisor code is a MACHINE
fault, and that of a warp that is gone ends the launch. -/
def State.engineCause (s : State) (o : EngOp) (code reason : Nat) : State :=
  match tfind s.warps o.warp with
  | none =>
    s.endLaunch o.launch { status := code, detail := if code = cProt then reason else 0, pc := o.pc.toNat,
                           blk := (tfind s.blocks o.block).map (·.lin) }
  | some W =>
    if o.sup then s.machineFault (s.warpPart W) (coreRegion o.core)
    else
      let z : DefCause := { cause := code, reason := reason, addr := 0, split := 4, uid := 0, pc := o.pc, aux := none, sup := false }
      { s with warps := tset s.warps o.warp { W with engQ := W.engQ ++ [z] } }

/-- A matrix operation ends early with a status; the causes of R278 follow. -/
def State.endMat (s : State) (n : Nat) (o : EngOp) (st : Nat) : State :=
  let t := s.finishOp n 1 st (match o.kind with | .osld _ _ _ _ => o.count | _ => 0)
  if st = cLayout then t.engineCause o cLayout 0
  else if st = cGangTimeout then t.engineCause o cGangTimeout 0
  else if st = 0x22 && o.count = 1 && o.mma?.isSome then t.engineCause o cProt 0x22
  else t

/-- Replaces a slot. -/
def State.setSlot (s : State) (ci n : Nat) (x : AccSlot) : State :=
  let cl := s.cluster ci
  s.setCluster ci { cl with slots := tset cl.slots n x }

/-- The result of a pass enters its slot; a younger MMA that has been granted takes its shadow from there (R272, R295). -/
def State.commitSlot (s : State) (ci n slot : Nat) (x : AccSlot) : State :=
  let s := s.setSlot ci slot x
  let cl := s.cluster ci
  s.setCluster ci { cl with shadows := cl.shadows.map fun e => if e.1 != n && e.2.1 = slot then (e.1, slot, x) else e }

/-- A slot. -/
def State.slot (s : State) (ci n : Nat) : AccSlot := tget AccSlot.reset (s.cluster ci).slots n

/-- Bytes of an overhead-store page. -/
def State.pageBytes (s : State) (ci page off n : Nat) : Bytes :=
  (Memory.readN (s.cluster ci).osData (32768 * page + off) n).toArray

/-- The B operand of a pass (R262). -/
def State.bOperand (s : State) (ci : Nat) (fmt : Word) (bref : Nat) : Operand :=
  let k4 := opClass (fmtBf fmt) = 4
  let side := fun (off : Nat) => if k4 then s.pageBytes ci (bits bref 15 8) (16384 * bits bref 16 16 + off) 8192 else #[]
  { fmt := fmtBf fmt, ksch := fmtKsch fmt, data := s.pageBytes ci (bits bref 7 0) 0 32768, scales := side 0,
    maps := side 8192 }

/-- The A operand, from its bytes in linear order. -/
def aOperand (fmt : Word) (rows : Nat) (bs : List Byte) : Operand :=
  { fmt := fmtAf fmt, ksch := fmtKsch fmt, data := (bs.take (256 * rows)).toArray,
    scales := ((bs.drop (256 * rows)).take (64 * rows)).toArray, maps := (bs.drop (320 * rows)).toArray }

/-- R280: A in CSM, in linear order, once every granule is FULL. -/
def State.aFromCsm (s : State) (b ref swz rows len : Nat) : Option (List Byte) :=
  match s.csmOf b ref len with
  | none => none
  | some (core, a) =>
    if (List.range (len / 16)).all fun i => s.csmFull core (a / 16 + i) then
      some ((List.range (len / 16)).flatMap fun i =>
        let o := 16 * i
        s.csmRead core (a + if o < 256 * rows then swizzle swz o else o) 16)
    else none

/-- R281: A as the stream of a tensor's tiles. -/
def State.aFromTiles (s : State) (n : Nat) (o : EngOp) (t : Tensor) (tile len : Nat) : Got :=
  let tiles := (List.range (ceilDiv len t.tileBytes)).map (tile + ·)
  match State.readTiles n o t s tiles [] with
  | .inr s => .wait s
  | .inl (s, xs) => .ok s ((tiles.flatMap fun i => ((xs.find? fun y => y.1 = i).map (·.2)).getD []).take len)

/-- The A operand's bytes, as they can be had now. A granted operation whose block is gone runs to its end (R361) on bytes
that the CSM, given back, no longer holds: free values (log 69). -/
def State.fetchA (s : State) (n : Nat) (o : EngOp) (m : MmaOps) (t : Option Tensor) : Got :=
  let rows := packRows m.packed
  let len := aLen o.fmt rows
  match t with
  | none =>
    if (tfind s.blocks o.block).isNone then
      .ok { s with draws := s.draws + len } ((List.range len).map fun i => Config.freeByte (s.draws + i))
    else
    (match s.aFromCsm o.block m.aLo (packSwz m.packed) rows len with
     | some bs => .ok s bs
     | none => .wait s)
  | some t => s.aFromTiles n o t (bits (m.aLo + m.aHi * 2 ^ 32) 59 20) len

/-- R283, R285: a pass and its fold. -/
def AccSlot.mma (x : AccSlot) (a b : Operand) (p : Nat) : AccSlot :=
  let rows := packRows p
  let x := x.pass a b rows (packZ p)
  let x := if packEpi p = 0 then x else x.fold rows
  if packEpi p = 2 then x.clearRows rows else x

/-- R297: an MMA that meets an uncorrectable error writes NaN where it would have written. -/
def AccSlot.spoil (x : AccSlot) (p : Nat) : AccSlot :=
  let n := if packZ p then 32 else packRows p
  { x with data := accBuild fun i => if i / 128 < n then BitVec.ofNat 32 nan32 else tget 0 x.data i }

/-- An MMA completes, or waits for its A. -/
def State.runMma (s : State) (ci n : Nat) (o : EngOp) (m : MmaOps) (t : Option Tensor) : State :=
  let slot := packSlot m.packed
  let rows := packRows m.packed
  match s.fetchA n o m t with
  | .wait z =>
    if ((tfind z.ops n).map (·.faulted)).getD false then s else z
  | .denied z => z
  | .ok s bs =>
    let a := aOperand o.fmt rows bs
    let b := s.bOperand ci o.fmt m.bref
    if a.legal rows && b.legal 128 then (s.commitSlot ci n slot ((s.slot ci slot).mma a b m.packed)).finishOp n 1 0 0
    else s.endMat n o cLayout

/-- The flat tiles of a range: tile, offset, bytes. -/
def State.writeFlat (n : Nat) (o : EngOp) : State → List (Nat × Nat × Nat) → List Byte → Got
  | s, [], _ => .ok s []
  | s, (t, off, k) :: ps, bs =>
    let x := flatTile o.asid t
    let s := s.traceTile o 1 x
    match s.opWrite n o x off (bs.take k) with
    | .ok s _ =>
      let s := if s.isOpn (s.opReq o) t then s.modOp n fun o => { o with opened := true } else s
      State.writeFlat n o s ps (bs.drop k)
    | z => z

/-- Reads a flat range; denied tiles give zeros. -/
def State.readFlat (n : Nat) (o : EngOp) : State → List (Nat × Nat × Nat) → List Byte → Got
  | s, [], acc => .ok s acc
  | s, (t, off, k) :: ps, acc =>
    let x := flatTile o.asid t
    let s := s.traceFlat o.block 0 (4096 * t)
    match s.opRead n o x off k with
    | .ok s bs => State.readFlat n o s ps (acc ++ bs)
    | .denied s => State.readFlat n o s ps (acc ++ List.replicate k 0)
    | z => z

/-- Writes linear bytes to a CSM range in a swizzled order, leaving full/empty bits (R288). -/
def State.csmSpread (s : State) (b ref swz : Nat) (bs : List Byte) : State :=
  match s.csmOf b ref bs.length with
  | none => s
  | some (core, a) =>
    (List.range (bs.length / 16)).foldl (fun s i => s.csmWrite core (a + swizzle swz (16 * i)) ((bs.drop (16 * i)).take 16)) s

/-- An ACCRD (R288). -/
def State.runAccrd (s : State) (ci n : Nat) (o : EngOp) (ref : Nat) (scale : Word) (p : Nat) : State :=
  let x := s.slot ci (packSlot p)
  let rows := packRows p
  let topk := pteBit p 7
  let bs := if topk then accrdTopk x rows else accrdData x o.fmt scale rows
  let s := s.csmSpread o.block ref (packSwz p) bs
  let x := if !packZ p then x else if topk then x.emptyRows rows else x.clearRows rows
  (s.setSlot ci (packSlot p) x).finishOp n 1 0 rows

/-- The image that an ACCLD has read is judged and replaces the slot (R289). -/
def State.loadSlot (s : State) (ci n slot : Nat) (bs : List Byte) : State :=
  if imageGood bs.toArray then (s.setSlot ci slot (ofImage bs.toArray)).finishOp n 1 0 0 else s.finishOp n 1 0x23 0

/-- What a granted operation does when it completes; nothing while it must wait. -/
def State.completeMat (s : State) (ci n : Nat) (o : EngOp) : State :=
  match o.kind with
  | .mma m t => s.runMma ci n o m t
  | .mmaz first k =>
    (((List.range k).foldl (fun s i => s.setSlot ci (first + i) AccSlot.reset) s)).finishOp n 1 0 0
  | .topkr base slot k order =>
    (s.setSlot ci slot { s.slot ci slot with k := k, order := order, base := base, lists := [] }).finishOp n 1 0 0
  | .accrd ref scale p => s.runAccrd ci n o ref scale p
  | .accst va slot =>
    if physBase ≤ va then
      ({ s with mem := Memory.writeN s.mem (va - physBase) (s.slot ci slot).image }).finishOp n 1 0 0
    else
    (match State.writeFlat n o s (flatParts va slotImageLen) (s.slot ci slot).image with
     | .ok s _ => s.finishOp n 1 0 0
     | .denied s => s.opStatus n cTagDeny
     | .wait s => s)
  | .accld va slot =>
    if physBase ≤ va then s.loadSlot ci n slot (Memory.readN s.mem (va - physBase) slotImageLen)
    else
    (match State.readFlat n o s (flatParts va slotImageLen) [] with
     | .ok s bs => s.loadSlot ci n slot bs
     | .denied s => s
     | .wait s => s)
  | .osld _ _ k _ => if o.count = k then s.finishOp n 1 0 k else s
  | _ => s

/-- R272: every older entry of the operation's slots is complete. -/
def State.firstOfSlots (s : State) (cl : Cluster) (n : Nat) (o : EngOp) : Bool :=
  (s.opsOf (olderThan n cl.resv)).all fun e => !shares e.kind.slots o.kind.slots

/-- R292: the passes of a group's members before an operation have run. -/
def State.itsPass (s : State) (n : Nat) (o : EngOp) : Bool := !(o.mates.takeWhile (· != n)).any s.passLeft

/-- MATRIX_OP_COMPLETE (R274, R298): an operation takes effect and its future turns FULL, in entry order for one slot and in
the order of its group's passes. -/
def execMatrixOpComplete (n : Nat) (s : State) : Out :=
  .next (match tfind s.ops n with
    | none => s
    | some o =>
      let ci := coreCluster o.core
      let cl := s.cluster ci
      if !o.kind.isMat || o.faulted || !s.firstOfSlots cl n o then s
      else
        match o.status with
        | some st =>
          (match o.mma? with
           | some m =>
             let s := if st = cSoft then s.commitSlot ci n (packSlot m.packed) ((s.slot ci (packSlot m.packed)).spoil m.packed) else s
             s.endMat n o st
           | none => s.endMat n o st)
        | none =>
          let osld := match o.kind with | .osld _ _ _ _ => true | _ => false
          if o.cancelled && (!o.granted || osld) then s.endMat n o 0x20
          else if o.granted && s.itsPass n o then s.completeMat ci n o
          else s)

/-- OSLD_PAGE_LOADED (R264): the next page's last byte lands and the page becomes VALID. -/
def execOsldPageLoaded (n : Nat) (s : State) : Out :=
  .next (match tfind s.ops n with
    | none => s
    | some o =>
      match o.kind with
      | .osld va page k _ =>
        let queued := s.regions.any fun r => r.2.dfq.any fun f => f.op = n && f.idx = o.count
        if o.granted && o.active && decide (o.count < k) && !queued then
          match State.readFlat n o s (flatParts (va + 32768 * o.count) 32768) [] with
          | .ok s bs =>
            let ci := coreCluster o.core
            let cl := s.cluster ci
            let i := page + o.count
            let s := s.setCluster ci { cl with
              osData := Memory.writeN cl.osData (32768 * i) bs
              pages := tset cl.pages i { valid := true, asid := o.asid } }
            s.modOp n fun o => { o with count := o.count + 1 }
          | .denied s => s
          | .wait s => s
        else s
      | _ => s)

/-- GANG_LATCH_TIMEOUT (R294): a latch that has not filled, or that a parked member keeps from running (R299), is
released. -/
def execGangLatchTimeout (ci k : Nat) (s : State) : Out :=
  .next (
    let cl := s.cluster ci
    match cl.latches[k]? with
    | none => s
    | some l =>
      if l.ops.length < l.members.length || (s.opsOf (l.ops.map (·.2))).any (·.parked) then
        let s := s.setCluster ci { cl with latches := cl.latches.eraseIdx k }
        l.ops.foldl (fun s e => s.opStatus e.2 cGangTimeout) s
      else s)

/-- A_FETCH_XLATE_FAULT (R296): the fetch of a global A meets a translation fault; the slot is restored from its shadow,
and the operation will be replayed from its grant. -/
def execAFetchXlateFault (n : Nat) (s : State) : Out :=
  .next (match tfind s.ops n with
    | none => s
    | some o =>
      match o.kind with
      | .mma m (some t) =>
        if o.granted && o.status.isNone && !o.faulted then
          match s.fetchA n o m (some t) with
          | .wait z =>
            if ((tfind z.ops n).map (·.faulted)).getD false then
              let ci := coreCluster o.core
              let cl := z.cluster ci
              let z := match cl.shadows.find? fun x => x.1 = n with
                | some (_, slot, img) => z.setSlot ci slot img
                | none => z
              let cl := z.cluster ci
              let z := z.setCluster ci { cl with shadows := cl.shadows.filter fun x => x.1 != n }
              z.modOp n fun o => { o with granted := false, cancelled := false, count := if m.gang.isEmpty then o.count else 2 }
            else s
          | _ => s
        else s
      | _ => s)

end Sys2Proof.Machine
end

