-- ==== Sys2Proof/Machine/Stops.lean ====
section
/-! DEFINITION. Stops of blocks (R363, R364): when a warp is stopped, what a save keeps (R87, R88), saving and
restoring a block (R366-R370, R299). -/

namespace Sys2Proof.Machine

/-! ## Stop points -/

/-- Waits at WAITV or WQWAIT. -/
def atWord (x : Wait) : Bool :=
  match x with | .waitvSleep _ _ => true | .wqwait _ _ => true | .wqDone _ _ => true | _ => false

/-- Waits at a barrier. -/
def atBarrier (x : Wait) : Bool :=
  match x with | .bar _ => true | .barw _ => true | .cbar _ => true | .barRest _ _ _ _ => true | _ => false

/-- R237, R392: every live split of blocks waits at WAITV, WQWAIT or a barrier, one of them not at a barrier. -/
def State.allWaiting (s : State) (bs : List Nat) : Bool :=
  let xs := ((s.warpsOf bs).filterMap (tfind s.warps ·)).flatMap (·.splits)
  xs.all (fun X => atWord X.wait || atBarrier X.wait) && xs.any fun X => atWord X.wait

/-- R363: the reason with which a group that was asked to stop stops now, as R237 and R362 have it; none where WAIT or JOIN
was the reason and holds no longer. -/
def State.stopReason (s : State) (bs : List Nat) : Option StopWhy :=
  let Bs := bs.filterMap (tfind s.blocks ·)
  if s.allWaiting bs then some .waitWord
  else if s.joinStands Bs && joinBusy Bs then some .join
  else ((Bs.head?).bind (·.stop)).filter fun why => !why.bare

/-- R364, R366: the warp is stopped or has ended, and its issued instructions are complete. -/
def State.warpStopped (s : State) (waits : Bool) (w : Nat) : Bool :=
  match tfind s.warps w with
  | none => true
  | some W =>
    W.stopped waits && W.fifo.isEmpty && W.reds.isEmpty && W.swrites.isEmpty && W.supNow.isNone &&
    !W.halted && W.shrLive.isNone && (s.warpAccs w).isEmpty && !s.sfuBusy w

/-- R299: a gang MMA that waits for no further member: its latch is full, or it has been granted before. -/
def State.latchFull (s : State) (n : Nat) (o : EngOp) : Bool :=
  match (s.cluster (coreCluster o.core)).latchOf n with
  | some l => l.ops.length = l.members.length
  | none => true

/-- R258, R299, R331, R366: an operation whose end the save of these blocks awaits: it reads or writes their CSM, or is a
granted pass of a group with a member among them. A STORE without a barrier goes on with the bytes that it has yet to send,
taken at the save. -/
def State.savesAfter (s : State) (bs : List Nat) (n : Nat) (o : EngOp) : Bool :=
  let mine := bs.contains o.block
  match o.kind with
  | .copy d _ => mine && (d.dir != 1 || d.tb.isSome)
  | .fillz _ _ _ => mine
  | .thalo _ _ _ _ _ => mine
  | .accrd _ _ _ => mine
  | .wqpush _ _ => mine
  | .wqpop _ _ => mine
  | .mma m t =>
    if m.gang.isEmpty then mine && t.isNone
    else if o.granted then m.gang.any (s.warpsOf bs).contains
    else mine && t.isNone && s.latchFull n o
  | .mcast _ _ _ dests _ => dests.any fun d => bs.any fun b =>
      match tfind s.blocks b with
      | some B => B.core = d.1 && decide (B.base ≤ d.2) && decide (d.2 < B.base + max 1 B.size)
      | none => false
  | _ => false

/-- Some operation still uses the CSM of these blocks. -/
def State.csmInUse (s : State) (bs : List Nat) : Bool := s.ops.any fun e => s.savesAfter bs e.1 e.2

/-! ## What is kept -/

/-- Registers kept by a save, and CSM ranges, none for the whole allocation. -/
structure Keep where
  v : BitVec 64
  s : BitVec 64
  csm : Option (List (Nat × Nat))
  deriving DecidableEq, Repr

/-- Everything. -/
def Keep.all : Keep := { v := 0x7FFFFFFFFFFFFFFF, s := 0x7FFFFFFFFFFFFFFF, csm := none }
/-- Nothing. -/
def Keep.nothing : Keep := { v := 0, s := 0, csm := some [] }

/-- Union (R88, R211). -/
def Keep.union (a b : Keep) : Keep :=
  { v := a.v ||| b.v, s := a.s ||| b.s
    csm := match a.csm, b.csm with
      | some x, some y => some (x ++ y)
      | _, _ => none }

/-- What a keep-table entry keeps (R87). -/
def keepOf (bs : List Byte) : Keep :=
  let f := fun o n => leNat ((bs.drop o).take n)
  let all := pteBit (f 0x1C 4) 1
  { v := if all then Keep.all.v else BitVec.ofNat 64 (f 0x04 8)
    s := if all then Keep.all.s else BitVec.ofNat 64 (f 0x0C 8)
    csm := if pteBit (f 0x1C 4) 0 then none else if f 0x18 4 = 0 then some [] else some [(f 0x14 4, f 0x18 4)] }

/-- R88: the keep-table entry of a code offset, read from the launch's image; everything when none matches or the
table cannot be read. -/
def keepFind (q : Req) (base pc : Nat) : Nat → Nat → State → State × Keep
  | 0, _, s => (s, Keep.all)
  | n + 1, i, s =>
    match feRead s q (base + 32 * i) 32 with
    | .inl (s, bs) => if leNat (bs.take 4) = pc then (s, keepOf bs) else keepFind q base pc n (i + 1) s
    | .inr _ => (s, Keep.all)

/-- What a split's stop point keeps. -/
def State.splitKeep (s : State) (L : Launch) (X : Split) : State × Keep :=
  if X.atSite then
    keepFind (feReq s L.part L.vf) (L.desc.image + L.img.keepOff) X.pc.toNat L.img.keepCount 0 s
  else
    match X.wait with
    | .atJoin _ => (s, Keep.nothing)
    | _ => (s, Keep.all)

/-- What a warp keeps; everything when its block stops to WAIT (R237), and when it stops in the handler that PREEMPT entered
(R365, log 42). -/
def State.warpKeep (s : State) (L : Launch) (why : StopWhy) (W : Warp) : State × Keep :=
  if why = .waitWord || (W.sc.csr.inh && bits W.sc.csr.trapc.toNat 7 0 = cPreempt) then (s, Keep.all)
  else W.splits.foldl (fun r X => let z := r.1.splitKeep L X; (z.1, r.2.union z.2)) (s, Keep.nothing)

/-- What the warps of a block keep, by warp. -/
def State.blockKeeps (s : State) (L : Launch) (why : StopWhy) (ws : List Nat) : State × Tab Keep :=
  ws.foldl (fun r w =>
    match tfind r.1.warps w with
    | none => r
    | some W => let z := r.1.warpKeep L why W; (z.1, tset r.2 w z.2)) (s, [])

/-- The registers first to first + n - 1. -/
def regRange (first n : Nat) : BitVec 64 := BitVec.ofNat 64 ((2 ^ n - 1) * 2 ^ first)

/-- R88, R168: what a warp keeps; a shared register is one register, kept where the entry of either warp keeps it. DESIGN
CHOICE (log 68): the spec does not say what it resumes with when the entries differ. -/
def Warp.keeps (W : Warp) (w : Nat) (ks : Tab Keep) : Keep :=
  let k := tget Keep.nothing ks w
  match W.shr with
  | none => k
  | some (f, n, peer) => { k with v := k.v ||| ((tget Keep.nothing ks peer).v &&& regRange f n) }

/-- R88, R366: no register that a warp keeps is EMPTY. -/
def Warp.keptFull (W : Warp) (k : Keep) : Bool :=
  (List.range 63).all fun r =>
    !(k.v.getLsbD r && W.vstate r = .empty) && !(k.s.getLsbD r && W.sc.sstate false (BitVec.ofNat 6 r) = .empty)

/-- R88: registers that are not kept are zero and FULL. -/
def Warp.keepOnly (W : Warp) (k : Keep) : Warp :=
  { W with
    v := W.v.filter fun e => k.v.getLsbD e.1
    vst := W.vst.filter fun e => k.v.getLsbD e.1
    sc := { W.sc with
      s := W.sc.s.filter fun e => k.s.getLsbD e.1
      st := W.sc.st.filter fun e => k.s.getLsbD e.1
      cancel := W.sc.cancel &&& (BitVec.ofNat 128 k.s.toNat ||| ~~~(0xFFFFFFFFFFFFFFFF : BitVec 128)) } }

/-! ## The block area (R370) -/

/-- R363's order of reasons. -/
def StopWhy.code : StopWhy → Nat
  | .preempt => 0
  | .reclaim => 1
  | .join => 2
  | .waitWord => 3
  | .debug => 4

/-- A trace entry at an address. -/
def traceOf (f : Nat → Nat → Nat) : TraceE :=
  { kind := bits (f 0 4) 1 0, flathi := bits (f 0 4) 11 7, tensor := bits (f 0 4) 31 12, start := bits (f 4 8) 39 0,
    len := bits (f 4 8) 63 40 }

/-- Whether a byte lies in one of some ranges. -/
def inRanges (rs : List (Nat × Nat)) (i : Nat) : Bool := rs.any fun r => decide (r.1 ≤ i) && decide (i < r.1 + r.2)

/-- Bytes of the full/empty bits of n granules from g on: 1 is FULL (log 21). -/
def State.feBytes (s : State) (core g n : Nat) : List Byte :=
  (List.range (ceilDiv n 8)).map fun i =>
    BitVec.ofNat 8 ((List.range 8).foldl (fun v k =>
      v + if 8 * i + k < n && s.csmFull core (g + 8 * i + k) then 2 ^ k else 0) 0)

/-- LAUNCHID of a launch. -/
def State.launchId (s : State) (l : Nat) : Nat := ((tfind s.launches l).map (·.id)).getD 0

/-- An entry of CHILDREN. -/
def State.childBytes (s : State) (B : Block) (i : Nat) : List Byte :=
  match tfind B.children i with
  | none => leBytes 8 0
  | some c => leBytes 8 (s.launchId c.launch % 2 ^ 32 + c.last % 256 * 2 ^ 32 + (if c.busy then 2 ^ 63 else 0))

/-- The arrived marks of a block's threads. -/
def State.markBytes (s : State) (B : Block) (cl : Bool) : List Byte :=
  (List.range 32).flatMap fun i =>
    leBytes 4 (match (B.warps[i]?).bind (tfind s.warps ·) with | some W => (W.marks cl).toNat | none => 0)

/-- The pieces of a block's area (R370). kept: CSM ranges; other bytes are free values (log 14). -/
def State.blockPieces (s : State) (B : Block) (kept : List (Nat × Nat)) : List (Nat × List Byte) :=
  let csm := s.csmRead B.core B.base B.size
  let ph := ((tfind s.groups B.group).map (·.barPhase)).getD 0
  let fe := 0x400 + kib B.size
  [(0, leBytes 4 (s.launchId B.launch) ++ leBytes 4 B.lin),
   (0x08, leBytes 1 B.barPhase ++ leBytes 1 ph),
   (0x10, s.markBytes B false),
   (0x90, s.markBytes B true),
   (0x110, (List.range 32).flatMap (s.childBytes B)),
   (0x400, csm.mapIdx fun i b => if inRanges kept i then b else Config.freeByte (s.draws + i)),
   (fe, s.feBytes B.core (B.base / 16) (B.size / 16))] ++ B.tracePieces

/-! ## Saving (R366) -/

/-- Saves one warp, of which it keeps what the keeps of its block say. -/
def State.saveWarp (s : State) (w reason unit : Nat) (ks : Tab Keep) : State :=
  match tfind s.warps w with
  | none => s
  | some W =>
    let k := W.keeps w ks
    let lost := (List.range 63).filter fun n =>
      !k.s.getLsbD n && W.sc.sstate false (BitVec.ofNat 6 n) = .future
    let s := { s with ops := tmap s.ops fun _ o =>
      if o.warp = w && (match o.dst with | some (false, n) => lost.contains n | _ => false)
      then { o with dst := none } else o }
    let K := W.keepOnly k
    let s := s.writeArea K reason unit ((W.splits.filter (·.atSite)).map (·.id))
    let notes := W.splits.map fun X =>
      (X.id, if X.wait = .none && (X.instrAt.map isYield).getD false then { X.note with wait := .atYield } else X.note)
    { s with warps := tset s.warps w { K with
        v := [], vst := [], p := [], splits := [], shr := none, waits := notes, preempted := false } }

/-- What a STORE of a block has yet to send is set aside, as it stands in s, when the block's CSM goes (R258). -/
def EngOp.takeCsm (s : State) (b : Nat) (o : EngOp) : EngOp :=
  match o.kind, o.kind.side with
  | .copy _ _, some x =>
    if o.block = b && !x.writes && o.csm.isNone then
      { o with csm := some ((List.range x.units).flatMap (s.sideRead b x)) }
    else o
  | _, _ => o

/-- A word that a save stops watching: a CSM word changes no more, and one that has changed is noted so (R237). -/
def State.watchWord (s : State) (b ea val : Nat) : Nat × Nat :=
  if localBase ≤ ea then
    match s.csmOf b (ea - localBase) 4 with
    | some (core, a) => (ea, if leNat (s.csmRead core a 4) = val then val else val + 2 ^ 32)
    | none => (ea, val)
  else (ea, val)

/-- Saves one block, with what its warps keep, and frees its core; t: the state before its group's save. -/
def State.saveBlock (s t : State) (b : Nat) (ks : Tab Keep) : State :=
  match tfind s.blocks b with
  | none => s
  | some B =>
    let reason := (B.stop.map StopWhy.code).getD 0
    let ws := B.warps
    let waits := (ws.filterMap (tfind s.warps ·)).flatMap fun W => W.splits.map (·.wait)
    let words := waits.filterMap fun x => match x with | .waitvSleep a v => some (t.watchWord b a v) | _ => none
    let queues := waits.filterMap fun x => match x with | .wqwait q _ => some q | .wqDone _ _ => some 64 | _ => none
    let all := ks.foldl (fun k e => k.union e.2) Keep.nothing
    let kept := match all.csm with | none => [(0, B.size)] | some x => x
    let s := { s with ops := tmap s.ops fun _ o => o.takeCsm t b }
    let s := ws.foldl (fun s w => s.saveWarp w reason B.unit ks) s
    let a := s.blockArea B
    let m := putAll (Memory.zeroN s.mem a 0x400) a (s.blockPieces B kept)
    let pipes := tmap s.cores fun _ c => { c with pipe := c.pipe.filter fun e => !ws.contains e.warp }
    { s with
      mem := m
      draws := s.draws + B.size
      cores := pipes
      fresh := s.fresh + 1
      regions := tmap s.regions fun _ x => if x.preempting = some b then { x with preempting := none } else x
      blocks := tmod s.blocks b fun B =>
        { B with saved := true, resident := false, paused := false, kept := kept, stopOrder := s.fresh, escalated := false,
                 watched := words, watchedQ := queues } }

/-- What the warps of a block keep, once no register among it is EMPTY (R88). -/
def State.keepsOf (s : State) (b : Nat) : Option (State × Tab Keep) :=
  match tfind s.blocks b, s.blockLaunch b with
  | some B, some L =>
    let r := s.blockKeeps L (B.stop.getD .preempt) B.warps
    if B.warps.all fun w => match tfind s.warps w with | some W => W.keptFull (W.keeps w r.2) | none => true
    then some r else none
  | _, _ => none

/-- R366: the blocks of a group are saved, each once it can be. -/
def State.saveGroup (s : State) (bs : List Nat) : State :=
  bs.foldl (fun r b => match r.keepsOf b with | some (r, ks) => r.saveBlock s b ks | none => r) s

/-- R299: gang operations of blocks that wait at an unfilled latch are parked there. -/
def State.parkGangs (s : State) (bs : List Nat) : State :=
  { s with ops := tmap s.ops fun n o =>
      if bs.contains o.block && !o.granted && o.status.isNone && !s.latchFull n o then
        match o.kind with
        | .mma m _ => if m.gang.isEmpty then o else { o with parked := true }
        | _ => o
      else o }

/-- The power cap has paused a block's partition (R435). -/
def State.pausedPart (s : State) (b : Nat) : Bool :=
  ((s.blockLaunch b).map fun L => (s.part L.part).shed == 4).getD false

/-- R435: the regions of a paused partition are PARKED once every block of it has stopped. -/
def State.parkPaused (s : State) (p : Nat) : State :=
  let mine := fun (e : Nat × Block) => decide ((s.blockLaunch e.1).map (·.part) = some p)
  if (s.part p).shed = 4 && s.blocks.all (fun e => e.2.paused || e.2.ended || e.2.saved || !mine e) then
    s.modRegions (s.regionsOf p) fun _ R => { R with pwr := 2, gated := false, pll := 0 }
  else s

/-- R463: the area of a block and those of its warps lie where there is memory. -/
def State.blockAreaIn (s : State) (b : Nat) : Bool :=
  match tfind s.blocks b with
  | none => true
  | some B =>
    let cap := ((s.blockLaunch b).map fun L => if L.desc.trace = 1 then L.desc.cap else 0).getD 0
    paInside (s.blockArea B) (0x400 + kib B.size + kib (ceilDiv B.size 128) + kib (16 * cap)) &&
      B.warps.all fun w => match tfind s.warps w with | some W => s.areaIn W | none => true

/-- BLOCK_STOPPED (R363, R364, R366, R299): every warp of a block with a requested stop, and of its group, is stopped, for a
reason that holds now, and nothing still uses their CSM: the group is saved, or, under the power cap, it pauses where it is
(R435). -/
def execBlockStopped (b : Nat) (s : State) : Out :=
  .next (
    let bs := s.members b
    let asked := bs.all fun k => ((tfind s.blocks k).map fun B => B.stop.isSome && B.resident && !B.saved).getD false
    if bs.isEmpty || !asked then s
    else
      match s.stopReason bs with
      | none => (s.withdraw b .waitWord).withdraw b .join
      | some why =>
        if !(s.warpsOf bs).all (s.warpStopped (why = .waitWord)) || s.csmInUse bs then s
        else if bs.any s.pausedPart then
          let t := { s with blocks := tmap s.blocks fun k B => if bs.contains k then { B with paused := true } else B }
          match s.blockLaunch b with | some L => t.parkPaused L.part | none => t
        else
          let t := { s with blocks := tmap s.blocks fun k B => if bs.contains k then { B with stop := some why } else B }
          if !(bs.all fun k => (t.keepsOf k).isSome) then s
          else if bs.all s.blockAreaIn then (t.parkGangs bs).saveGroup bs
          else match s.blockLaunch b with
            | some L => s.machineFault L.part (coreRegion (((tfind s.blocks b).map (·.core)).getD 0))
            | none => s)

/-! ## Restoring -/

/-- Makes a block's CSM allocation zero and FULL (R216). -/
def State.freshCsm (s : State) (core base size : Nat) : State :=
  let c := s.core core
  (s.setCore core { c with csm := Memory.zeroN c.csm base size }).csmMark core (base / 16) (ceilDiv size 16) false

/-- Reads saved ranges of CSM back, with their full/empty bits. -/
def State.readCsm (s : State) (B : Block) (area : Nat) : State :=
  let fe := area + 0x400 + kib B.size
  let s := B.kept.foldl (fun s r => s.csmWrite B.core (B.base + r.1) (Memory.readN s.mem (area + 0x400 + r.1) r.2)) s
  let gs := (List.range (B.size / 16)).filter fun g =>
    inRanges B.kept (16 * g) && !pteBit (Memory.read s.mem (fe + g / 8)).toNat (g % 8)
  let c := s.core B.core
  s.setCore B.core { c with csmEmpty := c.csmEmpty ++ gs.map (B.base / 16 + ·) }

/-- A barrier wait at the phases that a block resumes with. -/
def Wait.rephased (bar cbar : Nat) (x : Wait) : Wait :=
  match x with
  | .bar _ => .bar bar
  | .barw _ => .barw bar
  | .cbar _ => .cbar cbar
  | .barRest cl stay _ rest => .barRest cl stay (if cl then cbar else bar) rest
  | x => x

/-- The same for what a saved warp's splits wait for. -/
def SplitNote.rephased (bar cbar : Nat) (n : SplitNote) : SplitNote :=
  { n with wait := n.wait.rephased bar cbar, trapWait := n.trapWait.map fun z => (z.1.rephased bar cbar, z.2) }

/-- A core's constant cache is emptied. -/
def State.dropConsts (s : State) (core : Nat) : State := s.setCore core { s.core core with ccache := [] }

/-- Restores one block on a core, with its warps in slots and its CSM at a base (R366, R88); the core's cluster drops its
L1, and the core its constants, which may hold older data than the block has seen (R26, R220, R236); its region wakes (R434). -/
def State.restoreBlock (s : State) (b core base : Nat) (slots : List Nat) : State :=
  match tfind s.blocks b with
  | none => s
  | some B =>
    let a := s.blockArea B
    let m := s.mem
    let flags := Memory.num m (a + 0x210) 4
    let fe := a + 0x400 + kib B.size + kib (ceilDiv B.size 128)
    let B := { B with
      core := core, base := base, resident := true, saved := false, stop := none, escalated := false, kept := B.kept
      barPhase := Memory.num m (a + 0x08) 1
      tAlways := pteBit flags 16, tAccum := pteBit flags 17, tOverflow := pteBit flags 18, tFlat := pteBit flags 19
      tPaused := pteBit flags 20, tEpoch := Memory.num m (a + 0x214) 4
      watched := [], watchedQ := []
      trace := (List.range (bits flags 15 0)).map fun i => traceOf fun o n => Memory.num m (fe + 16 * i + o) n }
    let s := { s with
      blocks := tset s.blocks b B
      groups := tmod s.groups B.group fun g => { g with barPhase := Memory.num m (a + 0x09) 1 } }
    let s := ((((s.wakeRegion (coreRegion core)).dropL1 (coreCluster core)).dropConsts core).freshCsm core base B.size).readCsm B a
    (B.warps.mapIdx fun i w => (i, w)).foldl (fun s e =>
      let W? := tfind s.warps e.2
      match W? with
      | none => s
      | some W =>
        let W := { W with
          core := core
          slot := slots.getD e.1 0
          waits := tmap W.waits fun _ n => n.rephased B.barPhase (Memory.num m (a + 0x09) 1)
          barArr := Memory.word m (a + 0x10 + 4 * e.1)
          cbarArr := Memory.word m (a + 0x90 + 4 * e.1) }
        let s := { s with warps := tset s.warps e.2 W }.readArea e.2 false
        { s with warps := tmod s.warps e.2 Warp.passDone }) s

end Sys2Proof.Machine
end

