-- ==== Sys2Proof/Machine/Sheets.lean ====
section
/-! DEFINITION. Contact sheets: their header, records and entries (R372-R379), exposure (R382), the selection of a
REPRINT (R385, R386) and its orphans (R387), and the stamp sweep (R383). -/

namespace Sys2Proof.Machine

/-- Changes a launch. -/
def State.modLaunch (s : State) (l : Nat) (f : Launch → Launch) : State := { s with launches := tmod s.launches l f }

/-- The instruction buffers' caches and the constant caches of a partition's cores are invalidated when a launch starts (R72,
R121). -/
def State.dropCaches (s : State) (p : Nat) : State :=
  { s with cores := tmap s.cores fun c K => if s.inPart p (coreRegion c) then { K with icache := [], ccache := [] } else K }

/-- Ends a launch with a plain status. -/
def State.endStatus (s : State) (l status detail : Nat) : State :=
  s.endLaunch l { status := status, detail := detail, pc := 0, blk := none }

/-! ## The header (R372) -/

/-- MAGIC of a sheet. -/
def sheetMagic : Nat := 0x5343584B

/-- CRC32C of bytes, with the usual start and complement (log 23). -/
def crc32cOf (bs : List Byte) : Nat := crc32c 0xFFFFFFFF (bs.map (·.toNat)) ^^^ 0xFFFFFFFF

/-- SHAPE: descriptor bytes 0x00 to 0x1F, with the grid in force. -/
def LDesc.shape (d : LDesc) : List Byte :=
  leBytes 8 d.image ++ leBytes 4 d.grid.1 ++ leBytes 4 d.grid.2.1 ++ leBytes 4 d.grid.2.2 ++ leBytes 2 d.bd.1 ++
    leBytes 2 d.bd.2.1 ++ leBytes 2 d.bd.2.2 ++ leBytes 1 d.warps ++ leBytes 1 d.group ++ leBytes 4 d.csm

/-- The image's header, code and constant banks. -/
def imageBytes (s : State) (q : Req) (L : Launch) : Checked (List Byte) :=
  match feRead s q L.desc.image 64 with
  | .inr z => .inr z
  | .inl (s, a) =>
    match feRead s q (L.desc.image + L.img.codeOff) L.img.codeLen with
    | .inr z => .inr z
    | .inl (s, b) =>
      match feRead s q (L.desc.image + L.img.cbOff) (1024 * L.img.cbCount) with
      | .inr z => .inr z
      | .inl (s, c) => .inl (s, a ++ b ++ c)

/-- The argument copy: padded with zeros to a multiple of 256. -/
def padArgs (bs : List Byte) : List Byte := bs ++ List.replicate (ceilDiv bs.length 256 * 256 - bs.length) 0

/-- A header in STATE RECORDING with an epoch and RUNS. -/
def sheetHeader (d : LDesc) (crc epoch runs : Nat) : List Byte :=
  leBytes 4 sheetMagic ++ leBytes 1 1 ++ leBytes 1 0 ++ leBytes 2 d.cap ++ d.shape ++ leBytes 8 d.blocks ++ leBytes 4 crc ++
    leBytes 4 d.argLen ++ leBytes 4 epoch ++ leBytes 4 runs ++ List.replicate 192 0

/-- R379: STATE := RECORDING; from then on a launch that fails leaves its sheet INVALID. none: it cannot be written. -/
def State.openSheet (s : State) (l : Nat) (L : Launch) : Option State :=
  (feWrite s (feReq s L.part L.vf) (L.desc.sheet + 4) (leBytes 1 1)).map fun s =>
    s.modLaunch l fun L => { L with sheetOn := true }

/-- R379: a RECORD launch starts its sheet. A read that cannot be made is its status, a header that cannot be written
TRACE_BAD, and after either no block runs; an argument copy that cannot be written makes the sheet unusable (R464). -/
def startSheet (s : State) (l : Nat) (L : Launch) : State :=
  let q := feReq s L.part L.vf
  let d := L.desc
  match feRead s q d.sheet 256 with
  | .inr z => s.endStatus l z.1 z.2
  | .inl (s, old) =>
    match s.openSheet l L with
    | none => s.endStatus l stTraceBad 0
    | some s =>
      match imageBytes s q L with
      | .inr z => s.endStatus l z.1 z.2
      | .inl (s, img) =>
        match feRead s q d.args d.argLen with
        | .inr z => s.endStatus l z.1 z.2
        | .inl (s, args) =>
          let runs := if fieldOf old 0 4 = sheetMagic then fieldOf old 0x3C 4 else 0
          let s := s.epochAdvance L.part
          let e := (s.part L.part).lepoch.toNat
          match feWrite s q d.sheet (sheetHeader d (crc32cOf img) e runs) with
          | none => s.endStatus l stTraceBad 0
          | some s =>
            let r := feWrite s q (d.sheet + 0x100) (padArgs args)
            let started := fun (L : Launch) =>
              { L with phase := .running, epoch := e, runs := (runs + 1) % 2 ^ 32, sheetBad := r.isNone }
            (r.getD s).modLaunch l started

/-- The state of a sheet, and on success EPOCH and RUNS, at the end of a launch (R379, R386); whether the writes could
be made. -/
def State.sheetState (s : State) (L : Launch) (st : Nat) : State × Bool :=
  let q := feReq s L.part L.vf
  match feWrite s q (L.desc.sheet + 4) (leBytes 1 st) with
  | none => (s, false)
  | some s =>
    if st = 2 && L.sheetOn then
      match feWrite s q (L.desc.sheet + 0x38) (leBytes 4 L.epoch ++ leBytes 4 L.runs) with
      | none => (s, false)
      | some s => (s, true)
    else (s, true)

/-! ## Records (R373, R378) -/

/-- Address of the record of a block. -/
def LDesc.record (d : LDesc) (b : Nat) : Nat := d.sheet + d.recOff + b * 16 * (d.cap + 1)

/-- The record of a block as the launch engine writes it. -/
def Block.record (B : Block) : List Byte :=
  leBytes 4 B.lin ++
  leBytes 2 (1 + (if B.tAlways then 2 else 0) + (if B.tAccum then 4 else 0) + (if B.tOverflow then 8 else 0) +
    (if B.tFlat then 16 else 0)) ++
  leBytes 2 B.trace.length ++ leBytes 4 B.tEpoch ++ leBytes 4 0 ++ B.trace.flatMap TraceE.bytes

/-- R378, R464: the record of a block that ends is written; a failure makes the sheet unusable. -/
def State.writeRecord (s : State) (B : Block) : State :=
  match tfind s.launches B.launch with
  | none => s
  | some L =>
    if L.desc.trace = 1 then
      match feWrite s (feReq s L.part L.vf) (L.desc.record B.lin) B.record with
      | some s => s
      | none => s.modLaunch B.launch fun L => { L with sheetBad := true }
    else s

/-- A record as read: VALID, ALWAYS, ACCUM, epoch, entries. -/
structure Rec where
  valid : Bool
  always : Bool
  accum : Bool
  epoch : Nat
  es : List TraceE
  deriving DecidableEq, Repr

/-- Reads the record at an address. -/
def readRecord (s : State) (q : Req) (a cap : Nat) : Checked Rec :=
  match feRead s q a (16 * (cap + 1)) with
  | .inr z => .inr z
  | .inl (s, bs) =>
    let fl := fieldOf bs 4 2
    .inl (s, { valid := pteBit fl 0, always := pteBit fl 1, accum := pteBit fl 2, epoch := fieldOf bs 8 4,
               es := (List.range (min cap (fieldOf bs 6 2))).map fun i => traceOf fun o n => fieldOf bs (16 * (i + 1) + o) n })

/-- The records of n blocks from an address on. -/
def readRecords (q : Req) (base cap : Nat) : Nat → Nat → State → Checked (List Rec)
  | 0, _, s => .inl (s, [])
  | n + 1, b, s =>
    match readRecord s q (base + b * 16 * (cap + 1)) cap with
    | .inr z => .inr z
    | .inl (s, r) =>
      match readRecords q base cap n (b + 1) s with
      | .inr z => .inr z
      | .inl (s, rs) => .inl (s, r :: rs)

/-! ## Exposure (R382) -/

/-- Whether a stamp counts as younger than a trace at an epoch. -/
def stampExposed (tb ep st : Nat) : Bool := decide ((st + 65536 - tb % 65536) % 65536 ≤ (ep + 65536 - tb % 65536) % 65536)

/-- Some tile of a tensor run is exposed, or its stamp cannot be read. -/
def tilesExposed (q : Req) (stamps tb ep : Nat) : Nat → Nat → State → State × Bool
  | 0, _, s => (s, false)
  | n + 1, t, s =>
    match s.stampAt q (stamps + 2 * t) with
    | none => (s, true)
    | some (s, st) => if stampExposed tb ep st then (s, true) else tilesExposed q stamps tb ep n (t + 1) s

/-- A flat tile that overlaps neither the argument block, which may be empty, nor the image. -/
def flatWatched (L : Launch) (hi t : Nat) : Bool :=
  let va := hi % 32 * 2 ^ 52 + t * 4096
  (L.desc.argLen = 0 || !rangesMeet va 4096 L.desc.args L.desc.argLen) && !rangesMeet va 4096 L.desc.image L.img.extent

/-- R382: a tensor has been unregistered since a trace at epoch tb: at that epoch or a later one (DEDUCED, log 70). -/
def State.unregistered (s : State) (p asid tensor tb : Nat) : Bool :=
  match tfind (s.part p).unregs (asid * 2 ^ 20 + tensor) with
  | none => false
  | some e => decide ((e + 2 ^ 32 - tb % 2 ^ 32) % 2 ^ 32 < 2 ^ 31)

/-- R382: whether a READ run of a block with trace epoch tb is exposed at ep. -/
def runExposed (s : State) (q : Req) (L : Launch) (tb ep : Nat) (e : TraceE) : State × Bool :=
  if e.tensor = 0 then
    (s, !pteBit L.desc.flags 0 && (List.range e.len).any fun i => flatWatched L e.flathi (e.start + i))
  else
    match (tfind s.vfs L.vf).bind fun v => s.tensorOf L.part v e.tensor with
    | none => (s, true)
    | some t =>
      if pteBit t.flags 1 || s.unregistered L.part q.asid e.tensor tb then (s, true)
      else tilesExposed q t.stamps tb ep e.len e.start s

/-- Some READ run of a record is exposed. -/
def recExposed (q : Req) (L : Launch) (ep : Nat) (r : Rec) : List TraceE → State → State × Bool
  | [], s => (s, false)
  | e :: es, s =>
    if e.kind = 0 then
      match runExposed s q L r.epoch ep e with
      | (s, true) => (s, true)
      | (s, false) => recExposed q L ep r es s
    else recExposed q L ep r es s

/-- R385: sel(b) for each record. -/
def selectRecs (q : Req) (L : Launch) (ep : Nat) (all : Bool) : List Rec → State → State × List Bool
  | [], s => (s, [])
  | r :: rs, s =>
    let old := decide (32768 ≤ (ep + 2 ^ 32 - r.epoch) % 2 ^ 32)
    let x := if all || !r.valid || r.always || old then (s, true) else recExposed q L ep r r.es s
    let y := selectRecs q L ep all rs x.1
    (y.1, x.2 :: y.2)

/-- Every member of a group with a selected member is selected. -/
def selectGroups (g : Nat) (sel : List Bool) : List Bool :=
  sel.mapIdx fun i _ => (List.range g).any fun k => sel.getD (i / max 1 g * g + k) false

/-! ## REPRINT_SELECT (R385, R386) -/

/-- Writes of a sheet: those that can be made, and whether all could (R464). -/
def sheetWrites (q : Req) (s : State) (ws : List (Nat × List Byte)) : State × Bool :=
  ws.foldl (fun r w =>
    match feWrite r.1 q w.1 w.2 with
    | some s => (s, r.2)
    | none => (r.1, false)) (s, true)

/-- The writes that set the trace epoch of unselected blocks to ep (R386). -/
def epochWrites (d : LDesc) (ep : Nat) (ids : List (Nat × Bool)) : List (Nat × List Byte) :=
  (ids.filter fun x => !x.2).map fun x => (d.record x.1 + 8, leBytes 4 ep)

/-- The old WRITE runs of re-run blocks (R387). -/
def oldRuns (rs : List Rec) (sel : List Bool) : List (Nat × Nat × Nat) :=
  (rs.zip sel).flatMap fun x =>
    if x.2 && x.1.valid then
      (x.1.es.filter fun e => e.kind = 1).map fun e => (1 + e.flathi * 2 ^ 7 + e.tensor * 2 ^ 12, e.start, e.len)
    else []

/-- R385: once the selection is settled, the records move when ARGLEN differs, and the argument copy is written: the writes,
from the records as they were read. -/
def settleWrites (d : LDesc) (oldLen : Nat) (args copy rs : List Byte) : List (Nat × List Byte) :=
  if oldLen != d.argLen then
    [(d.sheet + d.recOff, rs), (d.sheet + 0x34, leBytes 4 d.argLen), (d.sheet + 0x100, padArgs args)]
  else if args = copy then []
  else [(d.sheet + 0x100, args)]

/-- The grid in the SHAPE of a header. -/
def shapeGrid (h : List Byte) : Nat × Nat × Nat := (fieldOf h 0x10 4, fieldOf h 0x14 4, fieldOf h 0x18 4)

/-- R385's first test: a sheet that a REPRINT can use. -/
def sheetUsable (d : LDesc) (h : List Byte) : Bool :=
  let sh := (h.drop 8).take 32
  d.trace = 1 && fieldOf h 0 4 = sheetMagic && fieldOf h 4 1 = 2 && fieldOf h 6 2 = d.cap &&
    sh.take 8 = d.shape.take 8 && sh.drop 20 = d.shape.drop 20

/-- The selection proper, in STATE RECORDING at epoch ep. -/
def reprintRun (s : State) (l : Nat) (L : Launch) (q : Req) (h args copy img : List Byte) (ep : Nat) : State :=
  let d := L.desc
  let oldLen := fieldOf h 0x34 4
  let all := crc32cOf img != fieldOf h 0x30 4 || oldLen != d.argLen || args != copy
  let base := d.sheet + 0x100 + ceilDiv oldLen 256 * 256
  match readRecords q base d.cap d.blocks 0 s with
  | .inr z => s.endStatus l z.1 z.2
  | .inl (s, rs) =>
    let r := selectRecs q L ep all rs s
    let s := r.1
    let sel := selectGroups d.group r.2
    let accum := rs.any (·.accum)
    let sel := if accum && d.atomics = 1 then sel.map fun _ => true else sel
    if accum && (rs.zip sel).any (fun x => x.2 && x.1.accum) && d.atomics != 1 then
      let s := (s.sheetState { L with sheetOn := false } 2).1
      (s.modLaunch l fun L => { L with sheetOn := false }).endStatus l stNonidempotent 0
    else
      match feRead s q base (d.blocks * 16 * (d.cap + 1)) with
      | .inr z => s.endStatus l z.1 z.2
      | .inl (s, bytes) =>
        let ids := ((List.range sel.length).zip sel)
        let r := sheetWrites q s (settleWrites d oldLen args copy bytes ++ epochWrites d ep ids)
        let started := fun (L : Launch) =>
          { L with phase := .running, epoch := ep, runs := (fieldOf h 0x3C 4 + 1) % 2 ^ 32, sheetBad := !r.2,
                   sel := some ((ids.filter (·.2)).map (·.1)), oldWrites := oldRuns rs sel }
        (r.1.modLaunch l started).dropCaches L.part

/-- REPRINT_SELECT (R385): checks the sheet and selects the blocks to run again. -/
def execReprintSelect (l : Nat) (s : State) : Out :=
  .next (match tfind s.launches l with
    | none => s
    | some L =>
      if L.phase != .selecting || s.epochHeld L.part then s
      else
        let q := feReq s L.part L.vf
        let d := L.desc
        if d.trace != 1 then s.endStatus l stTraceBad 0
        else
        match feRead s q d.sheet 256 with
        | .inr z => s.endStatus l z.1 z.2
        | .inl (s, h) =>
          if !sheetUsable d h then s.endStatus l stTraceBad 0
          else if shapeGrid h != d.grid then
            (startSheet (s.modLaunch l fun L => { L with reprint := false }) l { L with reprint := false }).dropCaches L.part
          else
            match s.openSheet l L with
            | none => s.endStatus l stTraceBad 0
            | some s =>
              let s := s.epochAdvance L.part
              match imageBytes s q L with
              | .inr z => s.endStatus l z.1 z.2
              | .inl (s, img) =>
                match feRead s q d.args d.argLen with
                | .inr z => s.endStatus l z.1 z.2
                | .inl (s, args) =>
                  match feRead s q (d.sheet + 0x100) (fieldOf h 0x34 4) with
                  | .inr z => s.endStatus l z.1 z.2
                  | .inl (s, copy) => reprintRun s l L q h args copy img (s.part L.part).lepoch.toNat)

/-! ## ORPHAN_FORMATION (R387) -/

/-- Tiles of a run that no WRITE run of a list covers, as runs: start and length. -/
def uncovered (ws : List TraceE) (tensor hi : Nat) : Nat → Nat → List (Nat × Nat)
  | 0, _ => []
  | n + 1, t =>
    let rest := uncovered ws tensor hi n (t + 1)
    if ws.any fun e => e.kind = 1 && e.tensor = tensor && e.flathi = hi && e.start ≤ t && t < e.start + e.len then rest
    else
      match rest with
      | (a, k) :: more => if a = t + 1 then (t, k + 1) :: more else (t, 1) :: rest
      | [] => [(t, 1)]

/-- A run is to be zeroed: the launch engine's operation for it. -/
def State.addOrphan (s : State) (l : Nat) (L : Launch) (v : Vf) (t : Tensor) (start len : Nat) : State :=
  let o := EngOp.made (.orphan t start len) l (36 * L.part) v.princ v.asid (s.part L.part).owc
  { s with ops := tset s.ops s.fresh o, fresh := s.fresh + 1 }

/-- The tiles of an orphan run that are left are zeroed, every present element, through the tile cache with their stamps
(R339, R387): as far as it goes, for a page may be with the host (R443), a gate closed, a fabric write on its way. A tile
that cannot be written at all is left as it is (log 71). -/
def zeroTiles (n : Nat) (o : EngOp) (t : Tensor) : List Nat → State → State
  | [], s => (if (s.op n o).opened then s.addOwc (s.opReq o).part else s).dropOps fun k _ => k = n
  | i :: is, s =>
    let x := tileOf o.asid t i
    match s.opWrite n (s.op n o) x 0 (List.replicate (ceilDiv x.bytes 16 * 16) 0) with
    | .ok s _ => zeroTiles n o t is (s.modOp n fun o => { o with unitsDone := i :: o.unitsDone })
    | .denied s => zeroTiles n o t is (s.modOp n fun o => { o with unitsDone := i :: o.unitsDone })
    | .wait s =>
      if (s.op n o).status.isSome then
        zeroTiles n o t is (s.modOp n fun o => { o with status := none, unitsDone := i :: o.unitsDone })
      else s

/-- Every orphan run of a launch that waits to be zeroed goes on. -/
def State.zeroRuns (s : State) (l : Nat) : State :=
  s.ops.foldl (fun s e =>
    match e.2.kind with
    | .orphan t start len =>
      if e.2.launch = l then
        zeroTiles e.1 e.2 t (((List.range len).map (start + ·)).filter fun i => !e.2.unitsDone.contains i) s
      else s
    | _ => s) s

/-- One orphan run: to be zeroed under ZERO, counted, and listed while there is room. -/
def orphanRun (s : State) (l : Nat) (tensor hi start len : Nat) : State :=
  match tfind s.launches l with
  | none => s
  | some L =>
    let q := feReq s L.part L.vf
    let s :=
      if L.desc.orphan = 1 && tensor != 0 then
        match (tfind s.vfs L.vf).bind fun v => (s.tensorOf L.part v tensor).map fun t => (v, t) with
        | none => s
        | some (v, t) => s.addOrphan l L v t start len
      else s
    let list := L.desc.orphList != 0 && decide (L.listed < L.desc.orphCap)
    let e : TraceE := { kind := 1, tensor := tensor, flathi := hi, start := start, len := len }
    let s := if list then feTry s q (L.desc.orphList + 16 * L.listed) e.bytes else s
    s.modLaunch l fun L => { L with orphanRuns := L.orphanRuns + 1, listed := if list then L.listed + 1 else L.listed }

/-- ORPHAN_FORMATION (R387): after the re-run blocks of a REPRINT have ended, the orphans are formed and zeroed; again while
some are not zeroed yet. -/
def execOrphanFormation (l : Nat) (s : State) : Out :=
  .next (match tfind s.launches l with
    | none => s
    | some L =>
      let idle := (s.launchBlocks l).all fun b => ((tfind s.blocks b).map (·.ended)).getD true
      if L.phase = .running && L.reprint && L.sel = some [] && idle then
        let q := feReq s L.part L.vf
        let s := match readRecords q (L.desc.sheet + L.desc.recOff) L.desc.cap L.desc.blocks 0 s with
          | .inr _ => s.modLaunch l fun L => { L with sheetBad := true }
          | .inl (s, rs) =>
            let ws := rs.flatMap fun (r : Rec) => if r.valid then r.es else []
            L.oldWrites.foldl (fun (s : State) (w : Nat × Nat × Nat) =>
              let tensor := bits w.1 31 12
              let hi := bits w.1 11 7
              (uncovered ws tensor hi w.2.2 w.2.1).foldl (fun (s : State) (r : Nat × Nat) => orphanRun s l tensor hi r.1 r.2) s) s
        (s.modLaunch l fun L => { L with phase := .orphans }).zeroRuns l
      else if L.phase = .orphans then s.zeroRuns l
      else s)

/-! ## The stamp sweep (R383) -/

/-- Sweeps the stamps of n tiles. -/
def sweepTiles (q : Req) (stamps epoch : Nat) : Nat → Nat → State → State
  | 0, _, s => s
  | n + 1, t, s =>
    let s := match s.stampAt q (stamps + 2 * t) with
      | none => s
      | some (s, st) =>
        if sweepStamp epoch st = st then s
        else feTry s { q with rights := false } (stamps + 2 * t) (leBytes 2 (sweepStamp epoch st))
    sweepTiles q stamps epoch n (t + 1) s

/-- STAMP_SWEEP_DONE (R383): every old stamp of the partition's registered tensors is replaced; a sweep that came due
meanwhile starts. -/
def execStampSweepDone (p : Nat) (s : State) : Out :=
  .next (
    let P := s.part p
    if P.sweeping then
      let epoch := P.lepoch.toNat
      let s := P.registered.foldl (fun s k =>
        match s.vfs.find? fun e => e.2.part = p && e.2.asid = k.1 with
        | none => s
        | some (n, v) =>
          match s.tensorOf p v k.2 with
          | none => s
          | some t =>
            if pteBit t.flags 1 || t.root != t.id then s
            else sweepTiles (feReq s p n) t.stamps epoch t.tiles 0 s) s
      let P := s.part p
      s.setPart p { P with sweeping := P.heldEpochs != 0, heldEpochs := 0 }
    else s)

end Sys2Proof.Machine
end

