-- ==== Sys2Proof/Machine/Dispatcher.lean ====
section
/-! DEFINITION. Where blocks fit and in which order they start (R349-R353, R367, R433), and the suspension of waiting
blocks (R237, R392). -/

namespace Sys2Proof.Machine

/-! ## Room on a core (R352) -/

/-- Blocks that hold a core's slots or CSM, but for some. -/
def State.coreBlocks (s : State) (core : Nat) (but : List Nat) : List Block :=
  (s.blocks.filter fun e => e.2.resident && e.2.core = core && !but.contains e.1).map (·.2)

/-- Free warp slots of a core. -/
def State.freeSlots (s : State) (core : Nat) (but : List Nat) : List Nat :=
  let ws := (s.coreBlocks core but).flatMap (·.warps)
  let used := (ws.filterMap (tfind s.warps ·)).map (·.slot)
  (List.range 32).filter fun i => !used.contains i

/-- The warp slots for a block: consecutive from SLOT under SPIN, else the lowest free ones from a slot on. -/
def State.slotsFor (s : State) (d : LDesc) (core frm : Nat) (but : List Nat) : Option (List Nat) :=
  let free := s.freeSlots core but
  if d.spin then
    let want := (List.range d.warps).map (d.pslot + ·)
    if want.all free.contains then some want else none
  else
    let some1 := (free.filter fun i => frm ≤ i).take d.warps
    if some1.length = d.warps then some some1 else none

/-- Whether size bytes from base on are free in a core's slice. -/
def State.csmRoom (s : State) (core base size : Nat) (but : List Nat) : Bool :=
  base % 16 = 0 && base + size ≤ 262144 &&
  (s.coreBlocks core but).all fun B => !rangesMeet base size B.base B.size

/-- Whether some place in a core's slice is free. -/
def State.csmFits (s : State) (core size : Nat) (but : List Nat) : Bool :=
  (0 :: (s.coreBlocks core but).map fun B => B.base + B.size).any fun b => s.csmRoom core b size but

/-- R352 without the save pool. -/
def State.fitsCore (s : State) (d : LDesc) (core : Nat) (but : List Nat) : Bool :=
  (s.slotsFor d core 0 but).isSome && s.csmFits core d.csm but

/-! ## The save pool (R367) -/

/-- KiB of a block's own area. -/
def LDesc.areaKib (d : LDesc) : Nat :=
  1 + ceilDiv d.csm 1024 + ceilDiv d.csm 131072 + (if d.trace = 1 then ceilDiv (16 * d.cap) 1024 else 0)

/-- KiB of a block's reservation: its area, then 17 KiB for each warp (log 24). -/
def LDesc.poolKib (d : LDesc) : Nat := d.areaKib + 17 * d.warps

/-- Reservations held in a partition's pool: unit and KiB. -/
def State.poolUsed (s : State) (p : Nat) : List (Nat × Nat) :=
  (s.blocks.filter fun e => !e.2.ended).filterMap fun e =>
    match tfind s.launches e.2.launch with
    | some L => if L.part = p then some (e.2.unit, L.desc.poolKib) else none
    | none => none

/-- The lowest unit where k KiB fit beside some reservations. -/
def poolPlace (used : List (Nat × Nat)) (len k : Nat) : Option Nat :=
  let free := (0 :: used.map fun u => u.1 + u.2).filter fun a =>
    a + k ≤ len && used.all fun u => !rangesMeet a k u.1 u.2
  free.foldl (fun m a => match m with | none => some a | some b => some (min a b)) none

/-- Units for n reservations of k KiB. -/
def poolPlaces (len k : Nat) : Nat → List (Nat × Nat) → Option (List Nat)
  | 0, _ => some []
  | n + 1, used =>
    match poolPlace used len k with
    | none => none
    | some u => (poolPlaces len k n ((u, k) :: used)).map (u :: ·)

/-- Units for the reservations of n new blocks of a launch. -/
def State.poolFor (s : State) (L : Launch) (n : Nat) : Option (List Nat) :=
  poolPlaces (s.part L.part).lsavelen.toNat L.desc.poolKib n (s.poolUsed L.part)

/-! ## Pins, groups and reserved clusters (R219, R349, R433) -/

/-- Whether the pins of a launch allow a logical cluster and core. -/
def LDesc.pinsAllow (d : LDesc) (lc core : Nat) : Bool :=
  (!d.cpin || d.pcluster = lc) && (!d.kpin || (decide (d.pcore ≤ core) && decide (core < d.pcore + d.group)))

/-- Logical clusters and first cores where a group may stand. -/
def State.placesOf (s : State) (p : Nat) (d : LDesc) : List (Nat × Nat) :=
  ((s.part p).unitTab.map (·.1)).flatMap fun lc =>
    ((List.range (4 / max 1 d.group)).map fun j => (lc, d.group * j)).filter fun x =>
      (List.range d.group).all fun k => d.pinsAllow lc (x.2 + k)

/-- The VF that reserves a logical cluster of a partition (R417). -/
def State.reserver (s : State) (p lc : Nat) : Option (Nat × Vf) := s.vfs.find? fun e => e.2.part = p && pteBit e.2.reserve lc

/-- The VF of a block. -/
def State.blockVf (s : State) (B : Block) : Nat := ((tfind s.launches B.launch).map (·.vf)).getD 0

/-- Whether a launch has blocks that have not started. -/
def Launch.isReady (L : Launch) : Bool := L.phase = .running && (match L.sel with | some [] => false | some _ => true | none => decide (L.next < L.desc.blocks))

/-! ## What waits (R351) -/

/-- Linear ids of the next group of a launch to start. -/
def Launch.nextIds (L : Launch) : List Nat :=
  let g := max 1 L.desc.group
  let base := match L.sel with
    | some [] => none
    | some (x :: _) => some (x / g * g)
    | none => if L.next < L.desc.blocks then some L.next else none
  match base with
  | none => []
  | some b => (List.range g).filterMap fun k => if b + k < L.desc.blocks then some (b + k) else none

/-- R237: a watched word has changed: in CSM, as the save noted, in a region scratchpad or in global memory as it stands. -/
def State.wordChanged (s : State) (L : Launch) (ea val : Nat) : Bool :=
  if localBase ≤ ea then decide (2 ^ 32 ≤ val)
  else if rspBase ≤ ea then
    leNat (s.rspRead (L.part + bits (ea - rspBase) 30 26) (bits (ea - rspBase) 25 0) 4) != val
  else
    match serveRead s { feReq s L.part L.vf with exempt := true } ea 4 with
    | .ok _ bs => leNat bs != val
    | _ => true

/-- R363: the reason for which a saved block stopped has passed. -/
def State.reasonPassed (s : State) (L : Launch) (B : Block) : Bool :=
  match B.stop with
  | some .join => !((lanesOf B.joinMask).any fun i => ((tfind B.children i).map (·.busy)).getD false)
  | some .waitWord =>
    (B.watched.isEmpty && B.watchedQ.isEmpty) || B.watched.any (fun x => s.wordChanged L x.1 x.2) ||
      B.watchedQ.any (64 ≤ ·)
  | some .debug => false
  | _ => true

/-- R362: of a group that stopped at a JOIN, every member waits for every named slot. -/
def State.groupPassed (s : State) (L : Launch) (bs : List Block) : Bool :=
  let named := bs.foldl (fun m B => m ||| B.joinMask) 0
  bs.all fun B => s.reasonPassed L { B with joinMask := named }

/-- Whether a block waits to resume: it and its group are saved and every reason has passed (R351, R363). -/
def State.waitsToResume (s : State) (b : Nat) : Bool :=
  let bs := (s.members b).filterMap (tfind s.blocks ·)
  match (tfind s.blocks b).bind fun B => tfind s.launches B.launch with
  | none => false
  | some L => !bs.isEmpty && bs.all (·.saved) && s.groupPassed L bs

/-- Blocks of a launch that wait to resume. -/
def State.waiting (s : State) (l : Nat) : List (Nat × Block) :=
  s.blocks.filter fun e => e.2.launch = l && e.2.saved && s.waitsToResume e.1

/-- R350, R433: a launch has blocks to start or to resume: its VF has a ready launch. -/
def State.wantsCore (s : State) (l : Nat) (L : Launch) : Bool := L.isReady || (L.phase = .running && !(s.waiting l).isEmpty)

/-- R433: a VF's blocks may run on a logical cluster. -/
def State.clusterAllows (s : State) (p vf lc : Nat) : Bool :=
  match s.reserver p lc with
  | none => true
  | some (n, v) =>
    n = vf ||
    (v.lend &&
     !(s.blocks.any fun e => e.2.resident && s.blockVf e.2 = n && s.logCluster p (coreCluster e.2.core) = lc) &&
     !(s.launches.any fun e => e.2.vf = n && s.wantsCore e.1 e.2))

/-- R433: the owner's ready launch reclaims its clusters. -/
def State.reclaim (s : State) (vf : Nat) : State :=
  match tfind s.vfs vf with
  | none => s
  | some v =>
    if s.launches.any fun e => e.2.vf = vf && s.wantsCore e.1 e.2 then
      (s.blocks.filter fun e => e.2.resident && !e.2.ended && s.blockVf e.2 != vf &&
          coreRegion e.2.core - v.part < s.partRegions v.part && v.part ≤ coreRegion e.2.core &&
          pteBit v.reserve (s.logCluster v.part (coreCluster e.2.core))).foldl
        (fun s e => s.requestStop e.1 .reclaim) s
    else s

/-- Whether the members of some ranks of a launch's group fit at a place. -/
def State.fitsAt (s : State) (L : Launch) (ranks : List Nat) (x : Nat × Nat) (but : List Nat) : Bool :=
  match s.physCluster L.part x.1 with
  | none => false
  | some pc =>
    s.clusterAllows L.part L.vf x.1 && ranks.all fun k => s.fitsCore L.desc (4 * pc + x.2 + k) but

/-- VFs of a partition that have work, in order of VF number. -/
def State.working (s : State) (p : Nat) : List Nat :=
  (s.vfs.filter fun e => e.2.part = p && s.launches.any fun l => l.2.vf = e.1 && l.2.phase = .running).map (·.1)

/-- The VF after one in round-robin order. -/
def nextInTurn (xs : List Nat) (cur : Option Nat) : Option Nat :=
  match cur with
  | none => xs.head?
  | some n =>
    match xs.find? fun k => decide (n < k) with
    | some k => some k
    | none => xs.head?

/-- R407: the VF whose slice runs; none while fewer than two VFs of the partition have work, or FESLICE is 0. -/
def State.sliceNow (s : State) (p : Nat) : Option Nat :=
  let P := s.part p
  let xs := s.working p
  if P.feslice = 0 || xs.length < 2 then none
  else
    match P.sliceVf with
    | some n => if xs.contains n then some n else nextInTurn xs (some n)
    | none => nextInTurn xs none

/-- R407: with slices, only the VF whose slice runs is dispatched, once the blocks of the others are stopped. -/
def State.sliceAllows (s : State) (L : Launch) : Bool :=
  match s.sliceNow L.part with
  | none => true
  | some n =>
    n = L.vf &&
    !(s.blocks.any fun e => e.2.resident && !e.2.ended &&
        (match tfind s.launches e.2.launch with | some K => K.part = L.part && K.vf != n | none => false))

/-- Notes the VF whose blocks were dispatched last: the slice that runs is its (R407). -/
def State.sliceTo (s : State) (L : Launch) : State := s.setPart L.part { s.part L.part with sliceVf := some L.vf }

/-- Whether blocks of a launch may start or resume at all: its partition runs, its VF is not frozen, and the time
slice is its VF's (R407, R415, R430). -/
def State.mayRun (s : State) (L : Launch) : Bool :=
  let P := s.part L.part
  P.run && P.state = 2 && P.shed < 4 && (List.range (s.partRegions L.part)).all (fun i => !(s.region (L.part + i)).railOff) && s.sliceAllows L &&
  ((tfind s.vfs L.vf).map fun v => !v.frozen && !v.freezing && !v.replaying).getD false && L.phase = .running

/-- Cancelled before any of its blocks started (R360). -/
def State.childCancelled (s : State) (L : Launch) : Bool :=
  L.ran = 0 && ((L.op.bind fun o => tfind s.ops o).map (·.cancelled)).getD false

/-- Ranks of the members of a block's group that have not ended (R219). -/
def State.ranksOf (s : State) (b : Nat) : List Nat := (s.members b).filterMap fun k => (tfind s.blocks k).map (·.rank)

/-- Rank of a block in its cluster group (R347). -/
def LDesc.rankOf (d : LDesc) (lin : Nat) : Nat := lin % max 1 d.group

/-- What a launch would place next: the ranks of the group that resumes or starts. -/
def State.wants (s : State) (l : Nat) (L : Launch) : List Nat :=
  if !s.mayRun L || s.childCancelled L then []
  else
    match s.waiting l with
    | e :: _ => s.ranksOf e.1
    | [] => L.nextIds.map L.desc.rankOf

/-- R352: the save pool has room for what a launch places next; a block that resumes has its reservation. -/
def State.poolFits (s : State) (l : Nat) (L : Launch) (n : Nat) : Bool := !(s.waiting l).isEmpty || (s.poolFor L n).isSome

/-- Whether the members of some ranks fit somewhere (R352). -/
def State.fitsSomewhere (s : State) (l : Nat) (L : Launch) (ranks : List Nat) (but : List Nat) : Bool :=
  s.poolFits l L ranks.length && (s.placesOf L.part L.desc).any fun x => s.fitsAt L ranks x but

/-- Whether they fit at a place that takes in a core, once some blocks have left it. -/
def State.fitsOn (s : State) (l : Nat) (L : Launch) (ranks : List Nat) (core : Nat) (but : List Nat) : Bool :=
  s.poolFits l L ranks.length &&
    (s.placesOf L.part L.desc).any fun x =>
      match s.physCluster L.part x.1 with
      | none => false
      | some pc => ranks.any (fun k => 4 * pc + x.2 + k = core) && s.fitsAt L ranks x but

/-- R351's order of launches. -/
def Launch.comesBefore (a b : Launch) : Bool := decide (b.prio < a.prio) || (a.prio = b.prio && decide (a.order < b.order))

/-- R351: a launch may place blocks on these logical cores: every launch before it wants nothing, or fits nowhere and its
pins exclude them. -/
def State.turnOf (s : State) (l : Nat) (L : Launch) (cores : List (Nat × Nat)) : Bool :=
  s.launches.all fun e =>
    e.1 = l || e.2.part != L.part || !e.2.comesBefore L ||
    (let ranks := s.wants e.1 e.2
     ranks.isEmpty || (!s.fitsSomewhere e.1 e.2 ranks [] && cores.all fun c => !e.2.desc.pinsAllow c.1 c.2))

/-! ## PREEMPT requests (R353) -/

/-- Whether x is stopped rather than y: lower priority, then the younger launch, then the higher linear id. -/
def victimBefore (x y : Launch × Block) : Bool :=
  decide (x.1.prio < y.1.prio) ||
  (x.1.prio = y.1.prio && (decide (y.1.order < x.1.order) || (x.1.order = y.1.order && decide (y.2.lin < x.2.lin))))

/-- The block that R353 would stop for waiting blocks of a launch. -/
def State.victim (s : State) (l : Nat) (L : Launch) (ranks : List Nat) : Option Nat :=
  let cands := s.blocks.filterMap fun e =>
    match tfind s.launches e.2.launch with
    | none => none
    | some V =>
      if V.part = L.part && e.2.resident && !e.2.ended && e.2.stop.isNone && V.prio < L.prio &&
          (s.region (coreRegion e.2.core)).preempting.isNone && s.fitsOn l L ranks e.2.core (s.members e.1)
      then some (e.1, V, e.2) else none
  (cands.foldl (fun m c => match m with
    | none => some c
    | some d => if victimBefore c.2 d.2 then some c else some d) none).map (·.1)

/-- R353: a PREEMPT stop is requested for a waiting block that fits nowhere. -/
def State.preemptFor (s : State) (l : Nat) (L : Launch) (ranks : List Nat) : State :=
  if ranks.isEmpty || s.fitsSomewhere l L ranks [] then s
  else
    match s.victim l L ranks with
    | none => s
    | some b =>
      let r := ((tfind s.blocks b).map fun B => coreRegion B.core).getD 0
      let R := s.region r
      (s.setRegion r { R with preempting := some b }).requestStop b .preempt

/-! ## Suspension of waiting blocks (R237, R392) -/

/-- Some waiting block of the partition would fit a core once some blocks had left it. -/
def State.wouldFit (s : State) (p core : Nat) (but : List Nat) : Bool :=
  s.launches.any fun e =>
    e.2.part = p && !(s.wants e.1 e.2).isEmpty && s.fitsOn e.1 e.2 (s.wants e.1 e.2) core but

/-- R237: a block whose splits all wait is suspended when another block could use its core, or a stop is requested. -/
def State.waitSuspend (s : State) (b : Nat) : State :=
  match tfind s.blocks b with
  | none => s
  | some B =>
    let bs := s.members b
    let p := ((tfind s.launches B.launch).map (·.part)).getD 0
    let asked := bs.any fun k => ((tfind s.blocks k).bind (·.stop)).isSome
    if B.resident && !B.ended && s.allWaiting bs && (asked || s.wouldFit p B.core bs) then s.requestStop b .waitWord else s

/-- The same for every block of a partition: a new waiting block may want a core. -/
def State.suspendAll (s : State) (p : Nat) : State :=
  ((s.blocks.filter fun e => ((tfind s.launches e.2.launch).map (·.part)) = some p).map (·.1)).foldl State.waitSuspend s

end Sys2Proof.Machine
end

