-- ==== Sys2Proof/Machine/Launch.lean ====
section
/-! DEFINITION. Launches: LAUNCH, REPRINT and JOIN (R357-R362), readiness, dispatch, stops and completion (R350-R355,
R363-R366). -/

namespace Sys2Proof.Machine

/-! ## LAUNCH and REPRINT (R357, R358, R384) -/

/-- A feature bit of the issuing VF (R410). -/
def Ctx.feature (c : Ctx) (n : Nat) : Bool := ((c.vf.map fun v => v.featAgreed.getLsbD n)).getD false

/-- R358: why a LAUNCH is denied, as the number of the first condition. -/
def Ctx.launchDenied (c : Ctx) (slot : Nat) : Option Nat :=
  let B := tfind c.s.blocks c.W.block
  let busy := ((B.bind fun B => tfind B.children slot).map (·.busy)).getD false
  let L := c.s.warpLaunch c.W
  let full := match L with | none => true | some L => (c.s.takeSlot L.vf).isNone
  if busy then some 1 else if full then some 2
  else if (L.map (·.depth)).getD 0 = 8 then some 3 else none

/-- What the descriptor address of a LAUNCH meets (R356). -/
def launchAddr (a : Nat) : List Met := if physBase ≤ a || a % 256 != 0 then [(cProt, 0x40, 0)] else []

/-- What its child slot meets (R356, R358). -/
def Ctx.launchSlot (c : Ctx) (i : Nat) : List Met :=
  (if 32 ≤ i then [(cProt, 0x41, 0)] else []) ++
  (match c.launchDenied (i % 32) with | some n => [(cDenied, n, 0)] | none => [])

/-- What LAUNCH and REPRINT meet (R356-R358). -/
def Ctx.launchCauses (c : Ctx) (f : E3) : List Met :=
  launchAddr (c.sPair f.a).toNat ++ c.launchSlot (c.sreg f.b).toNat

/-- The descriptor of a child launch is read and checked, once it can be (R357, R464). -/
def State.captureDesc (s : State) (l : Nat) : State :=
  match tfind s.launches l with
  | none => s
  | some L =>
    match L.src, L.op with
    | some a, some n =>
      (match tfind s.ops n with
       | none => s
       | some o =>
         match o.status with
         | some st => s.endStatus l st 0
         | none =>
           if o.faulted then s
           else
             match serveTile s { s.opReq o with exempt := true } (flatTile o.asid (a / 4096)) .read (.read (a % 4096) 256) with
             | .ok s bs => s.launchCheck l bs
             | z => s.opServed n o false 0 z)
    | _, _ => s

/-- The child slot of a block takes a child (R359). -/
def State.setChild (s : State) (b i : Nat) (f : Child → Child) : State :=
  { s with blocks := tmod s.blocks b fun B =>
      { B with children := tset B.children i (f (tget { launch := 0, last := 0, busy := false } B.children i)) } }

/-- LAUNCH or REPRINT makes its child (R357). -/
def Ctx.makeChild (c : Ctx) (f : E3) (reprint : Bool) : Ctx :=
  match c.s.warpLaunch c.W with
  | none => c
  | some P =>
    let i := (c.sreg f.b).toNat % 32
    let a := (c.sPair f.a).toNat
    let op := c.nextOp
    let l := op + 1
    let L0 := ((tfind c.s.blocks c.W.block).map (·.launch)).getD 0
    match c.s.takeSlot P.vf with
    | none => c
    | some (s, burst) =>
      let c := { c with s := s }.startOp (.child l) f.d
      let L := newLaunch (c.s.nextLaunchId P.part) P.part P.vf (P.depth + 1) P.prio l (some (c.W.block, L0, i)) (some op) burst
        reprint (some a)
      let s := c.s.addLaunch L
      let s := s.setChild c.W.block i fun _ => { launch := l, last := 0, busy := true }
      { c with s := s }

/-- LAUNCH and REPRINT: the child is made, the instruction ends, and the child's descriptor is captured. -/
def launchIssue (reprint : Bool) (f : E3) (s : State) : Out :=
  engIssue true f.d (usrc2 f.a ++ usrc f.b) (fun c => c.launchCauses f)
    (fun c => (((c.makeChild f reprint).advance 1).finish true).captureDesc (c.nextOp + 1)) s
    (early := [(usrc2 f.a, fun c => launchAddr (c.sPair f.a).toNat), (usrc f.b, fun c => c.launchSlot (c.sreg f.b).toNat)])

/-- LAUNCH (R357). -/
def execLaunch (f : E3) (s : State) : Out := launchIssue false f s

/-- REPRINT (R384): without RELAUNCH it is ILLEGAL. -/
def execReprint (f : E3) (s : State) : Out :=
  match issuer s with
  | some c => if c.feature 0 then launchIssue true f s else run s fun c => c.raise cIllegal 0
  | none => .fault .noIssuer

/-- JOIN (R362): the split's threads arrive at the join point. -/
def execJoin (f : E2) (s : State) : Out :=
  run s fun c =>
    c.atHome fun c =>
      c.uIssue 7 false 1 false (usrc f.a) (group false f.d 1 true) noCause fun c =>
        if !c.settled then c.hold
        else
          let m := c.sreg f.a
          let c := c.release
          let s := { c.s with blocks := tmod c.s.blocks c.W.block fun B =>
            { B with joinMask := B.joinMask ||| m, joinArr := tset B.joinArr c.w (tget 0 B.joinArr c.w ||| c.sp.mask) } }
          let c := { c with s := s, sp := { c.sp with wait := .joinPoint f.d.toNat } }
          (c.finish true).joinCheck c.W.block

/-! ## LAUNCH_READY (R350, R379, R433) -/

/-- R379: earlier launches that name the same sheet, or whose descriptor is not read yet, have completed. -/
def State.sheetFree (s : State) (L : Launch) : Bool :=
  L.desc.trace = 0 ||
  !(s.launches.any fun e => e.2.vf = L.vf && e.2.part = L.part && decide (e.2.order < L.order) && e.2.phase != .done &&
      (e.2.src.isSome || (e.2.desc.trace = 1 && e.2.desc.sheet = L.desc.sheet)))

/-- LAUNCH_READY (R350, R72, R121): a checked launch whose counter wait is met goes on: a RECORD launch starts its sheet (R379), a
REPRINT comes to its selection (R385), blocks may start. -/
def execLaunchReady (l : Nat) (s : State) : Out :=
  .next (match tfind s.launches l with
    | none => s
    | some L =>
      if L.phase != .waiting || s.childCancelled L then s
      else if L.src.isSome then s.captureDesc l
      else
        let d := L.desc
        let met := d.dcWait = 0xFFFF || dcReached (s.dcGet L.vf d.dcWait) (BitVec.ofNat 32 d.dcwVal)
        if !met || !s.sheetFree L then s
        else if L.reprint then s.modLaunch l fun L => { L with phase := .selecting }
        else if d.trace = 1 then (if s.epochHeld L.part then s else ((startSheet s l L).dropCaches L.part).reclaim L.vf)
        else
          let s := ((s.modLaunch l fun L => { L with phase := .running }).dropCaches L.part).reclaim L.vf
          s.suspendAll L.part)

/-! ## BLOCK_DISPATCH (R351, R48, R216, R367) -/

/-- A warp at its start (R48). -/
def newWarp (b idx core slot : Nat) (covered : Mask) (princ : Word) (savebase : Nat) : Warp :=
  { block := b, idx := idx, core := core, slot := slot, v := [], vst := [], p := [],
    sc := { Scal.reset with csr := { Csrs.reset with princ := princ, savebase := BitVec.ofNat 32 savebase } },
    splits := [{ blankSplit 0 with mask := covered }], covered := covered, exited := 0, fifo := [], reds := [],
    supNow := none, supQ := [], defQ := [], engQ := [], swrites := [], barArr := 0, cbarArr := 0, shr := none,
    shrReq := none, cbset := [], openDirty := false, floor := 0, halted := false, step := none, preempted := false, causeDue := false,
    waits := [], nextAge := 1, nextJoin := 0, lastV := 0, lastU := 0 }

/-- A block at its start. -/
def newBlock (l lin group rank core base size unit epoch : Nat) (warps : List Nat) : Block :=
  { launch := l, lin := lin, group := group, rank := rank, core := core, base := base, size := size, resident := true,
    ended := false, warps := warps, barPhase := 0, children := [], trace := [], tAlways := false, tAccum := false,
    tOverflow := false, tFlat := false, tPaused := false, tEpoch := epoch, joinMask := 0, joinArr := [], stop := none,
    escalated := false, saved := false, paused := false, stopOrder := 0, unit := unit, kept := [], watched := [], watchedQ := [] }

/-- Lanes of warp w that a launch's block covers (R347, R48). -/
def LDesc.covered (d : LDesc) (w : Nat) : Mask := maskOf fun l => decide (32 * w + l < d.threads)

/-- Starts one block: its warps, its CSM, its reservation; its region wakes (R434). What happened before the launch happens before the block: its
warps' floor is the present one, and the cluster's L1 is invalidated (R30, R220). -/
def State.startBlock (s : State) (l : Nat) (L : Launch) (lin group rank core base unit : Nat) (slots : List Nat) : State :=
  let d := L.desc
  let b := s.fresh
  let ws := (List.range d.warps).map (b + 1 + ·)
  let princ := ((tfind s.vfs L.vf).map (·.princ)).getD 0
  let owc := (s.part L.part).owc
  let B := newBlock l lin group rank core base d.csm unit (s.part L.part).lepoch.toNat ws
  let warps := (List.range d.warps).foldl (fun t i =>
    tset t (b + 1 + i) { (newWarp b i core (slots.getD i 0) (d.covered i) princ (unit + d.areaKib + 17 * i)) with
      floor := owc }) s.warps
  let s := { s with
    blocks := tset s.blocks b B, warps := warps, fresh := b + 1 + d.warps
    groups := tmod s.groups group fun g => { g with blocks := g.blocks ++ [b] } }
  ((s.wakeRegion (coreRegion core)).dropL1 (coreCluster core)).freshCsm core base d.csm

/-- The core of rank 0 in a logical cluster: the lowest that R219 and the pins allow and where the group fits (R349; that this
is the lowest within the cluster which the dispatcher chooses is DEDUCED, log 72). -/
def State.firstCore (s : State) (L : Launch) (ranks : List Nat) (lc : Nat) : Option Nat :=
  ((s.placesOf L.part L.desc).find? fun x => x.1 = lc && s.fitsAt L ranks x []).map (·.2)

/-- Chosen places are legal for the members of some ranks: one logical cluster, cores in order of rank (R219), room on each
(R352). -/
def State.placesOk (s : State) (L : Launch) (ranks : List Nat) (ps : List Place) : Bool :=
  match ps with
  | [] => false
  | p0 :: _ =>
    match s.physCluster L.part p0.cluster, s.firstCore L ranks p0.cluster with
    | some pc, some c0 =>
      s.clusterAllows L.part L.vf p0.cluster && ps.length = ranks.length &&
      (ranks.zip ps).all fun x =>
        x.2.cluster = p0.cluster && x.2.core = c0 + x.1 && x.2.core < 4 && L.desc.pinsAllow x.2.cluster x.2.core &&
        s.csmRoom (4 * pc + x.2.core) x.2.base L.desc.csm [] &&
        (s.slotsFor L.desc (4 * pc + x.2.core) x.2.slot []).isSome
    | _, _ => false

/-- Logical cores of chosen places. -/
def placeCores (ps : List Place) : List (Nat × Nat) := ps.map fun p => (p.cluster, p.core)

/-- Ids of a selection without those started. -/
def dropIds (sel : Option (List Nat)) (ids : List Nat) : Option (List Nat) := sel.map fun xs => xs.filter fun x => !ids.contains x

/-- BLOCK_DISPATCH (R351): the next group of a launch starts at chosen places; with none, a PREEMPT stop is requested for
it (R353). -/
def execBlockDispatch (l : Nat) (ps : List Place) (s : State) : Out :=
  .next (match tfind s.launches l with
    | none => s
    | some L =>
      let ids := L.nextIds
      if !s.mayRun L || s.childCancelled L || !(s.waiting l).isEmpty || ids.isEmpty then s
      else if ps.isEmpty then ((s.preemptFor l L (ids.map L.desc.rankOf)).reclaim L.vf).suspendAll L.part
      else
        match s.poolFor L ids.length, s.physCluster L.part ((ps.headD ⟨0, 0, 0, 0⟩).cluster) with
        | some units, some pc =>
          if s.placesOk L (ids.map L.desc.rankOf) ps && s.turnOf l L (placeCores ps) then
            let g := s.fresh
            let s := { s with groups := tset s.groups g { blocks := [], barPhase := 0 }, fresh := g + 1 }
            let s := ((ids.zip ps).zip units).foldl (fun s x =>
              let core := 4 * pc + x.1.2.core
              let slots := (s.slotsFor L.desc core x.1.2.slot []).getD []
              s.startBlock l L x.1.1 g (L.desc.rankOf x.1.1) core x.1.2.base x.2 slots) s
            let s := s.modLaunch l fun L =>
              { L with next := ids.foldl (fun m i => max m (i + 1)) L.next, sel := dropIds L.sel ids, ran := L.ran + ids.length }
            (s.reclaim L.vf).sliceTo L
          else s
        | _, _ => s)

/-! ## BLOCK_RESUME (R363, R366) -/

/-- BLOCK_RESUME (R366): a group that waits to resume is restored at chosen places, the oldest stop first; with none, a
PREEMPT stop is requested for it (R353). -/
def execBlockResume (b : Nat) (ps : List Place) (s : State) : Out :=
  .next (match tfind s.blocks b with
    | none => s
    | some B =>
      match tfind s.launches B.launch with
      | none => s
      | some L =>
        let bs := s.members b
        let oldest := (s.waiting B.launch).all fun e => B.group = e.2.group || B.stopOrder < e.2.stopOrder
        if !s.mayRun L || !s.waitsToResume b || !oldest then s
        else if ps.isEmpty then ((s.preemptFor B.launch L (s.ranksOf b)).reclaim L.vf).suspendAll L.part
        else
          match s.physCluster L.part ((ps.headD ⟨0, 0, 0, 0⟩).cluster) with
          | none => s
          | some pc =>
            if !bs.all s.blockAreaIn then s.machineFault L.part (clusterRegion pc)
            else if s.placesOk L (s.ranksOf b) ps && s.turnOf B.launch L (placeCores ps) then
              let s := (bs.zip ps).foldl (fun s x =>
                let core := 4 * pc + x.2.core
                let slots := (s.slotsFor L.desc core x.2.slot []).getD []
                s.restoreBlock x.1 core x.2.base slots) s
              (((s.joinCheck b).waitSuspend b).reclaim L.vf).sliceTo L
            else s)

/-! ## Deadlines (R365) -/

/-- PREEMPT is delivered to a warp that is not stopped, once its fragments have been recalled; it is held while the
user handler runs. -/
def State.preemptWarp (s : State) (w : Nat) : State :=
  match tfind s.warps w with
  | none => s
  | some W =>
    match W.preemptee with
    | none => s
    | some X =>
      if W.preemptible && !W.halted then
        ({ s := s, w := w, W := { W with preempted := true }, sp := X : Ctx }).trapLocal
          { code := cPreempt, pc := X.pc, addr := 0, aux := 0 } false
      else s

/-- PREEMPT_SOFT_DEADLINE (R365): the stop escalates; warps that could not take PREEMPT yet take it at a later one. -/
def execPreemptSoftDeadline (b : Nat) (s : State) : Out :=
  .next (match tfind s.blocks b with
    | none => s
    | some B =>
      if B.preempting then
        let s := { s with blocks := tmod s.blocks b fun B => { B with escalated := true } }
        B.warps.foldl State.preemptWarp s
      else s)

/-- PREEMPT_HARD_DEADLINE (R365): the launch is discarded, with its children. -/
def execPreemptHardDeadline (b : Nat) (s : State) : Out :=
  .next (match tfind s.blocks b with
    | none => s
    | some B => if B.preempting then s.endStatus B.launch stDiscarded 0 else s)

/-! ## BLOCK_END (R354, R378, R465) -/

/-- A warp of which nothing is left: every thread has exited and nothing of it waits. -/
def State.warpDone (s : State) (w : Nat) : Bool :=
  match tfind s.warps w with
  | none => true
  | some W =>
    W.exited &&& W.covered = W.covered && W.splits.isEmpty && W.fifo.isEmpty && W.swrites.isEmpty && W.supNow.isNone &&
    W.supQ.isEmpty && (s.warpAccs w).isEmpty

/-- An operation that keeps its block from ending: LAUNCH and REPRINT do not. -/
def EngOp.keepsBlock (o : EngOp) (b : Nat) : Bool :=
  o.block = b && (match o.kind with | .child _ => false | _ => true)

/-- A user cause that no split took before its warp ended (R225, R278). -/
def State.leftCause (s : State) (B : Block) : Option DefCause :=
  ((B.warps.filterMap (tfind s.warps ·)).flatMap fun W => if W.splits.isEmpty then W.defQ ++ W.engQ else []).head?

/-- The block's record is written and its warps go; its CSM stays until its whole group has ended (R218). -/
def State.endBlock (s : State) (b : Nat) (B : Block) : State :=
  let s := s.writeRecord B
  let s := B.warps.foldl State.dropWarp s
  let s := { s with blocks := tmod s.blocks b fun B => { B with ended := true, warps := [], stop := none } }
  let s := s.modLaunch B.launch fun L => { L with ended := L.ended + 1 }
  let all := ((tfind s.groups B.group).map (·.blocks)).getD [b]
  if all.all fun k => ((tfind s.blocks k).map (·.ended)).getD true then
    let s := all.foldl State.dropBlock s
    { s with groups := tdel s.groups B.group }
  else (all.foldl State.barriers s)

/-- BLOCK_END (R354): every thread of a block has exited and its operations have completed. A cause left pending when a warp
of it ends ends the launch (R225); with it a paused partition may be all stopped (R435). -/
def execBlockEnd (b : Nat) (s : State) : Out :=
  .next (match tfind s.blocks b with
    | none => s
    | some B =>
      if B.ended || !B.resident then s
      else
        match s.leftCause B with
        | some z => s.endLaunch B.launch { status := z.cause, detail := z.reason, pc := z.pc.toNat, blk := some B.lin }
        | none => if !B.warps.all s.warpDone || s.ops.any (fun e => e.2.keepsBlock b) then s
            else
              let t := s.endBlock b B
              match s.blockLaunch b with | some L => t.parkPaused L.part | none => t)

/-! ## LAUNCH_COMPLETE (R354, R355, R359, R405) -/

/-- The completion record (R355). -/
def Launch.compRec (L : Launch) (status epoch : Nat) : List Byte :=
  leBytes 4 (status + L.detail * 2 ^ 8) ++ leBytes 4 L.id ++ leBytes 8 L.ran ++ leBytes 8 L.desc.blocks ++ leBytes 4 epoch ++
    leBytes 4 L.orphanRuns ++ leBytes 4 L.listed ++ leBytes 4 L.causePc ++
    leBytes 8 (match L.causeBlk with | some b => b | none => 0xFFFFFFFFFFFFFFFF) ++ List.replicate 16 0

/-- The parent's slot of a child that completes, in the block and, if it is saved, in its area (R359, R370). -/
def State.childDone (s : State) (L : Launch) (status : Nat) : State :=
  match L.parent with
  | none => s
  | some (b, _, i) =>
    let s := s.setChild b i fun c => { c with last := status, busy := false }
    match tfind s.blocks b with
    | none => s
    | some B =>
      let s := if B.saved then
          { s with mem := Memory.writeN s.mem (s.blockArea B + 0x110 + 8 * i) (s.childBytes B i) }
        else s
      s.joinCheck b

/-- The completion sequence of a launch whose work is done, with its status. -/
def State.complete (s : State) (l : Nat) (L : Launch) (status : Nat) : State :=
  let q := feReq s L.part L.vf
  let r := if L.sheetOn then s.sheetState L (if status = 0 && !L.sheetBad then 2 else 3) else (s, true)
  let status := if status = 0 && (!r.2 || L.sheetBad) then stTraceBad else status
  let s := if status = stTraceBad && L.sheetOn && !r.2 then (r.1.sheetState { L with sheetOn := false } 3).1 else r.1
  let s := s.epochAdvance L.part
  let s := if L.desc.comprec = 0 || L.desc.comprec % 64 != 0 then s
    else feTry s q L.desc.comprec (L.compRec status (s.part L.part).lepoch.toNat)
  let s := if L.desc.sigAddr = 0 || L.desc.sigAddr % 8 != 0 then s else feTry s q L.desc.sigAddr (leBytes 8 L.desc.sigVal)
  let s := (s.modLaunch l fun L => { L with phase := .done, status := some status })
  let s := match L.op with
    | none => s
    | some n => s.finishOp n 3 status (L.id % 2 ^ 20)
  let s := s.childDone L status
  let s := s.dcInc L.vf L.desc.dcSig
  (s.giveSlot L.vf L.burst L.pool).launchPacketDone l status (L.id % 2 ^ 24)

/-- What a launch has under way after its blocks have ended: operations but for its children, and stores of its warps (R354,
R361, R387). -/
def State.launchBusy (s : State) (l : Nat) : Bool :=
  s.ops.any (fun e => e.2.launch = l && (match e.2.kind with | .child _ => false | _ => true)) ||
    s.accs.any fun e => (match e.2.gone with | some (k, _) => k == l | none => false)

/-- The status a launch would complete with now, if its work is done. -/
def State.doneStatus (s : State) (l : Nat) (L : Launch) : Option Nat :=
  let kids := s.launches.all fun e => (match e.2.parent with | some (_, q, _) => q != l | none => true) || e.2.phase = .done
  let allEnded := (s.launchBlocks l).all fun b => ((tfind s.blocks b).map (·.ended)).getD true
  match L.phase with
  | .done => none
  | .ending => if kids && (s.launchBlocks l).isEmpty && !s.launchBusy l then L.status else none
  | .orphans => if kids && allEnded && !s.launchBusy l then some 0 else none
  | .running => if kids && allEnded && !L.reprint && L.nextIds.isEmpty then some 0 else none
  | _ => none

/-- R354, R453: SIGVAL is stored as a SYSTEM-scope release: tokens leave on every path of the partition, and the store waits
for their answers. -/
def State.signalWaits (s : State) (L : Launch) : Bool := L.desc.sigAddr != 0 && !(s.unacked L.part).isEmpty

/-- LAUNCH_COMPLETE (R354, R360): a launch whose work is done, or a cancelled child of which no block has started. -/
def execLaunchComplete (l : Nat) (s : State) : Out :=
  .next (match tfind s.launches l with
    | none => s
    | some L =>
      if s.epochHeld L.part then s
      else if L.phase.live && s.childCancelled L then s.endStatus l stCancelled 0
      else
        match s.doneStatus l L with
        | some st =>
          let s := if L.desc.sigAddr = 0 then s else s.sendTokens L.part (((tfind s.vfs L.vf).map (·.princ)).getD 0)
          if s.signalWaits L then s else s.complete l L st
        | none => s)

end Sys2Proof.Machine
end

