-- ==== Sys2Proof/Machine/Rings.lean ====
section
/-! DEFINITION. Command queues and packets as they stand in host memory (R394, R395, R397). -/

namespace Sys2Proof.Machine

/-- Entry q of a VF's queue table (R395). -/
def Vf.qEntry (v : Vf) (q : Nat) : Nat := v.vcppa + 0x100 + 32 * q

/-- A command queue as its entry states it. -/
structure Ring where
  base : Nat
  log2n : Nat
  enable : Bool
  tail : Nat
  head : Nat
  err : Nat
  /-- None of its units can be reached (R395, log 51). -/
  dark : Bool
  deriving DecidableEq, Repr

/-- Reads queue entry q of a VF. -/
def State.ring (s : State) (v : Vf) (q : Nat) : Ring :=
  let a := v.qEntry q
  let base := s.hostNum a 8
  let n := s.hostNum (a + 8) 1
  { base := base, log2n := n, enable := s.hostNum (a + 9) 1 = 1,
    tail := s.hostNum (a + 0x0C) 4, head := s.hostNum (a + 0x10) 4, err := s.hostNum (a + 0x14) 4
    dark := !s.hostHoles.isEmpty && (List.range (2 ^ min n 16)).all fun i => !s.hostReach (base + 64 * i) 64 }

/-- Units of a ring. -/
def Ring.size (r : Ring) : Nat := 2 ^ r.log2n

/-- The ERR value that a queue entry meets (R395). -/
def Ring.fault (r : Ring) : Nat :=
  if r.base % 4096 != 0 || r.log2n < 4 || 16 < r.log2n then 2 else if r.size ≤ r.tail then 1 else if r.dark then 3 else 0

/-- Writes HEAD of a queue (R395). -/
def State.putHead (s : State) (v : Vf) (q head : Nat) : State := s.hostPut (v.qEntry q + 0x10) (leBytes 4 head)

/-- Writes ERR of a queue. -/
def State.putErr (s : State) (v : Vf) (q err : Nat) : State := s.hostPut (v.qEntry q + 0x14) (leBytes 4 err)

/-- A packet read from its ring (R397): the header fields and every byte of its units. -/
structure Pkt where
  op : Nat
  len : Nat
  barrier : Bool
  nowait : Bool
  zero : Bool
  cookie : Word
  staddr : Nat
  bytes : List Byte
  deriving DecidableEq, Repr

/-- A field of n bytes of a packet. -/
def Pkt.f (x : Pkt) (o n : Nat) : Nat := leNat ((x.bytes.drop o).take n)

/-- The bytes of n units of a ring from a unit on; a packet may wrap to unit 0. -/
def State.units (s : State) (r : Ring) (head n : Nat) : List Byte :=
  (List.range n).flatMap fun i => Memory.readN s.host (r.base + 64 * ((head + i) % r.size)) 64

/-- Whether n units of a ring from a unit on can be reached. -/
def State.unitsReach (s : State) (r : Ring) (head n : Nat) : Bool :=
  (List.range n).all fun i => s.hostReach (r.base + 64 * ((head + i) % r.size)) 64

/-- A packet whose first unit cannot be reached (R398): one unit, of no opcode, with nowhere to write a status. -/
def Pkt.lost : Pkt :=
  { op := 256, len := 1, barrier := false, nowait := false, zero := false, cookie := 0, staddr := 0, bytes := [] }

/-- The packet at a unit of a ring; one that cannot be read whole is not well made (R398, log 51). -/
def State.pktAt (s : State) (r : Ring) (head : Nat) : Pkt :=
  if !s.unitsReach r head 1 then Pkt.lost
  else
    let h := s.units r head 1
    let w := leNat (h.take 4)
    let len := bits w 11 8 + 1
    { op := bits w 7 0, len := len, barrier := pteBit w 12, nowait := pteBit w 13
      zero := bits w 31 14 = 0 && s.unitsReach r head len
      cookie := BitVec.ofNat 32 (leNat ((h.drop 4).take 4)), staddr := leNat ((h.drop 8).take 8)
      bytes := s.units r head len }

/-- Units between HEAD and TAIL. -/
def Ring.ready (r : Ring) (head : Nat) : Nat := (r.tail + r.size - head) % r.size

/-- A queue is notified, unless it is already (R396). -/
def State.notifyQ (s : State) (n q : Nat) : State :=
  if s.notified.contains (n, q) then s else { s with notified := s.notified ++ [(n, q)] }

/-- R401: a lane writes HEAD and releases its queue; one with units left is served again in its turn (log 32). -/
def State.releaseLane (s : State) (k : Nat) : State :=
  match tfind s.lanes k with
  | none => s
  | some L =>
    let s := { s with lanes := tdel s.lanes k }
    match tfind s.vfs L.vf with
    | none => s
    | some v =>
      let s := s.putHead v L.queue L.head
      if L.head = L.tail then s else s.notifyQ L.vf L.queue

end Sys2Proof.Machine
end

