-- ==== Sys2Proof/Machine/WorkQueue.lean ====
section
/-! DEFINITION. Hardware work queues (R389-R392) and TRACEX (R377). -/

namespace Sys2Proof.Machine

/-! ## Queues -/

/-- Records in a queue. -/
def WorkQ.count (q : WorkQ) : Nat := q.tail - q.head
/-- Records that fit. -/
def WorkQ.room (q : WorkQ) : Nat := 2 ^ q.log2n - q.count
/-- Address of the record of a number. -/
def WorkQ.slot (q : WorkQ) (n : Nat) : Nat := q.ring + 64 * (n % 2 ^ q.log2n)

/-- A queue of a partition. -/
def State.wq (s : State) (p n : Nat) : Option WorkQ := tfind (s.part p).wqs n

/-- Replaces a queue. -/
def State.setWq (s : State) (p n : Nat) (q : WorkQ) : State :=
  let P := s.part p
  s.setPart p { P with wqs := tset P.wqs n q }

/-- What WQWAIT writes of a queue (R392). -/
def WorkQ.word (q : WorkQ) : Word := BitVec.ofNat 32 (min q.count 65535 + if q.closed then 2 ^ 31 else 0)

/-- The wait of a split that sleeps on queue n once it is woken. -/
def Wait.wake (n : Nat) (v : Word) (x : Wait) : Wait :=
  match x with
  | .wqwait q d => if q = n then .wqDone d v else x
  | x => x

/-- A split that sleeps on queue n is woken, wherever its wait is kept. -/
def Split.wake (n : Nat) (v : Word) (X : Split) : Split :=
  { X with wait := X.wait.wake n v, savedWait := if X.sup then X.savedWait.wake n v else X.savedWait
           trapWait := X.trapWait.map fun z => (z.1.wake n v, z.2) }

/-- The same for a split of a saved warp. -/
def SplitNote.wake (n : Nat) (v : Word) (X : SplitNote) : SplitNote :=
  { X with wait := X.wait.wake n v, trapWait := X.trapWait.map fun z => (z.1.wake n v, z.2) }

/-- A warp whose split sp is woken. -/
def Warp.wake (W : Warp) (sp n : Nat) (v : Word) : Warp :=
  { W with
    splits := W.splits.map fun X => if X.id = sp then X.wake n v else X
    waits := tmap W.waits fun k X => if k = sp then X.wake n v else X }

/-- Whether a split still sleeps on queue n. -/
def State.sleeps (s : State) (n : Nat) (e : Nat × Nat) : Bool :=
  match tfind s.warps e.1 with
  | none => false
  | some W => W.wake e.2 n 0 != W

/-- Splits that sleep on a queue. -/
def State.asleep (s : State) (n : Nat) (q : WorkQ) : Bool := q.sleepers.any (s.sleeps n)

/-- A sleeper goes on with what the queue now holds; a WAIT stop of its block is withdrawn (R363), and one saved for it may
resume (R237). -/
def State.wakeSplit (s : State) (w sp n : Nat) (v : Word) : State :=
  match tfind s.warps w with
  | none => s
  | some W =>
    let s := s.withdraw W.block .waitWord
    if ((tfind s.blocks W.block).map (·.saved)).getD false then
      { s with
        warps := tset s.warps w (W.wake sp n v)
        blocks := tmod s.blocks W.block fun B =>
          { B with watchedQ := B.watchedQ.map fun k => if k = n then n + 64 else k } }
    else { s with warps := tset s.warps w (W.wake sp n v).passDone }

/-- Wakes n sleepers of a queue, oldest first (R392). -/
def State.wake (s : State) (p n : Nat) : Nat → State
  | 0 => s
  | k + 1 =>
    match s.wq p n with
    | none => s
    | some q =>
      match q.sleepers.filter (s.sleeps n) with
      | [] => s.setWq p n { q with sleepers := [] }
      | e :: rest => ((s.setWq p n { q with sleepers := rest }).wakeSplit e.1 e.2 n q.word).wake p n k

/-- Wakes every sleeper. -/
def State.wakeAll (s : State) (p n : Nat) : State :=
  match s.wq p n with
  | none => s
  | some q => s.wake p n q.sleepers.length

/-- Whether what appends or removes a record through a port still goes on. -/
def State.locked (s : State) (x : Option Asker) (me : Asker) : Bool :=
  match x with
  | none => false
  | some a => a.ref != me.ref && (if a.kind = 3 then (tfind s.feOps a.ref).isSome else (tfind s.ops a.ref).isSome)

/-- Operation n as one that appends or removes a record. -/
def wqUser (n : Nat) : Asker := { kind := 1, ref := n, sub := 0 }

/-- The queue that a register names, if it serves the issuing address space (R389). -/
def Ctx.wqAt (c : Ctx) (r : BitVec 6) : Option WorkQ :=
  (c.s.wq (c.s.warpPart c.W) (c.sreg r).toNat).filter fun q => q.asid = c.s.warpAsid c.W

/-- What a queue operand meets (R356). -/
def Ctx.wqCauses (c : Ctx) (r : BitVec 6) : List Met :=
  if 64 ≤ (c.sreg r).toNat then [(cProt, 0x41, 0)] else if (c.wqAt r).isNone then [(cProt, 0x42, 0)] else []

/-- Without WORKQ the queue instructions are ILLEGAL (R389). -/
def withWorkq (s : State) (k : State → Out) : Out :=
  match issuer s with
  | some c => if c.feature 1 then k s else run s fun c => c.raise cIllegal 0
  | none => .fault .noIssuer

/-- The causes of WQPUSH and WQPOP that one operand decides (R38). -/
def wqEarly (f : E3) : Early :=
  [(usrc f.a, fun c => c.wqCauses f.a), (usrc f.b, fun c => c.refCauses (c.sreg f.b).toNat 64 16)]

/-- WQPUSH (R390). -/
def execWqpush (f : E3) (s : State) : Out :=
  withWorkq s (engIssue false f.d (usrc f.a ++ usrc f.b)
    (fun c => c.wqCauses f.a ++ c.refCauses (c.sreg f.b).toNat 64 16)
    (fun c => ((c.startOp (.wqpush (c.sreg f.a).toNat (c.sreg f.b).toNat) f.d).advance 1).finish true)
    (early := wqEarly f))

/-- WQPOP (R391): its destination granules are EMPTY from issue; the block's record becomes ALWAYS (R375). -/
def execWqpop (f : E3) (s : State) : Out :=
  withWorkq s (engIssue false f.d (usrc f.a ++ usrc f.b)
    (fun c => c.wqCauses f.a ++ c.refCauses (c.sreg f.b).toNat 64 16)
    (fun c =>
      let ref := (c.sreg f.b).toNat
      let at_ := c.csmAt ref
      let kind := OpKind.wqpop (c.sreg f.a).toNat ref
      let c := { c with s := (c.s.csmMark at_.1 (at_.2 / 16) 4 true).traceAlways c.W.block }
      ((c.startOp kind f.d).advance 1).finish true)
    (early := wqEarly f))

/-- WQWAIT (R392): records present, or the split sleeps on the queue and writes them when it is woken. -/
def execWqwait (f : E2) (s : State) : Out :=
  withWorkq s fun s => run s fun c =>
    c.uIssue 7 false 1 false (usrc f.a) (group false f.d 1 true) (fun c => c.wqCauses f.a) fun c =>
      let n := (c.sreg f.a).toNat
      match c.wqAt f.a with
      | none => c.s
      | some q =>
        if q.count != 0 || q.closed then
          ((c.setS f.d q.word).advance 1).finish true
        else
          let p := c.s.warpPart c.W
          let s := c.s.setWq p n { q with sleepers := q.sleepers ++ [(c.w, c.sp.id)] }
          let b := c.W.block
          ({ c with s := s, sp := { c.sp with wait := .wqwait n (c.bank f.d, f.d.toNat) } }.finish true).waitSuspend b

/-! ## TRACEX (R377) -/

/-- What TRACEX meets. -/
def Ctx.tracexCauses (c : Ctx) (f : E4) : List Met :=
  let k := (c.sreg f.c).toNat
  let n := (c.sreg f.b).toNat
  if 6 ≤ k || (k < 3 && (n = 0 || 2 ^ 24 ≤ n)) then [(cProt, 0x43, 0)]
  else if k < 3 then c.handleCauses f.a
  else []

/-- TRACEX: its operands are captured. -/
def execTracex (f : E4) (s : State) : Out :=
  engIssue false f.d (usrc2 f.a ++ usrc f.b ++ usrc f.c) (fun c => c.tracexCauses f) (fun c =>
    let k := (c.sreg f.c).toNat
    let h := c.handleAt f.a
    let kind := if k < 3 then OpKind.tracex k (some h.1) h.2 (c.sreg f.b).toNat else OpKind.tracex k none 0 0
    ((c.startOp kind f.d).advance 1).finish true) s
    (early := [(usrc f.c, fun c => if 6 ≤ (c.sreg f.c).toNat then [(cProt, 0x43, 0)] else []),
      (usrc f.b ++ usrc f.c, fun c =>
        let n := (c.sreg f.b).toNat
        if (c.sreg f.c).toNat < 3 && (n = 0 || 2 ^ 24 ≤ n) then [(cProt, 0x43, 0)] else []),
      (usrc2 f.a ++ usrc f.c, fun c => if (c.sreg f.c).toNat < 3 then c.handleCauses f.a else [])])

/-- What a TRACEX does to the block's record, in a launch under RECORD; tiles of a view go in as its parent's (R316). -/
def State.traceX (s : State) (o : EngOp) (k : Nat) (t : Option Tensor) (tile n : Nat) : State :=
  match s.blockLaunch o.block with
  | none => s
  | some L =>
    if L.desc.trace = 0 then s
    else
      { s with blocks := tmod s.blocks o.block fun B =>
        if k = 3 then { B with tAlways := true }
        else if k = 4 then { B with tPaused := true }
        else if k = 5 then { B with tPaused := false }
        else
          match t with
          | none => B
          | some t =>
            let B :=
              if t.id = 0 then B.traceRun L.desc.cap k 0 tile n
              else if t.id = t.root then B.traceRun L.desc.cap k t.root tile n
              else (List.range n).foldl (fun B i =>
                B.traceOne L.desc.cap k t.root (tileOf o.asid t (tile + i)).key.2.1) B
            { B with tAccum := B.tAccum || k = 2 } }

/-! ## WQ_OP_COMPLETE (R390, R391, R377) -/

/-- Some request of an operation has left the partition. -/
def EngOp.left (o : EngOp) : Bool := !o.out.isEmpty || !o.acked.isEmpty

/-- A WQPUSH appends its record. -/
def State.pushDone (s : State) (n : Nat) (o : EngOp) (p qn ref : Nat) (q : WorkQ) : State :=
  if s.locked q.pusher (wqUser n) then s
  else if q.room = 0 then s.finishOp n 3 stQFull 0
  else
    match s.csmOf o.block ref 64 with
    | none => s.finishOp n 3 cCsmBound 0
    | some at_ =>
      let a := q.slot q.tail
      match s.opWrite n o (flatTile o.asid (a / 4096)) (a % 4096) (s.csmRead at_.1 at_.2 64) with
      | .ok s _ => ((s.setWq p qn { q with tail := q.tail + 1, pusher := none }).wake p qn 1).finishOp n 3 0 0
      | .denied s => s.finishOp n 3 cTagDeny 0
      | .wait s => if (s.op n o).left then s.setWq p qn { q with pusher := some (wqUser n) } else s

/-- A WQPOP's granules become FULL, with the popped bytes if there are any (R391, log 25). -/
def State.popLand (s : State) (o : EngOp) (ref : Nat) (bs : Option (List Byte)) : State :=
  match s.csmOf o.block ref 64 with
  | none => s
  | some at_ =>
    let s := match bs with | some bs => s.csmWrite at_.1 at_.2 bs | none => s
    s.csmMark at_.1 (at_.2 / 16) 4 false

/-- A WQPOP removes the head record. -/
def State.popDone (s : State) (n : Nat) (o : EngOp) (p qn ref : Nat) (q : WorkQ) : State :=
  if s.locked q.popper (wqUser n) then s
  else if q.count = 0 then (s.popLand o ref none).finishOp n 3 (if q.closed then stQClosed else stQEmpty) 0
  else
    let a := q.slot q.head
    match s.opRead n o (flatTile o.asid (a / 4096)) (a % 4096) 64 with
    | .ok s bs => ((s.setWq p qn { q with head := q.head + 1, popper := none }).popLand o ref (some bs)).finishOp n 3 0 0
    | .denied s =>
      ((s.setWq p qn { q with head := q.head + 1, popper := none }).popLand o ref (some (List.replicate 64 0))).finishOp n 3 0 0
    | .wait s => if (s.op n o).left then s.setWq p qn { q with popper := some (wqUser n) } else s

/-- WQ_OP_COMPLETE (R390, R391, R377). -/
def execWqOpComplete (n : Nat) (s : State) : Out :=
  .next (match tfind s.ops n with
    | none => s
    | some o =>
      let p := (s.opReq o).part
      let early := fun (s : State) (st : Nat) => s.finishOp n 3 st 0
      match o.kind with
      | .wqpush qn ref =>
        (match o.status, s.wq p qn with
         | some st, _ => early s st
         | none, none => early s cProt
         | none, some q => if o.faulted then s else s.pushDone n o p qn ref q)
      | .wqpop qn ref =>
        (match o.status, s.wq p qn with
         | some st, _ => early (s.popLand o ref none) st
         | none, none => early (s.popLand o ref none) cProt
         | none, some q => if o.faulted then s else s.popDone n o p qn ref q)
      | .tracex k t tile len => (s.traceX o k t tile len).finishOp n 3 0 0
      | _ => s)

end Sys2Proof.Machine
end

