-- ==== Sys2Proof/Machine/FrontEnd.lean ====
section
/-! DEFINITION. The front end's lanes and queues (R399-R402), time slices (R407), and the packets that touch counters,
launches and work queues (R400, R405, R406). -/

namespace Sys2Proof.Machine

/-! ## Statuses (R398) -/

/-- QUEUE_FULL. -/
def stQueueFull : Nat := 0x2D
/-- PKT_BAD. -/
def stPktBad : Nat := 0x2E
/-- TENSOR_BAD. -/
def stTensorBad : Nat := 0x2F
/-- TENSOR_OVERLAP. -/
def stTensorOverlap : Nat := 0x30

/-! ## Lanes (R401, R402) -/

/-- R402: the group of an opcode; none if it is undefined. -/
def opGroup (op : Nat) : Option Nat :=
  if op = 0x01 || op = 0x02 then some 1
  else if op = 0x10 then some 2
  else if op = 0x11 then some 3
  else if op = 0x20 then some 4
  else if op = 0x30 then some 5
  else if op = 0x40 then some 6
  else if op = 0x50 || op = 0x51 || op = 0x52 || op = 0x00 then some 7
  else none

/-- R409, R415, R430, R435, R459: the VF's queues are served now. -/
def State.served (s : State) (n : Nat) : Bool :=
  match tfind s.vfs n with
  | none => false
  | some v =>
    let P := s.part v.part
    v.ready && P.run && P.state = 2 && P.shed < 4 && !v.frozen && !v.freezing && !v.replaying && s.pkg.stage = 3

/-- The ring of a lane with the TAIL that the lane read. -/
def State.laneRing (s : State) (v : Vf) (L : Lane) : Ring := { s.ring v L.queue with tail := L.tail }

/-- The next packet of a lane that may accept one, if all of its units are there (log 32). -/
def State.laneNext (s : State) (L : Lane) : Option (Vf × Pkt) :=
  match tfind s.vfs L.vf with
  | none => none
  | some v =>
    let r := s.laneRing v L
    let x := s.pktAt r L.head
    if s.served L.vf && L.taken < 8 && x.len ≤ r.ready L.head then some (v, x) else none

/-- The group of a lane's next packet. -/
def State.laneGroup (s : State) (L : Lane) : Option Nat := (s.laneNext L).bind fun x => opGroup x.2.op

/-- R402: the group of the step that starts now: that of a lane passed over in 64 steps, else the lowest. -/
def State.stepGroup (s : State) : Option Nat :=
  match s.lanes.find? fun e => decide (64 ≤ e.2.passed) && (s.laneGroup e.2).isSome with
  | some e => s.laneGroup e.2
  | none => (s.lanes.filterMap fun e => s.laneGroup e.2).foldl
      (fun (m : Option Nat) g => match m with | none => some g | some k => some (min g k)) none

/-- R402: once every lane of a step has advanced, the next step starts. -/
def State.beginStep (s : State) : State :=
  if s.lanes.any fun e => e.2.due && (s.laneGroup e.2).isSome then s
  else
    match s.stepGroup with
    | none => s
    | some g => { s with lanes := tmap s.lanes fun _ (L : Lane) =>
        match s.laneGroup L with
        | none => { L with due := false }
        | some k => if k = g then { L with due := true, passed := 0 } else { L with due := false, passed := L.passed + 1 } }

/-- R401: the queue of a lane must wait: it is parked and holds no lane. -/
def State.parkLane (s : State) (k : Nat) : State :=
  match tfind s.lanes k with
  | none => s
  | some L =>
    match tfind s.vfs L.vf with
    | none => s
    | some v =>
      let v := { v with parked := if v.parked.contains L.queue then v.parked else v.parked ++ [L.queue] }
      ({ s with lanes := tdel s.lanes k, vfs := tset s.vfs L.vf v }).putHead v L.queue L.head

/-- HEAD of a lane moves past n units and the packet counts as accepted. -/
def State.pastUnits (s : State) (k n : Nat) : State :=
  match tfind s.lanes k with
  | none => s
  | some L =>
    match tfind s.vfs L.vf with
    | none => s
    | some v =>
      let L := { L with head := (L.head + n) % (s.laneRing v L).size, taken := L.taken + 1, due := false }
      { s with lanes := tset s.lanes k L }

/-- Packets of a queue that are accepted and not complete. -/
def State.pending (s : State) (n q : Nat) : Bool := s.packets.any fun e => e.2.vf = n && e.2.queue = q

/-- A packet completes with its acceptance (R398). -/
def State.pktStatus (s : State) (n : Nat) (x : Pkt) (status detail : Nat) : State :=
  if x.staddr % 8 = 0 then s.statusWord n x.staddr status detail x.cookie else s

/-- What becomes of a packet. -/
inductive PktEnd where
  /-- It completes with a status and DETAIL. -/
  | done (s : State) (status detail : Nat)
  /-- It is accepted and completes later. -/
  | started (s : State)
  /-- It must wait; its queue is parked. -/
  | park (s : State)
  /-- The front end is busy with it: nothing has happened yet. -/
  | hold

/-- Every byte from 0x10 on that lies in none of some ranges is zero (R397). -/
def Pkt.restZero (x : Pkt) (used : List (Nat × Nat)) : Bool :=
  (List.range x.bytes.length).all fun i =>
    i < 0x10 || used.any (fun u => decide (u.1 ≤ i) && decide (i < u.1 + u.2)) || x.bytes.getD i 0 = 0

/-- R397, R398: a packet whose header and unused bytes are as its opcode asks. -/
def Pkt.wellMade (x : Pkt) (used : List (Nat × Nat)) : Bool :=
  x.zero && x.staddr % 8 = 0 && x.restZero used && (if x.op = 0x20 then 2 ≤ x.len else x.len = 1)

/-- The packet at the head of a queue has no requests on their way any more. -/
def State.feEnd (s : State) (n q : Nat) : State := { s with feOps := s.feOps.filter fun e => !(e.2.vf = n && e.2.queue = q) }

/-- A packet completes with its acceptance: HEAD moves past its units (R398). -/
def State.acceptDone (s : State) (lane : Nat) (L : Lane) (x : Pkt) (status detail : Nat) : State :=
  ((s.feEnd L.vf L.queue).pktStatus L.vf x status detail).pastUnits lane x.len

/-- Executes a lane's next packet, if it is of the kind named and its lane advances in this step (R402). used: the bytes
the opcode uses. -/
def packetEvent (want : Pkt → Bool) (used : List (Nat × Nat)) (k : State → Nat → Vf → Lane → Pkt → PktEnd) (lane : Nat)
    (s : State) : Out :=
  .next (match (tfind s.lanes lane).bind fun L => (s.laneNext L).map fun y => (L, y) with
    | none => s
    | some (L, v, x) =>
      let t := s.beginStep
      if !want x || !((tfind t.lanes lane).map (·.due)).getD false then s
      else if x.barrier && s.pending L.vf L.queue then t.parkLane lane
      else if !x.wellMade used then t.acceptDone lane L x stPktBad 0
      else
        match k t L.vf v L x with
        | .done u st d => u.acceptDone lane L x st d
        | .started u => (u.feEnd L.vf L.queue).pastUnits lane x.len
        | .park u => u.parkLane lane
        | .hold => s)

/-- The oldest notified queue that a free lane may take (R401). -/
def State.nextQueue (s : State) : Option (Nat × Nat) :=
  s.notified.find? fun e => s.served e.1 && !(s.lanes.any fun l => l.2.vf = e.1 && l.2.queue = e.2)

/-- R401, R395: a free lane takes a queue, reads its entry and TAIL, and notes an entry that is faulty. -/
def State.takeQueue (s : State) (lane : Nat) : State :=
  match s.nextQueue with
  | none => s
  | some (n, q) =>
    match tfind s.vfs n with
    | none => s
    | some v =>
      let v := { v with parked := v.parked.filter (· != q) }
      let s := { s with notified := s.notified.erase (n, q), vfs := tset s.vfs n v }
      let r := s.ring v q
      if !r.enable || r.err != 0 then s
      else if r.fault != 0 then s.putErr v q r.fault
      else
        let L : Lane := { vf := n, queue := q, tail := r.tail, head := r.head, taken := 0, passed := 0, due := false }
        { s with lanes := tset s.lanes lane L }

/-- R396: a lane whose queue was notified meanwhile reads TAIL again before it releases it. -/
def State.leaveQueue (s : State) (lane : Nat) (v : Vf) (L : Lane) : State :=
  if s.notified.contains (L.vf, L.queue) then
    let s := { s with notified := s.notified.erase (L.vf, L.queue) }
    let r := s.ring v L.queue
    if !r.enable then s.releaseLane lane
    else if r.fault != 0 then
      { s with lanes := tdel s.lanes lane }.putHead v L.queue L.head |>.putErr v L.queue r.fault
    else
      let s := { s with lanes := tset s.lanes lane { L with tail := r.tail } }
      if L.taken < 8 && r.tail != L.tail then s else s.releaseLane lane
  else s.releaseLane lane

/-- SERVE_QUEUE (R401): a free lane takes a queue; a serving one completes a packet of undefined OP (R400), or releases
its queue when nothing is left to accept or 8 packets have been. -/
def execServeQueue (lane : Nat) (s : State) : Out :=
  .next (
    if 32 ≤ lane then s
    else
      match tfind s.lanes lane with
      | none => s.takeQueue lane
      | some L =>
        match tfind s.vfs L.vf with
        | none => s
        | some v =>
          if !s.served L.vf then s
          else
            match s.laneNext L with
            | none => s.leaveQueue lane v L
            | some (_, x) =>
              if (opGroup x.op).isSome then s
              else if x.barrier && s.pending L.vf L.queue then s.parkLane lane
              else s.acceptDone lane L x stPktBad 0)

/-- PARKED_QUEUE_WAKE (R401): something of the VF might have satisfied the wait: the queue is notified again. -/
def execParkedQueueWake (vf q : Nat) (s : State) : Out :=
  .next (match tfind s.vfs vf with
    | none => s
    | some v =>
      if v.parked.contains q then
        { s with vfs := tset s.vfs vf { v with parked := v.parked.filter (· != q) } }.notifyQ vf q
      else s)

/-! ## Time slices (R407) -/

/-- TIME_SLICE_END (R407): the leaving VF's resident blocks are stopped and the next VF's slice starts; a lone VF is not
sliced. -/
def execTimeSliceEnd (part : Nat) (s : State) : Out :=
  .next (
    let P := s.part part
    match s.sliceNow part with
    | none => s
    | some cur =>
      let nxt := nextInTurn (s.working part) (some cur)
      let s := s.setPart part { P with sliceVf := nxt }
      ((s.blocks.filter fun e => e.2.resident && !e.2.ended &&
          (match tfind s.launches e.2.launch with | some K => K.part = part && some K.vf != nxt | none => false)).map
        (·.1)).foldl (fun s b => s.requestStop b .preempt) s)

/-! ## FENCE, SIGNAL, DCSET, NOP (R400) -/

/-- FENCE: every earlier packet of the queue has completed and the counter has reached its value. -/
def execFencePacket : Nat → State → Out :=
  packetEvent (fun x => x.op = 0x01) [(0x10, 2), (0x14, 4)] fun s n v L x =>
    let dc := x.f 0x10 2
    if !v.dcOk dc then .done s stDcBad 0
    else if s.pending n L.queue || (dc != 0xFFFF && !dcReached (s.dcGet n dc) (BitVec.ofNat 32 (x.f 0x14 4))) then .park s
    else .done s 0 0

/-- Whether the page of an access without a split is mapped by the time it waits for (R225, log 80). -/
def State.feMaps (s : State) : State × Bool := ({ s with draws := s.draws + 1 }, !Config.unmappable s.draws)

/-- What a front-end access that was not performed makes of its packet (R400, R443, log 33): on a page without a leaf it waits
to be serviced, or the page cannot be mapped. -/
def feFail (s : State) (n : Nat) (write : Bool) (z : Served) : PktEnd :=
  match z with
  | .xlate va true lv => .park (s.migFault n va lv write false)
  | .xlate _ false _ => if s.feMaps.2 then .park s.feMaps.1 else .done s.feMaps.1 cProt 0x13
  | .fail s code reason => .done s code (if code = cProt then reason else 0)
  | .remote _ _ _ => .park s
  | .parked _ _ _ => .park s
  | .held => .hold
  | .machine => .done (s.machineFault (((tfind s.vfs n).map (·.part)).getD 0) (((tfind s.vfs n).map (·.part)).getD 0)) cProt 0x13
  | .ok s _ => .done s 0 0
  | .denied s => .done s cTagDeny 0

/-! ## Requests that leave the partition (R430, R448) -/

/-- The requests of the packet at the head of a queue, with their number; made where it has none. -/
def State.feStart (s : State) (n q : Nat) : State × Nat × FeOp :=
  match s.feOps.find? fun e => e.2.vf = n && e.2.queue = q with
  | some e => (s, e)
  | none =>
    let o : FeOp := { vf := n, queue := q, out := [], acked := [], rdata := [], bad := none, got := none, ranges := none }
    ({ s with feOps := tset s.feOps s.fresh o, fresh := s.fresh + 1 }, s.fresh, o)

/-- Changes the requests of a packet. -/
def State.modFe (s : State) (k : Nat) (f : FeOp → FeOp) : State := { s with feOps := tmod s.feOps k f }

/-- A request of a packet is on its way. -/
def State.feOut (s : State) (k key : Nat) : Bool := ((tfind s.feOps k).map fun o => o.out.contains key).getD false
/-- A request of a packet has been answered, or was performed at once. -/
def State.feAcked (s : State) (k key : Nat) : Bool := ((tfind s.feOps k).map fun o => o.acked.contains key).getD false
/-- Notes a request that has left. -/
def State.feSent (s : State) (k key : Nat) : State := s.modFe k fun o => { o with out := key :: o.out }
/-- Notes a request that is done. -/
def State.feDone (s : State) (k key : Nat) : State := s.modFe k fun o => { o with acked := key :: o.acked }

/-- Number of the read of 16 bytes at an address. -/
def feReadKey (va : Nat) : Nat := 2 ^ 70 + va / 16
/-- Number of the write of up to 16 bytes at an address. -/
def feWriteKey (va : Nat) : Nat := 2 ^ 72 + va / 16

/-- Some write of a packet has left, or has been performed by itself. -/
def FeOp.writing (o : FeOp) : Bool := o.out.any (2 ^ 72 ≤ ·) || o.acked.any (2 ^ 72 ≤ ·)

/-- A packet goes on, unless a request of it has failed: then it ends once none is on its way. -/
def withFe (s : State) (n q : Nat) (f : State → Nat → FeOp → PktEnd) : PktEnd :=
  let x := s.feStart n q
  match x.2.2.bad with
  | none => f x.1 x.2.1 x.2.2
  | some (code, reason) => if x.2.2.out.isEmpty then .done x.1 code (if code = cProt then reason else 0) else .park x.1

/-- Reads 16 bytes at each of some addresses for packet k of VF n: what lies behind a port is asked for there. -/
def feReadParts (k n : Nat) (q : Req) : List Nat → State → Bool → Sum State PktEnd
  | [], s, full => if full then .inl s else .inr (.park s)
  | va :: vas, s, full =>
    let key := feReadKey va
    if s.feAcked k key then feReadParts k n q vas s full
    else if s.feOut k key then feReadParts k n q vas s false
    else
      match serveRead s q va 16 with
      | .ok s bs =>
        feReadParts k n q vas ((s.feDone k key).modFe k fun o => { o with rdata := Memory.writeN o.rdata (16 * key) bs }) full
      | z =>
        match z.far with
        | none => .inr (feFail s n false z)
        | some f =>
          let r := s.sendFar q.part q.princ f fkRead 0 16 [] false { kind := 3, ref := k, sub := key }
          feReadParts k n q vas (r.1.feSent k key) false

/-- Reads len bytes at an address, both multiples of 16: the bytes, or what becomes of the packet meanwhile. -/
def feReadAt (k n : Nat) (q : Req) (va len : Nat) (s : State) : Sum (State × List Byte) PktEnd :=
  match serveRead s q va len with
  | .ok s bs => .inl (s, bs)
  | z =>
    if z.far.isNone then .inr (feFail s n false z)
    else
      match feReadParts k n q ((List.range (len / 16)).map fun i => va + 16 * i) s true with
      | .inl s => .inl (s, Memory.readN (((tfind s.feOps k).map (·.rdata)).getD []) (16 * feReadKey va) len)
      | .inr z => .inr z

/-- Writes runs of at most 16 bytes at their addresses for packet k of VF n, one by one; rel: as releases. -/
def feWriteParts (k n : Nat) (q : Req) (rel : Bool) : List (Nat × List Byte) → State → Bool → Sum State PktEnd
  | [], s, full => if full then .inl s else .inr (.park s)
  | (va, bs) :: ws, s, full =>
    let key := feWriteKey va
    if s.feAcked k key then feWriteParts k n q rel ws s full
    else if s.feOut k key then feWriteParts k n q rel ws s false
    else
      match serveWrite s q va bs with
      | .ok s _ => feWriteParts k n q rel ws (s.feDone k key) full
      | z =>
        match z.far with
        | none => .inr (feFail s n true z)
        | some f =>
          let r := s.sendFar q.part q.princ f fkWrite 0 bs.length bs rel { kind := 3, ref := k, sub := key }
          if r.2 then feWriteParts k n q rel ws (r.1.feSent k key) false else .inr (.done r.1 cProt 0x54)

/-- Bytes from an address on, in runs of 16. -/
def feRuns (va : Nat) (bs : List Byte) : List (Nat × List Byte) :=
  (List.range (ceilDiv bs.length 16)).map fun i => (va + 16 * i, (bs.drop (16 * i)).take 16)

/-- Writes runs of bytes: all at once where each can be performed now, else one by one. -/
def feWriteAll (k n : Nat) (q : Req) (o : FeOp) (ws : List (Nat × List Byte)) (s : State) : Sum State PktEnd :=
  if o.writing then feWriteParts k n q false ws s true
  else
    let z := ws.foldl (fun z w => match z with | .ok s _ => serveWrite s q w.1 w.2 | z => z) (Served.ok s [])
    match z with
    | .ok s _ => .inl s
    | z => if z.far.isSome then feWriteParts k n q false ws s true else .inr (feFail s n true z)

/-- SIGNAL: VALUE is stored as a SYSTEM-scope release (R453: tokens leave on every path, and the store waits for their
answers), then the counter increments. Where stores before it were lost it is discarded (R454). -/
def execSignalPacket : Nat → State → Out :=
  packetEvent (fun x => x.op = 0x02) [(0x10, 8), (0x18, 8), (0x20, 2)] fun s n v L x =>
    let dc := x.f 0x20 2
    let a := x.f 0x10 8
    if !v.dcOk dc then .done s stDcBad 0
    else if a % 8 != 0 then .done s stPktBad 0
    else if a = 0 then .done (s.dcInc n dc) 0 0
    else withFe s n L.queue fun s k o =>
      let s := if o.got.isNone then (s.sendTokens v.part v.princ).modFe k fun o => { o with got := some [] } else s
      let q := feReq s v.part n
      let ws := [(a, leBytes 8 (x.f 0x18 8))]
      if o.writing || (serveWrite s q a (leBytes 8 (x.f 0x18 8))).far.isSome then
        match feWriteParts k n q true ws s true with
        | .inl s => .done (s.dcInc n dc) 0 0
        | .inr z => z
      else if !(s.lostPorts v.part).isEmpty then .done (s.loseRelease v.part) cProt 0x54
      else if !(s.unacked v.part).isEmpty then .park s
      else
        match serveWrite s q a (leBytes 8 (x.f 0x18 8)) with
        | .ok s _ => .done (s.dcInc n dc) 0 0
        | z => feFail s n true z

/-- DCSET: the counter holds VALUE. -/
def execDcset : Nat → State → Out :=
  packetEvent (fun x => x.op = 0x52) [(0x10, 2), (0x14, 4)] fun s n v _ x =>
    let dc := x.f 0x10 2
    if v.dccount ≤ dc then .done s stDcBad 0
    else .done (s.dcSet n dc (BitVec.ofNat 32 (x.f 0x14 4))) 0 0

/-- NOP: complete at acceptance. -/
def execNopPacket : Nat → State → Out :=
  packetEvent (fun x => x.op = 0x00) [] fun s _ _ _ _ => .done s 0 0

/-! ## LAUNCH and REPRINT (R400, R405, R406) -/

/-- A host launch: it takes a queue slot, and its descriptor is read and checked (R348, R464). -/
def hostLaunch (reprint : Bool) (s : State) (n : Nat) (v : Vf) (L : Lane) (x : Pkt) : PktEnd :=
  let a := x.f 0x10 8
  if a % 256 != 0 || (reprint && !v.featAgreed.getLsbD 0) then .done s stPktBad 0
  else
    match s.takeSlot n with
    | none => .done s stQueueFull 0
    | some (s, burst) =>
      let l := s.fresh
      let s := s.addLaunch (newLaunch (s.nextLaunchId v.part) v.part n 0 7 l none none burst reprint none)
      let y : Packet := { vf := n, queue := L.queue, order := l, op := x.op, barrier := x.barrier, nowait := x.nowait,
                          cookie := x.cookie, staddr := x.staddr, body := [], launch := some l }
      let s := { s with packets := tset s.packets s.fresh y, fresh := s.fresh + 1 }
      match feRead s (feReq s v.part n) a 256 with
      | .inl (s, bs) => .started (s.launchCheck l bs)
      | .inr (st, d) => .started (s.endStatus l st d)

/-- LAUNCH packet. -/
def execLaunchPacket : Nat → State → Out :=
  packetEvent (fun x => x.op = 0x10) [(0x10, 8)] (hostLaunch false)

/-- REPRINT packet; without RELAUNCH it is refused (R384). -/
def execReprintPacket : Nat → State → Out :=
  packetEvent (fun x => x.op = 0x11) [(0x10, 8)] (hostLaunch true)

/-! ## Work queues (R389, R392, R400) -/

/-- A queue of the VF's address space, with WORKQ agreed. -/
def State.vfQueue (s : State) (v : Vf) (q : Nat) : Option WorkQ :=
  if v.featAgreed.getLsbD 1 && q < 64 then (s.wq v.part q).filter fun w => w.asid = v.asid else none

/-- The writes that append k records of 64 bytes to a queue. -/
def WorkQ.records (w : WorkQ) (k : Nat) (bs : List Byte) : List (Nat × List Byte) :=
  (List.range k).flatMap fun i => feRuns (w.slot (w.tail + i)) ((bs.drop (64 * i)).take 64)

/-- FEED: every record is appended, or none; one whose ring lies behind a port keeps others from appending meanwhile. -/
def execFeed : Nat → State → Out :=
  packetEvent (fun x => x.op = 0x20) [(0x10, 1), (0x40, 960)] fun s n v L x =>
    let id := x.f 0x10 1
    let k := x.len - 1
    match s.vfQueue v id with
    | none => .done s stPktBad 0
    | some w =>
      if w.closed then .done s stQClosed 0
      else withFe s n L.queue fun s m o =>
        let me : Asker := { kind := 3, ref := m, sub := 0 }
        if s.locked w.pusher me then .park s
        else if w.room < k then (if x.nowait then .done s stQFull 0 else .park s)
        else
          match feWriteAll m n (feReq s v.part n) o (w.records k (x.bytes.drop 64)) s with
          | .inl s => .done ((s.setWq v.part id { w with tail := w.tail + k, pusher := none }).wake v.part id k) 0 0
          | .inr (.park s) =>
            .park (if ((tfind s.feOps m).map FeOp.writing).getD false then s.setWq v.part id { w with pusher := some me } else s)
          | .inr z => z

/-- Bytes that WQCFG uses. -/
def wqcfgUsed : List (Nat × Nat) := [(0x10, 3), (0x18, 8)]

/-- WQCFG configure, and an ACTION that is not defined: an id already in use is refused (log 34). -/
def execWqcfgConfigure : Nat → State → Out :=
  packetEvent (fun x => x.op = 0x51 && x.f 0x12 1 != 1 && x.f 0x12 1 != 2) wqcfgUsed fun s _ v _ x =>
    let id := x.f 0x10 1
    let n := x.f 0x11 1
    let ring := x.f 0x18 8
    if x.f 0x12 1 != 0 || !v.featAgreed.getLsbD 1 || 64 ≤ id || n < 6 || 16 < n || ring % 4096 != 0 ||
        (s.wq v.part id).isSome then .done s stPktBad 0
    else
      let w : WorkQ := { asid := v.asid, ring := ring, log2n := n, head := 0, tail := 0, closed := false, sleepers := [],
                         pusher := none, popper := none }
      .done (s.setWq v.part id w) 0 0

/-- WQCFG close: CLOSED is set and every sleeper wakes. -/
def execWqcfgClose : Nat → State → Out :=
  packetEvent (fun x => x.op = 0x51 && x.f 0x12 1 = 1) wqcfgUsed fun s _ v _ x =>
    let id := x.f 0x10 1
    match s.vfQueue v id with
    | none => .done s stPktBad 0
    | some w => .done ((s.setWq v.part id { w with closed := true }).wakeAll v.part id) 0 0

/-- WQCFG free: only an empty queue on which no split sleeps. -/
def execWqcfgFree : Nat → State → Out :=
  packetEvent (fun x => x.op = 0x51 && x.f 0x12 1 = 2) wqcfgUsed fun s _ v _ x =>
    let id := x.f 0x10 1
    match s.vfQueue v id with
    | none => .done s stPktBad 0
    | some w =>
      if w.count != 0 || s.asleep id w then .done s stPktBad 0
      else
        let P := s.part v.part
        .done (s.setPart v.part { P with wqs := tdel P.wqs id }) 0 0

end Sys2Proof.Machine
end

