-- ==== Sys2Proof/Machine/Answer.lean ====
section
/-! DEFINITION. The answers to requests that left their partition: from fabric ports (R447, R448, R454) and from gates that
had parked them (R430). -/

namespace Sys2Proof.Machine

/-- The cause that a STATUS is to an access (R448, R449); one that no rule of an access names is PROT 0x52 (log 96). -/
def statusCause (st : Nat) : Nat × Nat :=
  if st = 0x06 then (cTagDeny, 0) else if st = 0x0D then (cSoft, 0)
  else if st = 0x52 || st = 0x53 then (cProt, st) else (cProt, 0x52)

/-! ## Accesses -/

/-- Requests of a part of an access that have no answer yet: behind a port, or parked at a gate. -/
def State.laneLeft (s : State) (n k : Nat) : Bool :=
  s.outReqs.any (fun e => e.2.kind = 0 && e.2.ref = n && e.2.sub / 32 = k) ||
    s.regions.any fun e => e.2.parking.any fun q =>
      match askerOf q.src with
      | some a => a.kind = 0 && a.ref = n && a.sub / 32 = k
      | none => false

/-- A lane of an access is answered: res, or the cause it met. -/
def State.answerLane (s : State) (n sub : Nat) (res : Option Nat) (bad : Option (Nat × Nat)) : State :=
  let k := sub / 32
  let worse := fun (old : Option (Nat × Nat)) =>
    match old, bad with
    | some x, some y => some (if y.1 < x.1 then y else x)
    | none, y => y
    | x, none => x
  let left := s.laneLeft n k
  { s with accs := tmod s.accs n fun (a : Access) =>
      let put := fun (x : LaneAcc) => if x.lane = sub % 32 then { x with res := res.getD x.res } else x
      let a := { a with lanes := a.lanes.map put }
      a.setSub k fun x => { x with fail := worse x.fail, st := if left then x.st else .done } }.settleStore n

/-- Byte of a granule at which a lane's address lies. -/
def State.laneOff (s : State) (n l : Nat) : Nat :=
  (((tfind s.accs n).bind fun a => a.lanes.find? fun x => x.lane = l).map fun x => x.ea % 16).getD 0

/-- Bytes that a lane of an access reads. -/
def State.laneSize (s : State) (n : Nat) : Nat := ((tfind s.accs n).map fun a => a.kind.size).getD 4

/-! ## Engine operations -/

/-- The number of a request names the store of a stamp word (R339). -/
def stampKey (k : Nat) : Bool :=
  (decide (2 ^ 65 ≤ k) && decide (k < 2 ^ 66)) || (decide (2 ^ 67 ≤ k) && decide (k < 2 ^ 68))

/-- The tile whose granule a request of an operation writes. -/
def granTile (key : Nat) : Nat := (key - 2 ^ 68) / 512

/-- A granule of an engine operation is answered. A stamp that could not be stored is passed over (log 61), and of a run of
orphans the tile of a granule that could not be written (R387, log 71). -/
def State.answerOp (s : State) (n key : Nat) (bs : List Byte) (bad : Option Nat) : State :=
  let ack := fun (s : State) => s.modOp n fun o =>
    { o with out := o.out.filter (· != key), acked := key :: o.acked,
             rdata := if bs.isEmpty then o.rdata else Memory.writeN o.rdata (16 * key) bs }
  match bad with
  | some st =>
    if stampKey key then ack s
    else
      match (tfind s.ops n).map EngOp.kind with
      | some (.orphan _ _ _) => (ack s).modOp n fun o => { o with unitsDone := granTile key :: o.unitsDone }
      | _ => s.opStatus n st
  | none => ack s

/-! ## The front end -/

/-- A request of the front end is answered (R400, R448). -/
def State.answerFe (s : State) (n key : Nat) (bs : List Byte) (bad : Option (Nat × Nat)) : State :=
  { s with feOps := tmod s.feOps n fun (o : FeOp) =>
      { o with out := o.out.filter (· != key), acked := key :: o.acked
               rdata := if bs.isEmpty then o.rdata else Memory.writeN o.rdata (16 * key) bs
               bad := if stampKey key then o.bad else o.bad.or bad } }

/-- The answer to whoever waits for it. -/
def State.answer (s : State) (a : Asker) (res : Option Nat) (bs : List Byte) (bad : Option (Nat × Nat)) : State :=
  if a.kind = 0 then s.answerLane a.ref a.sub (if bad.isSome then some 0 else res) bad
  else if a.kind = 1 then s.answerOp a.ref a.sub bs (bad.map (·.1))
  else if a.kind = 3 then s.answerFe a.ref a.sub bs bad
  else s

/-! ## Port windows that close (R423, R449) -/

/-- A request of this device that left under an outbound window is outstanding. -/
def State.owinBusy (s : State) (n : Nat) (x : PortWin) : Bool :=
  s.outReqs.any fun e => e.2.port = n && e.2.dev = x.dev &&
    (let pa := bits e.2.flit.pa.toNat 51 0
     decide (x.base ≤ pa) && decide (pa < x.base + x.len * 65536))

/-- A request that an inbound window let in is parked. -/
def State.iwinBusy (s : State) (n : Nat) (x : PortWin) : Bool :=
  s.regions.any fun e => e.2.parking.any fun q =>
    (askerOf q.src).isNone && q.src / 2 ^ 58 % 4 = 1 && q.src % 64 = n && q.src / 2 ^ 6 % 4096 = x.dev &&
      q.src / 2 ^ 18 % 256 = x.spart && x.base ≤ q.pa && q.pa < x.base + x.len * 65536

/-- A port's window closes once the requests admitted under it have been performed. -/
def State.settleWins (s : State) (n : Nat) : State :=
  let P := s.port n
  s.setPort n { P with
    owin := tmap P.owin fun _ (x : PortWin) => { x with closing := x.closing && s.owinBusy n x }
    iwin := tmap P.iwin fun _ (x : PortWin) => { x with closing := x.closing && s.iwinBusy n x } }

/-! ## Parked requests -/

/-- A request that a gate had parked is performed: the path of a store from another device goes on and the requester of its
atomic is answered; one of this package hears of it (R430). -/
def State.parkedDone (s : State) (p : Nat) (rq : InReq) (old : List Byte) : State :=
  match askerOf rq.src with
  | some a =>
    s.answer a (if rq.kind = 1 then some (leNat (old.take 4)) else none) [] none
  | none =>
    if rq.src / 2 ^ 58 % 4 = 1 then
      let seq := rq.src / 2 ^ 26 % 2 ^ 32
      let s := (s.storePerformed (rq.src / 2 ^ 6 % 4096) (rq.src / 2 ^ 18 % 256) seq).settleWins (rq.src % 64)
      if rq.kind = 1 then
        s.respond (rq.src % 64) p (BitVec.ofNat 32 (rq.src / 2 ^ 60)) rq.pa seq 0 0 (wordGranule old)
      else s
    else s

/-- A parked request that cannot be performed any more ends with error (R425): its path goes on, and the
requester of an atomic hears: PROT 0x50 in this package, STATUS 0x52 outside. -/
def State.parkedLost (s : State) (rq : InReq) : State :=
  match askerOf rq.src with
  | some a => s.answer a none [] (some (cProt, 0x50))
  | none =>
    if rq.src / 2 ^ 58 % 4 = 1 then
      let seq := rq.src / 2 ^ 26 % 2 ^ 32
      let s := (s.storePerformed (rq.src / 2 ^ 6 % 4096) (rq.src / 2 ^ 18 % 256) seq).settleWins (rq.src % 64)
      if rq.kind = 1 then s.respond (rq.src % 64) 0 (BitVec.ofNat 32 (rq.src / 2 ^ 60)) rq.pa seq 0x52 0 [] else s
    else s

end Sys2Proof.Machine
end

