-- ==== Sys2Proof/Machine/Regs.lean ====
section
/-! DEFINITION. What control registers read as (R4, R5): partition, region and port control spaces, VFMAP, FABCFG, the
management registers and a VF's doorbell page. Every space is read in words of 4 bytes. -/

namespace Sys2Proof.Machine

/-- A bit at its place. -/
def bitAt (b : Bool) (i : Nat) : Nat := if b then 2 ^ i else 0

/-- Half of a 64-bit register: the low one at its offset, the high one 4 further. -/
def halfOf (v : Nat) (hi : Bool) : Nat := if hi then v / 2 ^ 32 % 2 ^ 32 else v % 2 ^ 32

/-- A 64-bit register with one half replaced. -/
def putHalf (v : DWord) (hi : Bool) (w : Word) : DWord :=
  if hi then w ++ v.extractLsb' 0 32 else v.extractLsb' 32 32 ++ w

/-! ## Partition control space (R414) -/

/-- PCFG (R415). -/
def Part.pcfg (P : Part) : Nat := bitAt P.err 31 + bitAt P.run 3 + P.shape
/-- PSTAT (R415). -/
def Part.pstat (P : Part) : Nat := bitAt P.fault 3 + bitAt P.busy 2 + P.state
/-- VFCMD (R418). -/
def Part.vfcmd (P : Part) : Nat := bitAt P.vfcmdBusy 29 + bitAt P.vfcmdErr 28 + P.vfcmdVf
/-- VFMIG (R429); frozen: the VF that it names is. -/
def Part.vfmig (P : Part) (frozen : Bool) : Nat :=
  bitAt P.vfmigBusy 28 + bitAt P.vfmigAborted 27 + bitAt frozen 26 + P.vfmigVf
/-- TCCFG (R345). -/
def Part.tccfgWord (P : Part) : Nat := bitAt P.tccfgErr 31 + P.tccfg
/-- TUCTL (R345). -/
def Part.tuctl (P : Part) : Nat := bitAt P.tuErr 2 + bitAt P.tuBusy 1

/-- A word of a partition control space by offset, VFMIG apart; write-only registers and offsets not listed read zero. -/
def Part.read (P : Part) (o : Nat) : Nat :=
  if o = 0x000 then P.pcfg
  else if o = 0x004 then P.pstat
  else if o = 0x008 || o = 0x00C then halfOf P.psupv.toNat (o = 0x00C)
  else if o = 0x010 || o = 0x014 then halfOf P.pvfbase.toNat (o = 0x014)
  else if o = 0x018 then P.pvfcount.toNat
  else if o = 0x01C then P.plattol.toNat
  else if o = 0x020 then P.pshed.toNat
  else if o = 0x028 || o = 0x02C then halfOf P.pevictpa.toNat (o = 0x02C)
  else if o = 0x030 then P.vfcmd
  else if o = 0x100 then bitAt P.prmapErr 2 + bitAt P.prmapBusy 1
  else if 0x200 ≤ o && o < 0x200 + 32 * shapeRegions P.shape then (tget 0 P.remap ((o - 0x200) / 4)).toNat
  else if o = 0x600 then P.dbgctl.toNat
  else if o = 0x700 then P.tccfgWord
  else if o = 0x704 then P.tchashk.toNat
  else if o = 0x708 then P.polbase.toNat
  else if o = 0x70C then P.teqbase.toNat
  else if o = 0x710 then P.teqsize.toNat
  else if o = 0x714 then P.teqhead.toNat
  else if o = 0x718 then P.teqtail.toNat
  else if o = 0x71C then P.teqlost.toNat
  else if o = 0x720 then P.dfbudget.toNat
  else if o = 0x728 || o = 0x72C then halfOf P.tupa.toNat (o = 0x72C)
  else if o = 0x730 || o = 0x734 then halfOf P.tuva.toNat (o = 0x734)
  else if o = 0x738 || o = 0x73C then halfOf P.tuval.toNat (o = 0x73C)
  else if o = 0x740 then P.tuctl
  else if o = 0x800 then P.lepoch.toNat
  else if o = 0x804 then P.lpredl.toNat
  else if o = 0x808 || o = 0x80C then halfOf P.lsavepa.toNat (o = 0x80C)
  else if o = 0x810 then P.lsavelen.toNat
  else if o = 0x900 then P.burstUsed * 2 ^ 16 + P.burstSlots
  else if o = 0x904 then P.feslice
  else 0

/-! ## Region and port control spaces (R421, R424, R446, R449) -/

/-- RSTAT.BUSY (R423, R424). -/
def Region.busy (R : Region) : Bool := R.resetting || R.wins.any fun e => e.2.closing

/-- A word of a window entry of a region. -/
def Win.read (x : Win) (o : Nat) : Nat :=
  if o = 0 || o = 4 then halfOf x.base (o = 4)
  else if o = 8 || o = 12 then halfOf (x.len * 2 ^ 16) (o = 12)
  else if o = 16 then x.borrower * 8 + bitAt x.w 1 + bitAt x.valid 0
  else 0

/-- A word of a region control space. -/
def Region.read (R : Region) (o : Nat) : Nat :=
  if o = 0x004 then R.pwr * 2 ^ 6 + bitAt R.fault 5 + bitAt R.gate 4 + bitAt R.busy 3
  else if o = 0x008 then R.recch.toNat
  else if o = 0x00C then R.reccs.toNat
  else if o = 0x010 then R.reccc.toNat
  else if o = 0x014 then R.rscrub
  else if 0x100 ≤ o && o < 0x300 then (tget Win.reset R.wins ((o - 0x100) / 32)).read ((o - 0x100) % 32)
  else 0

/-- A word of a port window; inbound ones name a source partition. VALID reads 1 until a close has completed (R423, R449). -/
def PortWin.read (x : PortWin) (o : Nat) : Nat :=
  if o = 0 || o = 4 then halfOf x.base (o = 4)
  else if o = 8 || o = 12 then halfOf (x.len * 2 ^ 16) (o = 12)
  else if o = 16 then x.dev * 2 ^ 8 + x.spart * 8 + bitAt x.w 1 + bitAt (x.valid || x.closing) 0
  else 0

/-- A word of a port control space. -/
def Port.read (P : Port) (o : Nat) : Nat :=
  if o = 0x000 then bitAt P.err 31 + bitAt P.up 8 + bitAt P.valid 7 + bitAt P.mode 6 + P.owner
  else if o = 0x008 then bitAt P.known 31 + P.peer
  else if o = 0x010 then P.blk.toNat
  else if 0x100 ≤ o && o < 0x300 then (tget PortWin.reset P.owin ((o - 0x100) / 32)).read ((o - 0x100) % 32)
  else if 0x300 ≤ o && o < 0x500 then (tget PortWin.reset P.iwin ((o - 0x300) / 32)).read ((o - 0x300) % 32)
  else 0

/-! ## Management registers (R458) -/

/-- MTEMP (R458): a die has tripped, a die is at or above 105 °C, and the hottest junction. -/
def Package.mtemp (K : Package) : Nat :=
  bitAt K.trip 31 + bitAt (K.dieTemp.any fun e => decide (105 ≤ e.2)) 30 + K.dieTemp.foldl (fun m e => max m e.2) 0 % 256

/-- MCLK (R458), with region 0's PLL at a ratio in quarters of nominal. -/
def Package.mclk (K : Package) (pll : Nat) : Nat := K.tcmhz * pll / 4 * 2 ^ 12 + K.fabmhz

/-- A word of the management registers, MCLK apart. -/
def Package.read (K : Package) (o : Nat) : Nat :=
  if o = 0x000 then K.fail * 2 ^ 4 + K.stage
  else if o = 0x008 || o = 0x00C then halfOf K.mrecpa.toNat (o = 0x00C)
  else if o = 0x010 then K.mreclen.toNat
  else if o = 0x014 then K.mfwver.toNat
  else if o = 0x018 then K.mpcap
  else if o = 0x01C then bitAt K.overCap 31 + K.watts
  else if o = 0x020 then K.mtemp
  else if o = 0x028 then K.memmhz
  else if o = 0x030 || o = 0x034 then halfOf K.matnpa.toNat (o = 0x034)
  else if o = 0x038 then bitAt K.matBusy 30 + bitAt K.matErr 29
  else 0

/-! ## Doorbell page (R439) -/

/-- A word of a VF's doorbell page. -/
def Vf.read (v : Vf) (o : Nat) : Nat :=
  if o = 0x008 || o = 0x00C then halfOf v.mirror.toNat (o = 0x00C)
  else if o = 0x010 || o = 0x014 then halfOf v.mrqBase.toNat (o = 0x014)
  else if o = 0x018 then v.mrqTail
  else if o = 0x01C then v.mrqHead
  else 0

/-- R438: the created VF whose doorbell page is that of package VF n: a valid entry names it. -/
def State.boundVf (s : State) (n : Nat) : Option Vf :=
  let e := (tget 0 s.vfmap n).toNat
  match tfind s.vfs n with
  | none => none
  | some v => if pteBit e 31 && v.part = bits e 14 10 && v.recIdx = bits e 9 0 then some v else none

/-- The VF that VFMIG names is frozen (R429). -/
def State.vfFrozen (s : State) (p : Nat) : Bool :=
  s.vfs.any fun e => e.2.part = p && e.2.recIdx = (s.part p).vfmigVf && e.2.frozen

/-- A word of a partition control space. -/
def State.readPart (s : State) (p o : Nat) : Nat :=
  if o = 0x034 then (s.part p).vfmig (s.vfFrozen p) else (s.part p).read o

/-- A word of the management registers. -/
def State.readMgmt (s : State) (o : Nat) : Nat := if o = 0x024 then s.pkg.mclk (s.region 0).pll else s.pkg.read o

/-- A word of a register space. -/
def State.readReg (s : State) (sp : RegSpace) (o : Nat) : Nat :=
  match sp with
  | .part p => s.readPart p o
  | .region r => (s.region r).read o
  | .port n => (s.port n).read o
  | .vfmap => if o < 4096 then (tget 0 s.vfmap (o / 4)).toNat else 0
  | .fabcfg => if o = 0 then s.pkg.fabcfg else 0
  | .mgmt => s.readMgmt o
  | .doorbell n => ((s.boundVf n).map fun v => v.read o).getD 0

/-- A read of 4 or 8 bytes. -/
def State.readRegs (s : State) (sp : RegSpace) (o n : Nat) : Nat :=
  s.readReg sp o + (if n = 8 then s.readReg sp (o + 4) * 2 ^ 32 else 0)

end Sys2Proof.Machine
end

