-- ==== Sys2Proof/Machine/Vf.lean ====
section
/-! DEFINITION. Virtual functions: creation, reset and destruction (R417-R420, R408) and migration between
partitions (R429-R432). -/

namespace Sys2Proof.Machine

/-! ## VF context records (R417) -/

/-- The package VF that a valid VFMAP entry gives a record of a partition (R438); without one a number that no doorbell
page has. -/
def State.vfNumber (s : State) (p rec : Nat) : Nat :=
  ((s.vfmap.find? fun e => pteBit e.2.toNat 31 && bits e.2.toNat 14 10 = p && bits e.2.toNat 9 0 = rec).map (·.1)).getD
    (1024 + 1024 * p + rec)

/-- The created VF of a record of a partition. -/
def State.vfOf (s : State) (p rec : Nat) : Option (Nat × Vf) := s.vfs.find? fun e => e.2.part = p && e.2.recIdx = rec

/-- Address of a record. -/
def State.recAddr (s : State) (p rec : Nat) : Nat := (s.part p).pvfbase.toNat + 128 * rec

/-- The VF that a record describes. The quotas stand in its VCP page, which is read after a write of VFNOTIFY (R393, R394). -/
def State.vfRecord (s : State) (p rec : Nat) : Vf :=
  let f := fun o n => Memory.num s.mem (s.recAddr p rec + o) n
  let page := f 0x20 8
  { part := p, recIdx := rec, asid := f 0x00 4, princ := BitVec.ofNat 32 (f 0x04 4), ptroot := f 0x08 8,
    ttbase := f 0x10 8, ttlen := f 0x18 4, lend := f 0x1C 4 % 2 = 1, vcppa := page, reserve := f 0x28 24,
    qslots := 0, dccount := 0, inuse := 0, borrowed := 0,
    ready := false, featAgreed := 0, dcs := [], parked := [], mirror := 0, mrqBase := 0, mrqTail := 0, mrqHead := 0,
    migReqs := [], frozen := false, freezing := false, replaying := false, remote := [] }

/-- Whether a record keeps R417. -/
def State.recordOk (s : State) (p rec : Nat) : Bool :=
  let v := s.vfRecord p rec
  let f := fun o n => Memory.num s.mem (s.recAddr p rec + o) n
  16 ≤ v.asid && v.asid < 4096 && v.ptroot % 2 ^ 21 = 0 && v.ttbase % 256 = 0 && 32 ≤ v.ttlen && v.ttlen ≤ 2 ^ 20 &&
  f 0x1C 4 < 2 && v.vcppa % 4096 = 0 && f 0x40 64 = 0

/-- Clusters that a VF of the partition reserves already, or that the partition lacks (R418). -/
def State.reserveOk (s : State) (p : Nat) (v : Vf) : Bool :=
  v.reserve < 2 ^ (8 * s.partRegions p) && s.vfs.all fun e => e.2.part != p || e.2.reserve &&& v.reserve = 0

/-- Feature bits that the device offers (R410): RELAUNCH and WORKQ (log 26). -/
def featOffer : Nat := 3

/-- What the front end writes into the page of a VF at creation (R394). -/
def State.initPage (s : State) (v : Vf) : State :=
  (s.hostPut v.vcppa (leBytes 4 0x00030000 ++ leBytes 4 0 ++ leBytes 8 featOffer)).hostPut (v.vcppa + 0x18) (leBytes 8 0)
    |>.hostPut (v.vcppa + 0x24) (leBytes 4 0)

/-- A VFCMD command ends: ERR if refused, and PF vector 1 (R438). -/
def State.endCmd (s : State) (p : Nat) (refused : Bool) : State :=
  let P := s.part p
  (s.setPart p { P with vfcmdErr := P.vfcmdErr || refused, vfcmdBusy := false }).signal none 1

/-- In RECOVERY the VF and partition commands are refused (R461). -/
def State.recovery (s : State) : Bool := s.pkg.stage = 15

/-- VF_CREATE (R418). -/
def execVfCreate (part vf : Nat) (s : State) : Out :=
  let P := s.part part
  let s := s.setPart part { P with vfcmdVf := vf }
  let v := s.vfRecord part vf
  .next (
    if s.recovery || P.pvfcount.toNat ≤ vf then s.endCmd part true
    else if !paInside (s.recAddr part vf) 128 then (s.machineFault part part).endCmd part true
    else if !s.recordOk part vf || s.vfs.any (fun e => e.2.asid = v.asid) || !s.reserveOk part v ||
        1024 ≤ s.vfs.length || (s.vfOf part vf).isSome then s.endCmd part true
    else ({ s with vfs := tset s.vfs (s.vfNumber part vf) v }.initPage v).endCmd part false)

/-! ## FLR (R408, R419, R420, R445) -/

/-- Drops what the clusters and regions of a partition hold for an address space (R419). -/
def Cluster.scrubAsid (c : Cluster) (asid : Nat) : Cluster :=
  let mine := c.accown.filter fun e => pteBit e.2.toNat 12 && bits e.2.toNat 11 0 = asid
  { c with
    l1 := c.l1.filter fun x => x.asid != asid
    slots := c.slots.filter fun e => !mine.any fun m => m.1 = e.1
    accown := tmap c.accown fun _ w => if pteBit w.toNat 12 && bits w.toNat 11 0 = asid then w &&& ~~~(1#32 <<< 12) else w
    pages := tmap c.pages fun _ (x : OsPage) => if x.asid = asid then { x with valid := false } else x }

/-- The same for a core's caches. -/
def Core.scrubAsid (c : Core) (asid : Nat) : Core :=
  { c with ccache := c.ccache.filter fun x => x.sup || x.asid != asid
           icache := c.icache.filter fun x => x.sup || x.asid != asid }

/-- The same for a region: entries go without write-back, and translations (R419). -/
def Region.scrubAsid (r : Region) (asid : Nat) : Region :=
  { r with ents := tmap r.ents fun _ es => es.filter fun e => e.asid != asid
           tlb := r.tlb.filter fun t => t.asid != asid }

/-- What a partition keeps for an address space: work queues, registrations, views and sweeps. -/
def Part.scrubAsid (p : Part) (asid : Nat) : Part :=
  { p with wqs := p.wqs.filter fun e => e.2.asid != asid
           registered := p.registered.filter fun e => e.1 != asid
           unregs := (p.registered.filter fun e => e.1 = asid).foldl (fun t e => tset t (viewKey asid e.2) p.lepoch.toNat) p.unregs
           views := p.views.filter fun e => e.1 / 2 ^ 20 != asid
           sweeps := p.sweeps.filter fun e => e.1 != asid }

/-- Places of a partition's accumulator slots in its eviction area: physical cluster, slot, address (R435, log 30). -/
def State.evictPlaces (s : State) (p : Nat) : List (Nat × Nat × Nat) :=
  (List.range (8 * s.partRegions p)).flatMap fun lc =>
    match s.physCluster p lc with
    | none => []
    | some c => (List.range 64).map fun k =>
        (c, k, bits (s.part p).pevictpa.toNat 51 20 * 2 ^ 20 + 0x900000 * (lc / 8) + 18432 * (64 * (lc % 8) + k))

/-- Offset in a slot's image at which the eviction area holds its ACCOWN: the image's own fields end there (R266, R435, log 30). -/
def accownOff : Nat := 0x4708

/-- R419, R435: the slots of an address space that a partition's eviction area holds come back clear: they are restored no
more. -/
def State.scrubEvicted (s : State) (p asid : Nat) : State :=
  let P := s.part p
  let places := s.evictPlaces p
  let owned := fun (e : Evicted) =>
    match places.find? fun x => x.1 = e.cluster && x.2.1 = e.slot with
    | none => false
    | some x => let w := Memory.num s.mem (x.2.2 + accownOff) 4
                pteBit w 12 && bits w 11 0 = asid
  s.setPart p { P with evicted := P.evicted.filter fun e => !owned e }

/-- The launches of a VF end with RESET, each with its packet and slot (R408). -/
def State.resetLaunches (s : State) (n : Nat) : State :=
  let s := ((s.launches.filter fun e => e.2.vf = n && e.2.phase.live).map (·.1)).foldl
    (fun s l => s.endLaunch l { status := stReset, detail := 0, pc := 0, blk := none }) s
  let mine := (s.launches.filter fun e => e.2.vf = n && e.2.phase != .done).map (·.1)
  let s := s.dropOps fun _ o => (((tfind s.launches o.launch).map (·.vf)) = some n) &&
    (match o.kind with | .child _ => false | _ => true)
  let s := { s with accs := s.accs.filter fun e =>
    match e.2.gone with
    | some (l, _) => ((tfind s.launches l).map (·.vf)) != some n
    | none => true }
  mine.reverse.foldl (fun s l =>
    match tfind s.launches l with
    | none => s
    | some L => s.complete l L stReset) s

/-- An FLR of a VF (R408, R419, R445). -/
def State.flr (s : State) (n : Nat) : State :=
  match tfind s.vfs n with
  | none => s
  | some v =>
    let s := (s.lanes.filter fun e => e.2.vf = n).foldl (fun (s : State) e => s.putHead v e.2.queue e.2.head) s
    let s := { s with
      lanes := s.lanes.filter fun e => e.2.vf != n, notified := s.notified.filter fun e => e.1 != n
      feOps := s.feOps.filter fun e => e.2.vf != n }
    let s := (s.resetLaunches n).scrubEvicted v.part v.asid
    let s := ((s.packets.filter fun e => e.2.vf = n).map (·.1)).foldl (fun s k => s.packetDone k stReset 0) s
    let s := { s with
      clusters := tmap s.clusters fun _ c => c.scrubAsid v.asid
      cores := tmap s.cores fun _ c => c.scrubAsid v.asid
      regions := tmap s.regions fun _ r => r.scrubAsid v.asid
      parts := tmod s.parts v.part fun p =>
        { p.scrubAsid v.asid with sliceVf := if p.sliceVf = some n then none else p.sliceVf } }
    let neg := s.hostNum (v.vcppa + 4) 4 / 2 % 2
    let s := { s with vfs := tmod s.vfs n fun (v : Vf) =>
      { v with ready := false, featAgreed := 0, dcs := [], parked := [], migReqs := [], mrqTail := v.mrqHead, inuse := 0,
               borrowed := 0, frozen := false, freezing := false, replaying := false, remote := [] } }
    (s.hostPut (v.vcppa + 4) (leBytes 4 (4 + 2 * neg))).hostPut (v.vcppa + 0x18) (leBytes 8 0)
      |>.hostPut (v.vcppa + 0x24) (leBytes 4 0)

/-- The key of a created VF. -/
def State.flrReady (s : State) (p vf : Nat) : Option Nat := (s.vfOf p vf).map (·.1)

/-- R420: an ACC_OWNER handler runs on behalf of a VF: the VF's FLR lets it finish, with the command BUSY (log 84). -/
def State.ownerHandling (s : State) (n : Nat) : Bool :=
  s.warps.any fun e => (e.2.supNow.map (·.cause)) = some cAccOwner && ((tfind s.blocks e.2.block).map s.blockVf) = some n

/-- A VFCMD command waits (R420). -/
def State.holdCmd (s : State) (p : Nat) : State := let P := s.part p; s.setPart p { P with vfcmdBusy := true }

/-- VF_FLR (R418-R420). -/
def execVfFlr (part vf : Nat) (s : State) : Out :=
  let P := s.part part
  let s := s.setPart part { P with vfcmdVf := vf }
  .next (
    match s.flrReady part vf with
    | none => s.endCmd part true
    | some n =>
      if s.recovery then s.endCmd part true
      else if s.ownerHandling n then s.holdCmd part
      else (s.flr n).endCmd part false)

/-- VF_DESTROY (R418): an FLR, and the ASID is free. -/
def execVfDestroy (part vf : Nat) (s : State) : Out :=
  let P := s.part part
  let s := s.setPart part { P with vfcmdVf := vf }
  .next (
    match s.flrReady part vf with
    | none => s.endCmd part true
    | some n =>
      if s.recovery then s.endCmd part true
      else if s.ownerHandling n then s.holdCmd part
      else
        let s := s.flr n
        { s with vfs := tdel s.vfs n, spoiled := s.spoiled.filter fun r => r.1 != n }.endCmd part false)

/-! ## Migration (R429-R432) -/

/-- A VFMIG command ends, with PF vector 1 (R438). -/
def State.endMig (s : State) (p : Nat) (f : Part → Part) : State :=
  let P := s.part p
  (s.setPart p { f P with vfmigBusy := false }).signal none 1

/-- The remote-wait entry of a parked queue, if it waits on a dependence counter (R430). -/
def State.remoteWait (s : State) (v : Vf) (q : Nat) : Option RemoteWait :=
  let r := s.ring v q
  let x := s.pktAt r r.head
  let dc := x.f 0x10 2
  if x.op = 1 && dc != 0xFFFF then some { queue := q, dc := dc, value := BitVec.ofNat 32 (x.f 0x14 4) } else none

/-- Blocks of a VF that have neither ended nor been saved. -/
def State.runningBlocks (s : State) (n : Nat) : List Nat :=
  (s.blocks.filter fun e => !e.2.ended && !e.2.saved && s.blockVf e.2 = n).map (·.1)

/-- MIG_FREEZE (R430 step 1). -/
def execMigFreeze (part vf : Nat) (s : State) : Out :=
  .next (
    match s.vfOf part vf with
    | none => s
    | some (n, v) =>
      if s.recovery || v.frozen || v.freezing then s
      else
        let P := s.part part
        let s := s.setPart part { P with vfmigBusy := true, vfmigVf := vf }
        let v := { v with freezing := true, remote := v.parked.filterMap (s.remoteWait v) }
        let s := { s with vfs := tset s.vfs n v }
        let s := ((s.lanes.filter fun e => e.2.vf = n).map (·.1)).foldl State.releaseLane s
        (s.runningBlocks n).foldl (fun s b => s.requestStop b .preempt) s)

/-- VF_FROZEN (R430): every block is saved. -/
def execVfFrozen (part : Nat) (s : State) : Out :=
  .next (
    match s.vfs.find? fun e => e.2.part = part && e.2.freezing with
    | none => s
    | some (n, v) =>
      if (s.runningBlocks n).isEmpty then
        { s with vfs := tset s.vfs n { v with freezing := false, frozen := true } }.endMig part id
      else s)

/-- The VF takes up its work again at its partition: its parked queues are notified (R401). -/
def State.unfreeze (s : State) (n : Nat) : State :=
  match tfind s.vfs n with
  | none => s
  | some v =>
    { s with
      vfs := tset s.vfs n { v with frozen := false, freezing := false, replaying := false, remote := [], parked := [] }
      notified := s.notified ++ (v.parked.filter fun q => !s.notified.contains (n, q)).map fun q => (n, q) }

/-- The bytes that a write, an atomic or a COPYX update leaves (R232, R254, R447). -/
def inReqAfter (rq : InReq) (old : List Byte) : List Byte :=
  if rq.kind = 0 then rq.data
  else if rq.kind = 1 then
    match atomicNew rq.op (BitVec.ofNat 32 (leNat (old.take 4))) (BitVec.ofNat 32 (leNat (rq.data.take 4)))
        (BitVec.ofNat 32 (leNat ((rq.data.drop 4).take 4))) with
    | some w => leBytes 4 w.toNat
    | none => old
  else
    let fmt := rq.op / 4 % 4
    redBytes fmt (rq.op % 4) (redSize fmt) (rq.data.length / redSize fmt) old rq.data

/-- The entry of a physical address at its owner's slices (R422), and where it is. -/
def State.homeEntry (s : State) (p region pa : Nat) : Place0 × Ent :=
  let h := homeOfPa s p region pa
  (h, (s.entry h).getD
    { set := h.set, xp := false, fill := 0, opn := false, stv := false, wr := true, asid := 15, tensor := 0,
      tile := h.tile, gen := 0, atag := pageTagOf s p pa, stamp := 0, fowc := 0, sdirty := 0, svalid := 0, data := [],
      grans := (List.range 256).map fun i => (pa / 4096 * 4096 + 16 * i, 32), used := 0 })

/-- An operation on bytes of one page of a partition's own memory, at their home slice. -/
def State.atHome (s : State) (p pa : Nat) (op : TOp) : State × List Byte :=
  match paRegion pa with
  | none => (s, [])
  | some r =>
    let x := s.homeEntry p r pa
    let s := if (s.entry x.1).isSome then s else s.makeRoom x.1 (2 * (s.part p).tccfg)
    performEntry s x.1 x.2 op false ((s.part p).tccfg != 0)

/-- Bytes that an inbound update writes: an atomic's word, or all its data. -/
def inSpan (rq : InReq) : Nat := if rq.kind = 1 then 4 else rq.data.length

/-- A parked or inbound update performed at its home slice (R422), with the bytes that were there. -/
def State.updateHome (s : State) (p : Nat) (rq : InReq) : State × List Byte :=
  let r := s.atHome p rq.pa (.read (rq.pa % 4096) (inSpan rq))
  let new := inReqAfter rq r.2
  ((r.1.atHome p rq.pa (.write (new.mapIdx fun i b => (rq.pa % 4096 + i, b)))).1, r.2)

/-- The parts of an update that lie in one page each. -/
def updateParts (rq : InReq) : List InReq :=
  (flatParts rq.pa (inSpan rq)).map fun x =>
    { rq with pa := 4096 * x.1 + x.2.1
              data := if rq.kind = 1 then rq.data else (rq.data.drop (4096 * x.1 + x.2.1 - rq.pa)).take x.2.2 }

/-- An update performed at its home slices, page by page, with the bytes that were there. -/
def updateAll (p : Nat) : List InReq → State → State × List Byte
  | [], s => (s, [])
  | x :: xs, s =>
    let r := s.updateHome p x
    let z := updateAll p xs r.1
    (z.1, r.2 ++ z.2)

/-- A parked request performed at an address, and whoever waits for it told. -/
def State.performAtHome (s : State) (p pa : Nat) (rq : InReq) : State :=
  let r := updateAll p (updateParts { rq with pa := pa }) s
  r.1.parkedDone p rq r.2

/-- Performs parked entries of a region's buffer in arrival order, each led to another address; the entry leaves the buffer
first. One that leads nowhere ends with error. -/
def replayEach (p r : Nat) (lead : Nat → Option Nat) : List InReq → State → State
  | [], s => s
  | rq :: rest, s =>
    let s := s.setRegion r { s.region r with parking := rest }
    replayEach p r lead rest (match lead rq.pa with
      | some pa => s.performAtHome p pa rq
      | none => s.parkedLost rq)

/-- Performs every parked entry of a region's buffer, led to another address. -/
def State.replayRegion (s : State) (p r : Nat) (lead : Nat → Option Nat) : State :=
  replayEach p r lead (s.region r).parking s

/-- Bytes that a destination outside the package answers with (R430). -/
def freeBytes (d n : Nat) : List Byte := (List.range n).map fun i => Config.freeByte (d + i)

/-- Parked entries of a region's buffer are performed at a destination outside the package: stores are done, and an atomic
returns what is there (R430, log 27). -/
def sendAway (p r : Nat) : List InReq → State → State
  | [], s => s
  | rq :: rest, s =>
    let s := s.setRegion r { s.region r with parking := rest }
    sendAway p r rest ({ s with draws := s.draws + 4 }.parkedDone p rq (freeBytes s.draws 4))

/-- R431: a migration is aborted: parked entries are performed at the source and the VF resumes there. -/
def State.abortMig (s : State) (p n : Nat) : State :=
  let s := (s.regionsOf p).foldl (fun s r => s.replayRegion p r some) s
  (s.unfreeze n).endMig p fun P => { P with vfmigAborted := true }

/-- The VF that migrates and holds a physical address (R430). -/
def State.frozenAt (s : State) (p pa : Nat) : Option Nat :=
  (s.vfs.find? fun e => e.2.part = p && (e.2.frozen || e.2.freezing) && (backWalk s.mem pa 4 0 e.2.ptroot 0).isSome).map (·.1)

/-- A gate parks a request for a VF that migrates; the 65th aborts the migration (R431). -/
def State.parkReq (s : State) (p n region : Nat) (rq : InReq) : State :=
  let R := s.region region
  if R.parking.length < 64 then s.setRegion region { R with parking := R.parking ++ [rq] }
  else (s.abortMig p n).performAtHome p rq.pa rq

/-- R431: a buffer that one step has filled beyond its 64 entries aborts the migration. -/
def State.overflowed (s : State) : State :=
  (s.regions.filter fun e => decide (64 < e.2.parking.length)).foldl (fun s e =>
    let p := (s.regionPart e.1).getD e.1
    match (e.2.parking.drop 64).findSome? fun rq => s.frozenAt p rq.pa with
    | some n => s.abortMig p n
    | none => s.replayRegion p e.1 some) s

/-- GATE_PARK (R430, R431): a gate of a frozen VF parks an inbound write, atomic or update; the 65th aborts. -/
def execGatePark (region : Nat) (rq : InReq) (s : State) : Out :=
  .next (
    match s.regionPart region with
    | none => s
    | some p =>
      match s.frozenAt p rq.pa with
      | none => s
      | some n => s.parkReq p n region rq)

/-- The frozen VF of this package whose VCP page a record names (log 27). -/
def State.migSource (s : State) (page : Nat) : Option (Nat × Vf) := s.vfs.find? fun e => e.2.frozen && e.2.vcppa = page

/-- The gates of a partition's regions hold inbound window traffic, or let it pass (R430). -/
def State.gatesHold (s : State) (p : Nat) (b : Bool) : State :=
  (s.regionsOf p).foldl (fun (s : State) r => s.setRegion r { s.region r with holding := b }) s

/-- MIG_RESUME (R430 step 3): the VF is created anew at the destination from its record; its gates hold. -/
def execMigResume (part vf : Nat) (s : State) : Out :=
  .next (
    let v := s.vfRecord part vf
    if s.recovery || (s.part part).pvfcount.toNat ≤ vf then s
    else if !paInside (s.recAddr part vf) 128 then s.machineFault part part
    else if !s.recordOk part vf ||
        !s.reserveOk part v || (s.vfOf part vf).isSome ||
        s.vfs.any (fun e => e.2.asid = v.asid && !(e.2.frozen && e.2.vcppa = v.vcppa)) then s
    else
      let v := match s.migSource v.vcppa with
        | none => { v with replaying := true }
        | some (_, o) =>
          { v with replaying := true, qslots := o.qslots, dccount := o.dccount, parked := o.parked, inuse := o.inuse, borrowed := o.borrowed, ready := o.ready, featAgreed := o.featAgreed,
                   dcs := o.dcs, mirror := o.mirror, mrqBase := o.mrqBase, mrqTail := o.mrqTail, mrqHead := o.mrqHead,
                   remote := o.remote }
      let s := { s with vfs := tset s.vfs (s.vfNumber part vf) v }
      let s := s.gatesHold part true
      let P := s.part part
      s.setPart part { P with vfmigBusy := true, vfmigVf := vf })

/-- Where the destination holds the byte that a source address held: the same virtual address (log 27). -/
def State.ledTo (s : State) (a b : Vf) (pa : Nat) : Option Nat :=
  match backWalk s.mem pa 4 0 a.ptroot 0 with
  | none => none
  | some va =>
    match walkFrom s.mem va 4 0 b.ptroot with
    | .leaf lv e => some (leafPa lv e va)
    | _ => none

/-- The VF at the destination of a migration. -/
def State.migDest (s : State) (a : Vf) : Option (Nat × Vf) := s.vfs.find? fun e => e.2.replaying && e.2.vcppa = a.vcppa

/-- R430 step 4: the parked entries of a VF's gates are sent to the destination in arrival order. -/
def State.replayTo (s : State) (part : Nat) (a : Vf) : State :=
  match s.migDest a with
  | none => (s.regionsOf part).foldl (fun (s : State) r => sendAway part r (s.region r).parking s) s
  | some (_, b) => (s.regionsOf part).foldl (fun s r => s.replayRegion b.part r (s.ledTo a b)) s

/-- MIG_REPLAY (R430 step 4): the source's parked entries are performed at the destination in arrival order. -/
def execMigReplay (part vf : Nat) (s : State) : Out :=
  .next (
    match s.vfOf part vf with
    | none => s
    | some (n, a) =>
      if !a.frozen then s
      else
        let s := s.replayTo part a
        let P := s.part part
        { s.setPart part { P with vfmigBusy := true, vfmigVf := vf } with
          vfs := tmod s.vfs n fun (v : Vf) => { v with freezing := true } })

/-- Entries of a table by address space and tensor, under another address space. -/
def rekeyed {α : Type} (a b : Nat) (t : Tab α) (into : Tab α) : Tab α :=
  (t.filter fun e => e.1 / 2 ^ 20 = a).foldl (fun u e => tset u (viewKey b (e.1 % 2 ^ 20)) e.2) into

/-- What a partition keeps of the tensors and work queues of address space a goes to another partition, under b (log 27). -/
def Part.takeTensors (P from_ : Part) (a b : Nat) : Part :=
  { P with wqs := (from_.wqs.filter fun e => e.2.asid = a && (tfind P.wqs e.1).isNone).foldl
             (fun t e => tset t e.1 { e.2 with asid := b }) P.wqs
           registered := P.registered ++ (from_.registered.filter fun e => e.1 = a).map fun e => (b, e.2)
           views := rekeyed a b from_.views P.views, unregs := rekeyed a b from_.unregs P.unregs }

/-- The launches and blocks of a migrated VF go on at the destination (R430). -/
def State.adopt (s : State) (n m p : Nat) (a b : Vf) : State :=
  let old := s.part a.part
  let s := { s with
    launches := tmap s.launches fun _ L => if L.vf = n then { L with vf := m, part := p } else L
    packets := tmap s.packets fun _ x => if x.vf = n then { x with vf := m } else x
    feOps := tmap s.feOps fun _ x => if x.vf = n then { x with vf := m } else x
    spoiled := s.spoiled.map fun (r : Nat × Nat) => if r.1 = n then (m, r.2) else r
    notified := s.notified.map fun (x : Nat × Nat) => if x.1 = n then (m, x.2) else x
    parts := tmap s.parts fun k P =>
      if k = p then P.takeTensors old a.asid b.asid
      else if k = a.part then P.scrubAsid a.asid else P
    vfs := tdel s.vfs n }
  s.unfreeze m

/-- REPLAY_DONE (R430): what was parked meanwhile is performed too, the destination gates open, and the VF's blocks wait to
resume there. -/
def execReplayDone (part : Nat) (s : State) : Out :=
  .next (
    match s.vfs.find? fun e => e.2.part = part && e.2.frozen && e.2.freezing with
    | none => s
    | some (n, a) =>
      let s := (s.replayTo part a).endMig part id
      match s.migDest a with
      | none => { s with vfs := tdel s.vfs n, spoiled := s.spoiled.filter fun r => r.1 != n }
      | some (m, b) =>
        let s := s.gatesHold b.part false
        (s.adopt n m b.part a b).endMig b.part id)

/-- MIG_ABORT (R431): before REPLAY, as an overflow does; after it, ignored. -/
def execMigAbort (part vf : Nat) (s : State) : Out :=
  .next (
    match s.vfOf part vf with
    | none => s
    | some (n, v) =>
      if (v.frozen && !v.freezing) || (v.freezing && !v.frozen) then s.abortMig part n else s)

end Sys2Proof.Machine
end

