-- ==== Sys2Proof/Machine/Parts.lean ====
section
/-! DEFINITION. Partitions and regions as the hypervisor changes them: shape and run (R413-R415), remap (R43-R45), table
updates (R321), the cache split (R345), policy (R335), region reset (R425, R426), windows (R421-R423) and ports (R446). -/

namespace Sys2Proof.Machine

/-! ## Shape and run (R413, R415, R426) -/

/-- R413: whether a shape may start at an id. -/
def shapeStarts (sh p : Nat) : Bool :=
  if sh = 1 then p < 24
  else if sh = 2 then p < 24 && p % 6 % 2 = 0
  else if sh = 3 then p < 24 && p % 3 = 0
  else if sh = 4 then p < 24 && p % 6 = 0
  else if sh = 5 then p = 0 || p = 12
  else if sh = 6 then p = 0
  else false

/-- R415: whether a shape change is accepted. A BROKEN partition may be reshaped or dissolved (R426, log 28). -/
def State.shapeOk (s : State) (p sh : Nat) : Bool :=
  let P := s.part p
  !P.busy && P.state != 2 &&
  (if sh = 0 then s.vfs.all fun e => e.2.part != p
   else shapeStarts sh p && (List.range (shapeRegions sh)).all fun i =>
     match s.regionPart (p + i) with
     | none => true
     | some q => q = p)

/-- A new hash key is drawn for a partition (R345, log 12). -/
def State.drawKey (s : State) (p : Nat) : State :=
  let P := s.part p
  { s.setPart p { P with tchashk := Config.hashKey s.draws } with draws := s.draws + 1 }

/-- An accepted SHAPE write: entries are written back and dropped, then the key is drawn. -/
def State.reshape (s : State) (p sh : Nat) : State :=
  let s := (List.range (shapeRegions sh)).foldl (fun s i => s.flushRegion (p + i) (fun _ => true) true false) s
  let P := s.part p
  let s := s.setPart p { P with shape := sh, state := if sh = 0 then 0 else 1, run := false, committed := false, unitTab := [] }
  if sh = 0 then s else s.drawKey p

/-- Blocks of a partition that have neither ended nor been saved. -/
def State.partBlocks (s : State) (p : Nat) : List Nat :=
  (s.blocks.filter fun e => !e.2.ended && !e.2.saved && ((tfind s.launches e.2.launch).map (·.part)) = some p).map (·.1)

/-- R415: whether RUN may be set. -/
def Part.runOk (P : Part) : Bool :=
  P.shape != 0 && P.committed && !P.prmapBusy && P.psupv.getLsbD 0 && P.lsavelen != 0 && (P.state = 1 || P.state = 2)

/-- A PCFG write is refused. -/
def State.pcfgRefuse (s : State) (p : Nat) : State := let P := s.part p; s.setPart p { P with err := true }

/-- A write of PCFG (R415, R461); PF vector 0 signals that PSTAT.FAULT clears (R438). -/
def State.pcfgWrite (s : State) (p : Nat) (w : Word) : State :=
  let P := s.part p
  let s := if w.getLsbD 31 then s.setPart p { P with err := false } else s
  let P := s.part p
  let sh := bits w.toNat 2 0
  let run := w.getLsbD 3
  if s.recovery then s.pcfgRefuse p
  else if sh != P.shape || (P.state = 3 && !run) then
    (if !run && s.shapeOk p sh then s.reshape p sh else s.pcfgRefuse p)
  else if run && !P.run then
    (if P.runOk then
      let t := s.setPart p { P with run := true, busy := false, state := 2, fault := false }
      if P.fault then t.signal none 0 else t
     else s.pcfgRefuse p)
  else if !run && P.run then
    let s := s.setPart p { P with run := false, busy := true }
    (s.partBlocks p).foldl (fun s b => s.requestStop b .preempt) s
  else s

/-- PARTITION_SHAPE (R415). -/
def execPartitionShape (part : Nat) (v : Word) (s : State) : Out := .next (s.pcfgWrite part v)

/-- PARTITION_RUN (R415): PCFG is written with RUN set and SHAPE as it stands. -/
def execPartitionRun (part : Nat) (s : State) : Out :=
  .next (s.pcfgWrite part (BitVec.ofNat 32 ((s.part part).shape + 8)))

/-- PARTITION_SUSPEND (R415): PCFG is written with RUN clear and SHAPE as it stands. -/
def execPartitionSuspend (part : Nat) (s : State) : Out :=
  .next (s.pcfgWrite part (BitVec.ofNat 32 (s.part part).shape))

/-- PARTITION_SUSPENDED (R415): every block is stopped, or its launch discarded. -/
def execPartitionSuspended (part : Nat) (s : State) : Out :=
  .next (
    let P := s.part part
    if P.busy && !P.run && (s.partBlocks part).isEmpty then s.setPart part { P with busy := false, state := 1 } else s)

/-! ## Remap (R43-R45) -/

/-- The entries of a partition's remap table. -/
def State.remapEntries (s : State) (p : Nat) : List Word :=
  (List.range (8 * s.partRegions p)).map fun i => tget 0 (s.part p).remap i

/-- R45: whether a commit is accepted; an entry may name a spare cluster, which a harvest has put in service (R9, log 59). -/
def State.remapOk (s : State) (p : Nat) : Bool :=
  let es := s.remapEntries p
  let cs := es.map fun w => bits w.toNat 7 0
  (s.part p).state = 1 && es.all (fun w => w.getLsbD 8) &&
    cs.all (fun c => c < 216 && s.inPart p (clusterRegion c)) && cs.eraseDups.length = cs.length

/-- REMAP_COMMIT (R45): PRMAPC.COMMIT. -/
def execRemapCommit (part : Nat) (s : State) : Out :=
  .next (
    let P := s.part part
    if s.remapOk part then
      s.setPart part { P with
        prmapBusy := true, committed := false
        unitTab := (s.remapEntries part).mapIdx fun i w => (i, bits w.toNat 7 0) }
    else s.setPart part { P with prmapErr := true })

/-- REMAP_COPY_DONE (R44): every per-unit table holds the new map. -/
def execRemapCopyDone (part : Nat) (s : State) : Out :=
  .next (
    let P := s.part part
    if P.prmapBusy then s.setPart part { P with prmapBusy := false, committed := true } else s)

/-! ## Table updates (R321) -/

/-- Whether a range of addresses meets another. -/
def meets (a n b m : Nat) : Bool := decide (a < b + m) && decide (b < a + n)

/-- R321: whether an entry's tile touches a virtual range. -/
def State.entTouches (s : State) (p start len : Nat) (e : Ent) : Bool :=
  if e.asid = 15 then false
  else if e.tensor < 32 then meets (e.tensor * 2 ^ 52 + e.tile * 4096) 4096 start len
  else
    match s.vfs.find? fun v => v.2.part = p && v.2.asid = e.asid with
    | none => false
    | some (_, v) =>
      let x : Tile := { asid := e.asid, t := some (readTensor s.mem (v.desc e.tensor) e.tensor), idx := e.tile }
      x.pages.any fun a => meets (a / 65536 * 65536) 65536 start len

/-- R321: the translations of a partition for a range go, and after a valid leaf its entries, dirty data written back; L1 and
cached lines of the range go with them (log 29). -/
def State.dropRange (s : State) (p start len : Nat) (leaf : Bool) : State :=
  let s := if leaf then s.flushPart p (s.entTouches p start len) true false else s
  let mine := fun (r : Nat) => s.inPart p r
  { s with
    regions := tmap s.regions fun r R =>
      if mine r then { R with tlb := R.tlb.filter fun t => !meets (t.page * levelBytes t.level) (levelBytes t.level) start len } else R
    clusters := tmap s.clusters fun c x =>
      if mine (clusterRegion c) then { x with l1 := x.l1.filter fun y => !meets y.addr 128 start len } else x
    cores := tmap s.cores fun c x =>
      if mine (coreRegion c) then
        { x with
          ccache := x.ccache.filter fun y => y.sup || !meets y.addr 64 start len
          icache := x.icache.filter fun y => y.sup || !meets y.addr 64 start len }
      else x }

/-- R321: whether an update is refused. -/
def Part.tuRefused (P : Part) : Bool :=
  P.tuBusy || (pteBit P.tuval.toNat 0 &&
    (0x1FF000000000000 ≤ P.tuva.toNat / 65536 * 65536 || !pteValid (bits P.tuva.toNat 1 0) P.tuval.toNat))

/-- TABLE_UPDATE (R321): TUCTL.GO. -/
def execTableUpdate (part : Nat) (s : State) : Out :=
  .next (
    let P := s.part part
    if P.tuRefused then s.setPart part { P with tuErr := true }
    else if !paInside P.tupa.toNat 8 then s.machineFault part part
    else
      let level := bits P.tuva.toNat 1 0
      let len := levelBytes level
      let old := Memory.num s.mem P.tupa.toNat 8
      { s with mem := Memory.writeN s.mem P.tupa.toNat (leBytes 8 P.tuval.toNat) }.setPart part
        { P with tuBusy := true, tuRange := (P.tuva.toNat / 65536 * 65536 / len * len, len),
                 tuLeaf := pteValid level old && pteBit old 1 })

/-- TABLE_UPDATE_DONE (R321). -/
def execTableUpdateDone (part : Nat) (s : State) : Out :=
  .next (
    let P := s.part part
    if P.tuBusy then
      let s := s.dropRange part P.tuRange.1 P.tuRange.2 P.tuLeaf
      s.setPart part { s.part part with tuBusy := false, tuRange := (0, 0), tuLeaf := false }
    else s)

/-! ## Cache split and policy (R335, R345) -/

/-- TCCFG_WRITE (R345): refused unless the partition is SUSPENDED (R415). -/
def execTccfgWrite (part : Nat) (v : Word) (s : State) : Out :=
  .next (
    let P := s.part part
    let s := if v.getLsbD 31 then s.setPart part { P with tccfgErr := false } else s
    let P := s.part part
    let n := bits v.toNat 3 0
    if P.state != 1 || 8 < n then s.setPart part { P with tccfgErr := true }
    else
      let s := s.flushPart part (fun _ => true) true false
      let s := (s.regionsOf part).foldl (fun (s : State) r =>
        { s.setRegion r { s.region r with rsp := [], rspDraw := some s.draws } with draws := s.draws + 1 }) s
      s.setPart part { s.part part with tccfg := n })

/-- POLBASE_WRITE (R335): every cached policy line, and what an L1 holds under the old policy, goes. -/
def execPolbaseWrite (part : Nat) (v : Word) (s : State) : Out :=
  .next (
    let P := s.part part
    let s := s.setPart part { P with polbase := v, polLines := [] }
    { s with clusters := tmap s.clusters fun c x => if s.inPart part (clusterRegion c) then { x with l1 := [] } else x })

/-! ## Region reset (R425, R426) -/

/-- R425 step 4: the clusters, slices, scratchpad and HBM of a region are scrubbed; it runs again, SLOW while its die is too
hot (R4, R424, R457). -/
def State.scrub (s : State) (r : Nat) : State :=
  let R := s.region r
  let s := s.setPower r { Region.reset with
    pwr := if R.hot then 1 else 0, fault := R.fault, gate := R.gate, resetting := R.resetting, wins := R.wins, hot := R.hot
    railOff := R.railOff }
  { s with
    mem := Memory.zeroN s.mem (r * 0x800000000) hbmBytes
    clusters := s.clusters.filter fun e => clusterRegion e.1 != r
    cores := s.cores.filter fun e => coreRegion e.1 != r }

/-- Every launch of a partition ends with a status, its engine operations with it. -/
def State.endWork (s : State) (p status : Nat) : State :=
  let s := s.endPart p status
  let mine := fun (l : Nat) => ((tfind s.launches l).map (·.part)) = some p
  let s := s.dropOps fun _ o => mine o.launch && (match o.kind with | .child _ => false | _ => true)
  { s with accs := s.accs.filter fun e => match e.2.gone with | some (l, _) => !mine l | none => true }

/-- R425 step 2: the requests that a region's gate has parked end with error. -/
def State.dropParked (s : State) (r : Nat) : State :=
  let R := s.region r
  R.parking.foldl State.parkedLost (s.setRegion r { R with parking := [] })

/-- REGION_RESET (R425 steps 1-4, R426): RCTL.RESET; ignored while a reset goes on. -/
def execRegionReset (region : Nat) (s : State) : Out :=
  .next (
    let R := s.region region
    if R.resetting then s
    else
      let s := (s.setRegion region { R with gate := false, resetting := true }).dropParked region
      match s.regionPart region with
      | none => s.scrub region
      | some p =>
        let s := s.endWork p stReset
        let P := s.part p
        let s := s.setPart p { P with run := false, busy := false, state := if s.partRegions p = 1 then 1 else 3 }
        (s.scrub region).drawKey p)

/-- REGION_RESET_DONE (R425 step 5): windows cleared, gate open, FAULT and BUSY clear. -/
def execRegionResetDone (region : Nat) (s : State) : Out :=
  .next (
    let R := s.region region
    if R.resetting then
      let s := s.setRegion region { R with resetting := false, wins := [], gate := true, fault := false }
      if R.fault then s.signal none 0 else s
    else s)

/-! ## Windows (R421, R423) -/

/-- The entry with the word at offset 0x10 of a write. -/
def Win.withCtl (x : Win) (v : Word) : Win :=
  { x with borrower := bits v.toNat 7 3, w := v.getLsbD 1, valid := v.getLsbD 0 }

/-- R421: whether an entry may be in force: its range lies in the region and its borrower is a partition in use. -/
def State.winOk (s : State) (region : Nat) (x : Win) : Bool :=
  1 ≤ x.len && region * 0x800000000 ≤ x.base && x.base + x.len * 65536 ≤ region * 0x800000000 + hbmBytes &&
    x.borrower < 24 && (s.part x.borrower).shape != 0

/-- Replaces a window entry. -/
def State.setWin (s : State) (region win : Nat) (x : Win) : State :=
  let R := s.region region
  s.setRegion region { R with wins := tset R.wins win x }

/-- Writes the word at offset 0x10 of a window entry: it opens, changes or starts to close the window. A page of an open window
has one entry, homed by its physical address (R422). -/
def State.winWrite (s : State) (region win : Nat) (v : Word) : State :=
  let x := tget Win.reset (s.region region).wins win
  let y := x.withCtl v
  if y.valid then
    if s.winOk region y then
      (s.setWin region win { y with closing := false }).shareRange ((s.regionPart region).getD region) y.base (y.len * 65536)
    else s
  else s.setWin region win { y with closing := x.closing || x.valid }

/-- WINDOW_OPEN (R421). -/
def execWindowOpen (region win : Nat) (v : Word) (s : State) : Out :=
  .next (if win < 16 && v.getLsbD 0 then s.winWrite region win v else s)

/-- WINDOW_CLOSE (R423): VALID is cleared. -/
def execWindowClose (region win : Nat) (s : State) : Out :=
  .next (
    let x := tget Win.reset (s.region region).wins win
    if win < 16 && x.valid then s.setWin region win { x with valid := false, closing := true } else s)

/-- WINDOW_CLOSE_DONE (R423): every admitted request is performed; requests are performed at once when they pass. -/
def execWindowCloseDone (region win : Nat) (s : State) : Out :=
  .next (
    let x := tget Win.reset (s.region region).wins win
    if win < 16 && x.closing then s.setWin region win { x with closing := false } else s)

/-! ## Ports (R446) -/

/-- The partition of a port's owner. -/
def State.portPart (s : State) (mode : Bool) (owner : Nat) : Option Nat := if mode then some owner else s.regionPart owner

/-- Whether the owner of a port runs nothing. -/
def State.ownerIdle (s : State) (valid mode : Bool) (owner : Nat) : Bool :=
  !valid || (match s.portPart mode owner with | none => true | some p => (s.part p).state ≤ 1)

/-- PORT_ASSIGN (R446): a write of PORTCFG. -/
def execPortAssign (port : Nat) (v : Word) (s : State) : Out :=
  .next (
    let P := s.port port
    let s := if v.getLsbD 31 then s.setPort port { P with err := false } else s
    let P := s.port port
    let valid := v.getLsbD 7
    let mode := v.getLsbD 6
    let owner := bits v.toNat 4 0
    if valid = P.valid && mode = P.mode && owner = P.owner then s
    else if s.ownerIdle P.valid P.mode P.owner && s.ownerIdle valid mode owner then
      s.setPort port { P with valid := valid, mode := mode, owner := owner }
    else s.setPort port { P with err := true })

end Sys2Proof.Machine
end

