-- ==== Sys2Proof/Machine/Fabric.lean ====
section
/-! DEFINITION. Fabric ports: links (R446, R454), inbound flits (R447-R451), responses, and fence tokens (R453). -/

namespace Sys2Proof.Machine

/-! ## Inbound requests (R449, R450) -/

/-- The 52-bit address of a flit. -/
def flitAddr (f : Flit) : Nat := bits f.pa.toNat 51 0

/-- What an inbound request meets at its port. -/
inductive Inbound where
  /-- It goes on to the owner's partition. -/
  | go (p region : Nat)
  /-- It is answered with this STATUS. -/
  | bad (status : Nat)
  deriving DecidableEq, Repr

/-- R446, R449: the inbound window of a port that lets a request of n bytes through; the owner's gate must be open. -/
def State.inbound (s : State) (port : Nat) (f : Flit) (n : Nat) (write : Bool) : Inbound :=
  let P := s.port port
  let pa := (flitAddr f)
  let hits := P.iwin.filter fun e =>
    e.2.valid && e.2.dev = f.srcDev.toNat && e.2.spart = f.spart.toNat && e.2.base ≤ pa && pa + n ≤ e.2.base + e.2.len * 65536
  match s.portPart P.mode P.owner, paRegion pa with
  | some p, some r =>
    let mine := if P.mode then s.inPart p r else r = P.owner
    if hits.isEmpty || !mine || !paInside pa n || !(s.region r).gate || (s.part p).fault then .bad 0x52
    else if write && !(hits.any fun e => e.2.w) then .bad 0x53
    else .go p r
  | _, _ => .bad 0x52

/-- The requester of an inbound flit, for the access-tag check and its event (R450): PC and LAUNCH zero. -/
def inReqOf (p : Nat) (f : Flit) : Req :=
  { part := p, asid := 15, root := 0, frm := none, princ := f.princ, exempt := false, rights := false,
    engine := f.kind = fkReduce, floor := 0, pc := 0, launchId := 0, place := 0 }

/-- The port takes flits: assigned, and its link trained. -/
def State.portOpen (s : State) (port : Nat) : Bool := port < 36 && (s.port port).valid && (s.port port).up

/-- A flit that this port takes: it is open, and LEN is one of R447's (log 97). -/
def State.takes (s : State) (port : Nat) (f : Flit) (kind : BitVec 8) : Bool := f.kind = kind && s.portOpen port && f.len.toNat ≤ 14

/-- The pages of 4 KiB that n bytes from an address touch: the address and the number of bytes in each. -/
def pageSpans (pa n : Nat) : List (Nat × Nat) := (flatParts pa n).map fun x => (4096 * x.1 + x.2.1, x.2.2)

/-- The tag check of an inbound request at one page (R450), with its event where it is denied: the tag, and whether the request
may go on. -/
def State.inCheck (s : State) (p : Nat) (f : Flit) (reads writes : Bool) (pa : Nat) : State × Nat × Bool :=
  let x := s.homeEntry p ((paRegion pa).getD 0) pa
  let tag := x.2.atag
  let q := inReqOf p f
  if (!reads || policyAllows s p q tag false) && (!writes || policyAllows s p q tag true) then (s, tag, true)
  else (s.event p q x.1 tag writes, tag, false)

/-- Bytes of a partition's own memory read at their home slices, page by page, with the tag that decided: the first that denied,
or the first. A denied page gives zeros (R450). -/
def homeRead (p : Nat) (f : Flit) : List (Nat × Nat) → State → State × List Byte × List (Nat × Bool)
  | [], s => (s, [], [])
  | (pa, n) :: xs, s =>
    let c := s.inCheck p f true false pa
    let y := if c.2.2 then c.1.atHome p pa (.read (pa % 4096) n) else (c.1, List.replicate n 0)
    let z := homeRead p f xs y.1
    (z.1, y.2 ++ z.2.1, (c.2.1, c.2.2) :: z.2.2)

/-- The tag that decided an access, of those that its pages met (R447). -/
def decidingTag (xs : List (Nat × Bool)) : Nat := (((xs.find? fun x => !x.2).or xs.head?).map (·.1)).getD 0

/-- The RESPONSE to an inbound flit. -/
def State.answerFlit (s : State) (port part : Nat) (f : Flit) (status tag : Nat) (data : List Byte) : State :=
  s.respond port part f.princ (flitAddr f) f.seq.toNat status tag data

/-- READ_FLIT (R449, R450): what a denied page holds is answered with zeros. -/
def execReadFlit (port : Nat) (f : Flit) (s : State) : Out :=
  .next (
    let n := 16 * f.len.toNat
    if !s.takes port f fkRead then s
    else
      match s.inbound port f n false with
      | .bad st => s.answerFlit port 0 f st 0 (List.replicate n 0)
      | .go p r =>
        if (s.region r).holding then s
        else
          let z := homeRead p f (pageSpans (flitAddr f) n) (s.wakeRegion r)
          z.1.answerFlit port p f 0 (decidingTag z.2.2) z.2.1)

/-- The parts of an update that their tags let through are performed, one page after another; the tags met, and the bytes that
were there. -/
def checkedUpdate (p : Nat) (f : Flit) : List InReq → State → State × List Byte × List (Nat × Bool)
  | [], s => (s, [], [])
  | x :: xs, s =>
    let c := s.inCheck p f (x.kind = 1) true x.pa
    let y := if c.2.2 then c.1.updateHome p x else (c.1, [])
    let z := checkedUpdate p f xs y.1
    (z.1, y.2 ++ z.2.1, (c.2.1, c.2.2) :: z.2.2)

/-- An inbound update that was admitted: parked for a VF that migrates (R430), or performed where its tags let it; a denied one
is answered with STATUS 0x06 (R450). -/
def State.inUpdate (s : State) (port : Nat) (f : Flit) (p r : Nat) (rq : InReq) : State :=
  let atomic := rq.kind = 1
  let dev := f.srcDev.toNat
  let part := f.spart.toNat
  let seq := f.seq.toNat
  match (updateParts rq).findSome? fun x => s.frozenAt p x.pa with
  | some n =>
    let checks := (updateParts rq).map fun x => s.inCheck p f atomic true x.pa
    match checks.find? fun c => !c.2.2 with
    | some c => (c.1.answerFlit port p f 0x06 c.2.1 []).storePerformed dev part seq
    | none =>
      let s := s.parkReq p n r { rq with src := srcKey port dev part seq f.princ }
      if atomic then s else s.answerFlit port p f 0 (decidingTag (checks.map (·.2))) []
  | none =>
    let z := checkedUpdate p f (updateParts rq) s
    let denied := z.2.2.any fun x => !x.2
    (z.1.answerFlit port p f (if denied then 0x06 else 0) (decidingTag z.2.2)
      (if atomic && !denied then wordGranule z.2.1 else [])).storePerformed dev part seq

/-- WRITE, ATOMIC and REDUCE flits: ok says that the flit's OP is one of its kind. The port and the die router count the store
(R452), and it is performed or refused. -/
def updateFlit (kind : BitVec 8) (rk : Nat) (ok : Flit → Bool) (port : Nat) (f : Flit) (s : State) : Out :=
  .next (
    let rq : InReq := { kind := rk, op := f.op.toNat, pa := flitAddr f, src := 0
                        data := if rk = 1 then f.data.take 4 else f.data.take (16 * f.len.toNat) }
    let came := fun (s : State) => s.storeArrived f.srcDev.toNat f.spart.toNat f.seq.toNat
    let refuse := fun (s : State) (st : Nat) =>
      (s.answerFlit port 0 f st 0 []).storePerformed f.srcDev.toNat f.spart.toNat f.seq.toNat
    if !s.takes port f kind then s
    else
      match s.inbound port f (inSpan rq) true with
      | .bad st => refuse (came s) st
      | .go p r =>
        if (s.region r).holding then s
        else if ok f then ((came s).wakeRegion r).inUpdate port f p r rq else refuse (came s) 0x05)

/-- WRITE_FLIT (R449, R450). -/
def execWriteFlit (port : Nat) (f : Flit) (s : State) : Out := updateFlit fkWrite 0 (fun _ => true) port f s

/-- ATOMIC_FLIT (R451): no compare-and-swap crosses devices. An operation that cannot be performed is answered with STATUS 0x05
(DESIGN CHOICE, log 91). -/
def execAtomicFlit (port : Nat) (f : Flit) (s : State) : Out :=
  updateFlit fkAtomic 1 (fun f => f.op.toNat ≤ 8 && f.op != 7 && (flitAddr f) % 4 = 0) port f s

/-- REDUCE_FLIT (R451, R254): FP32, BF16 or FP16; another is answered with STATUS 0x05 (DESIGN CHOICE, log 91). -/
def execReduceFlit (port : Nat) (f : Flit) (s : State) : Out :=
  updateFlit fkReduce 2 (fun f => f.op.toNat < 12 && f.op.toNat % 4 != 0 && (flitAddr f) % 16 = 0) port f s

/-- UNDEFINED_FLIT (R447): dropped, without a response. -/
def execUndefinedFlit (_port : Nat) (_f : Flit) (s : State) : Out := .next s

/-! ## Responses to this device's requests (R447, R448, R454) -/

/-- The oldest request that a response answers. -/
def State.answered (s : State) (port : Nat) (f : Flit) : Option (Nat × OutReq) :=
  s.outReqs.find? fun e => e.2.port = port && e.2.hold.isEmpty && bits e.2.flit.pa.toNat 51 0 = (flitAddr f) && e.2.flit.seq = f.seq

/-- RESPONSE_FLIT (R447, R448): the request is answered, and a window that closes may be done with it. -/
def execResponseFlit (port : Nat) (f : Flit) (s : State) : Out :=
  .next (
    if !s.takes port f fkResponse then s
    else
      match s.answered port f with
      | none => s
      | some (k, r) =>
        let st := f.status.toNat
        let off := if r.kind = 0 && r.flit.kind = fkRead then s.laneOff r.ref (r.sub % 32) else 0
        let res := leNat ((f.data.drop off).take (s.laneSize r.ref))
        ({ s with outReqs := tdel s.outReqs k }.answer { kind := r.kind, ref := r.ref, sub := r.sub }
          (if r.flit.kind = fkWrite then none else some res) (if r.flit.kind = fkRead then f.data else [])
          (if st = 0 then none else some (statusCause st))).settleWins port)

/-! ## Tokens (R453) -/

/-- FENCE_FLIT (R453): the token is held until the path's stores up to FCOUNT have been forwarded and performed. -/
def execFenceFlit (port : Nat) (f : Flit) (s : State) : Out :=
  .next (
    if !s.takes port f fkFence then s
    else
      let x := s.inPath f.srcDev.toNat f.spart.toNat
      if x.covers f.fcount.toNat then s.sendAck port f else s.setInPath { x with held := x.held ++ [(port, f)] })

/-- A held release whose tokens have all returned leaves (R453 step 4). -/
def State.releaseGo (s : State) (dev part : Nat) : State :=
  let freed : OutReq → OutReq := fun r => if r.part = part then { r with hold := r.hold.filter (· != dev) } else r
  let go := s.outReqs.filter fun e => !e.2.hold.isEmpty && (freed e.2).hold.isEmpty
  let s := { s with outReqs := tmap s.outReqs fun _ r => freed r }
  go.foldl (fun s e => s.dispatchOut e.1 e.2 e.2.dev) s

/-- FENCEACK_FLIT (R453). -/
def execFenceackFlit (port : Nat) (f : Flit) (s : State) : Out :=
  .next (
    let dev := f.srcDev.toNat
    let part := f.spart.toNat
    if !s.takes port f fkFenceAck then s
    else
      match s.paths.find? fun x => x.part = part && x.dev = dev && x.port = port with
      | none => s
      | some x =>
        if !seqReached f.fcount.toNat x.acked || !seqReached x.token f.fcount.toNat then s
        else
          let x := { x with acked := f.fcount.toNat }
          let s := s.setPath x
          if x.acked = x.token then s.releaseGo dev part else s)

/-! ## Links (R446, R454) -/

/-- PORT_LINK_UP (R446): the link is trained and the peer known. -/
def execPortLinkUp (port peer : Nat) (s : State) : Out :=
  .next (
    let P := s.port port
    if port < 36 && !P.up then s.setPort port { P with up := true, known := true, peer := peer % 4096 } else s)

/-- A request that ends with error as its port's link goes (R454): PROT 0x54, or STATUS 0x05. -/
def State.failOut (s : State) (k : Nat) (r : OutReq) : State :=
  { s with outReqs := tdel s.outReqs k }.answer { kind := r.kind, ref := r.ref, sub := r.sub } none [] (some (cProt, 0x54))

/-- Whether a request carries a release whose scope reaches other dies or devices: an access's, or the front end's SIGNAL that
is held. -/
def State.isRelease (s : State) (r : OutReq) : Bool :=
  if r.kind = 0 then ((tfind s.accs r.ref).map fun a => s.farRelease r.part a.kind).getD false
  else r.kind = 3 && !r.hold.isEmpty

/-- Bit p of a port's BLK set for each partition of a list. -/
def blkWith (b : BitVec 24) (ps : List Nat) : BitVec 24 := ps.foldl (fun b p => b ||| (1#24 <<< p)) b

/-- A part of an access that has not been performed. -/
def Sub.pends (x : Sub) : Bool := x.st = .waiting || x.st = .walking || x.st = .filling

/-- A release to this device's memory that waits for a token of a path that is lost is discarded (R454). -/
def State.dropHeld (s : State) (ps : List Nat) : State × List Nat :=
  let part := fun (a : Access) => (s.accReq a).part
  let mine := s.accs.filter fun e => ps.contains (part e.2) && s.farRelease (part e.2) e.2.kind && e.2.subs.any Sub.pends
  let fail1 := fun (x : Sub) => if x.pends then { x with st := .done, fail := some (cProt, 0x54) } else x
  (mine.foldl (fun (s : State) (e : Nat × Access) =>
    { s with accs := tmod s.accs e.1 fun (a : Access) => { a with subs := a.subs.map fail1 } }.settleStore e.1) s,
   mine.map fun e => part e.2)

/-- Partitions whose front end holds a SIGNAL for a token of a path that is lost (R453, R454). -/
def State.heldSignals (s : State) (ps : List Nat) : List Nat :=
  (s.feOps.filterMap fun e => if e.2.got = some [] && !e.2.writing then (tfind s.vfs e.2.vf).map (·.part) else none).filter
    ps.contains

/-- Stores of a path that have left through its port and have no answer yet. -/
def State.inFlight (s : State) (x : FabPath) : Bool :=
  s.outReqs.any fun e => e.2.port = x.port && e.2.part = x.part && e.2.dev = x.dev && e.2.flit.kind != fkRead && e.2.hold.isEmpty

/-- PORT_LINK_DOWN (R454): requests in flight on the port and releases held for its tokens end with error; partitions that
lost a release are blocked there, and one that lost stores will lose its next release. -/
def execPortLinkDown (port : Nat) (s : State) : Out :=
  .next (
    let P := s.port port
    if !(port < 36 && P.up) then s
    else
      let lost := (s.paths.filter fun x => x.port = port && x.token != x.acked).map fun x => (x.part, x.dev)
      let flying := (s.paths.filter fun x => x.port = port && s.inFlight x).map fun x => (x.part, x.dev)
      let gone := s.outReqs.filter fun e =>
        e.2.port = port || e.2.hold.any fun d => lost.contains (e.2.part, d)
      let rel := (gone.filter fun e => s.isRelease e.2).map fun e => e.2.part
      let held := s.heldSignals (lost.map (·.1))
      let s := s.setPort port { P with up := false }
      let s := gone.foldl (fun s e => s.failOut e.1 e.2) s
      let r := s.dropHeld (lost.map (·.1))
      let mark := fun (x : FabPath) =>
        if x.port = port then
          { x with acked := x.token, lost := x.lost || lost.contains (x.part, x.dev) || flying.contains (x.part, x.dev) }
        else x
      let s := { r.1 with paths := r.1.paths.map mark }
      (s.setPort port { s.port port with blk := blkWith P.blk (rel ++ held ++ r.2) }).settleWins port)

end Sys2Proof.Machine
end

