-- ==== Sys2Proof/Machine/Sfu.lean ====
section
/-! DEFINITION. The special functions (R134, R135): special inputs, exact cases and the bound within which a result is
free (R35, log 5). A magnitude at scale 320 is a whole number of 2^-320. -/

namespace Sys2Proof.Machine

/-! ## Fixed-point work -/

/-- The scale of the approximations. -/
def sfuQ : Nat := 320

/-- Bits n - 1 to 0 of an integer square root, above r. -/
def isqrtFrom (v : Nat) : Nat → Nat → Nat
  | 0, r => r
  | n + 1, r => isqrtFrom v n (if (r + 2 ^ n) * (r + 2 ^ n) ≤ v then r + 2 ^ n else r)

/-- Integer square root of a number below 2^1024. -/
def isqrt (v : Nat) : Nat := isqrtFrom v 512 0

/-- ln 2 at scale 160. -/
def ln2At : Nat := 0xb17217f7d1cf79abc9e3b39803f2f6af40f34326
/-- log2 e at scale 160. -/
def log2eAt : Nat := 0x171547652b82fe1777d0ffda0d23a7d11d6aef551
/-- 2 pi at scale 200. -/
def twoPiAt : Nat := 0x6487ed5110b4611a62633145c06e0e68948127044533e63a010

/-- The terms of the exponential series at scale 160, from the k-th on. -/
def expSum (t : Nat) : Nat → Nat → Nat → Nat
  | 0, _, _ => 0
  | n + 1, k, term => term + expSum t n (k + 1) (term * t / (2 ^ 160 * (k + 1)))

/-- 2^f for a fraction f, both at scale 160. -/
def exp2Frac (f : Nat) : Nat := expSum (f * ln2At / 2 ^ 160) 60 0 (2 ^ 160)

/-- Fraction bits of a binary logarithm: M at scale 160, from 1 to below 2. -/
def log2Bits : Nat → Nat → Nat
  | 0, _ => 0
  | n + 1, M =>
    let s := M * M / 2 ^ 160
    if 2 ^ 161 ≤ s then 2 ^ n + log2Bits n (s / 2) else log2Bits n s

/-- The alternating series of sine and cosine at scale 200, from the term of degree k on. -/
def trigSum (r : Nat) : Nat → Nat → Int → Int
  | 0, _, _ => 0
  | n + 1, k, term =>
    term + trigSum r n (k + 2) (-(term * (r : Int) / (2 ^ 200 : Nat) * (r : Int) / ((2 ^ 200 * ((k + 1) * (k + 2)) : Nat) : Int)))

/-- A signed number at a scale below 320, as sign and magnitude at scale 320. -/
def toQ (v : Int) (scale : Nat) : Bool × Nat := (v < 0, v.natAbs * 2 ^ (sfuQ - scale))

/-! ## The functions, far beyond FP32 precision -/

/-- Approximation of function fn at (-1)^neg * m * 2^e, m not zero, whose result exists. -/
def sfuNear (fn : Nat) (neg : Bool) (m : Nat) (e : Int) : Bool × Nat :=
  if fn = 0 then (neg, 2 ^ ((sfuQ : Int) - e).toNat / m)
  else if fn = 1 then (false, isqrt (2 ^ (2 * (sfuQ : Int) - e).toNat / m))
  else if fn = 2 then (false, isqrt (m * 2 ^ (2 * (sfuQ : Int) + e).toNat))
  else if fn = 3 then
    let x : Int := (m * 2 ^ (e + 160).toNat : Nat)
    let x := if neg then -x else x
    let n := x / (2 ^ 160 : Nat)
    (false, exp2Frac (x % (2 ^ 160 : Nat)).toNat * 2 ^ (160 + n).toNat)
  else if fn = 4 then
    let k := Nat.log2 m
    toQ ((e + (k : Nat)) * (2 ^ 160 : Nat) + (log2Bits 120 (m * 2 ^ 160 / 2 ^ k) * 2 ^ 40 : Nat)) 160
  else if fn = 5 then
    let r := m * 2 ^ (e + 200).toNat % twoPiAt
    let y := trigSum r 70 1 r
    toQ (if neg then -y else y) 200
  else if fn = 6 then
    toQ (trigSum (m * 2 ^ (e + 200).toNat % twoPiAt) 70 0 (2 ^ 200 : Nat)) 200
  else
    let x := m * 2 ^ (e + 160).toNat
    let y := 2 * x * log2eAt / 2 ^ 160
    let n := y / 2 ^ 160
    let ex := if 150 ≤ n then 0 else exp2Frac (2 ^ 160 - y % 2 ^ 160 - 1) / 2 ^ (n + 1)
    (neg, (2 ^ 160 - ex) * 2 ^ sfuQ / (2 ^ 160 + ex))

/-- A ulp of FP32 at a magnitude (R135). -/
def ulpAt (a : Nat) : Nat := 2 ^ max (sfuQ - 149) (Nat.log2 a - 23)

/-- How far an approximation of function fn, a in magnitude, may lie from the exact result. -/
def sfuSlack (fn a : Nat) : Nat :=
  if fn = 3 then a / 2 ^ 130 + 1 else if fn = 4 then 2 ^ (sfuQ - 115) else if fn = 7 then 2 ^ (sfuQ - 130)
  else 2 ^ (sfuQ - 170)

/-- The bound of R135 for the FP32 result v, in magnitude; the exact result is near a, and the operand m * 2^e. FLOG2's bound
switches where the exact result does (DEDUCED, log 5). -/
def sfuBound (fn v a m : Nat) (e : Int) : Nat :=
  if fn = 3 then 2 * ulpAt v
  else if fn = 4 then (if 2 ^ (sfuQ - 3) ≤ a then 2 * ulpAt v else 2 ^ (sfuQ - 24))
  else if fn = 5 || fn = 6 then 2 ^ (sfuQ - 21)
  else if 2 ^ (sfuQ - 4) ≤ m * 2 ^ ((sfuQ : Int) + e).toNat then 2 * ulpAt v
  else 2 ^ (sfuQ - 26)

/-- A finite FP32 number at scale 320. -/
def finQ (neg : Bool) (m : Nat) (e : Int) : Int :=
  let a : Int := (m * 2 ^ ((sfuQ : Int) + e).toNat : Nat)
  if neg then -a else a

/-- R135: the FP32 result v, at scale 320, keeps the bound of function fn at (-1)^neg * m * 2^e. Reciprocals and reciprocal
roots are compared exactly; of the others, whose exact results are irrational, an approximation counts with its slack. -/
def sfuWithin (fn : Nat) (v : Int) (neg : Bool) (m : Nat) (e : Int) : Bool :=
  let x := finQ neg m e
  let u : Int := ulpAt v.natAbs
  if fn = 0 then decide ((v * x - 2 ^ (2 * sfuQ)).natAbs ≤ (u * x).natAbs)
  else if fn = 1 then
    (decide (v ≤ 2 * u) || decide ((v - 2 * u) * (v - 2 * u) * x ≤ 2 ^ (3 * sfuQ))) &&
      decide (0 ≤ v + 2 * u) && decide (2 ^ (3 * sfuQ) ≤ (v + 2 * u) * (v + 2 * u) * x)
  else
    let a := sfuNear fn neg m e
    decide ((v - (if a.1 then -(a.2 : Int) else a.2)).natAbs + sfuSlack fn a.2 ≤ sfuBound fn v.natAbs a.2 m e)

/-! ## Results (R135) -/

/-- 1.0 in FP32. -/
def one32 : Word := 0x3F800000

/-- Whether |m * 2^e| exceeds 65 536. -/
def beyond (m : Nat) (e : Int) : Bool := decide (2 ^ (sfuQ + 16) < m * 2 ^ ((sfuQ : Int) + e).toNat)

/-- The number x as a whole number, if it is one of magnitude at most 2^8. -/
def wholeOf (neg : Bool) (m : Nat) (e : Int) : Option Int :=
  let a := m * 2 ^ (e + 149).toNat
  if a % 2 ^ 149 = 0 && a ≤ 2 ^ 157 then some (if neg then -((a / 2 ^ 149 : Nat) : Int) else (a / 2 ^ 149 : Nat)) else none

/-- Results that R135 fixes: special inputs and exact cases. -/
def sfuExact (fn : Nat) : Fp → Option Word
  | .nan => some (BitVec.ofNat 32 nan32)
  | .inf neg =>
    if fn = 0 then some (to32 (.fin neg 0 0))
    else if fn = 1 then some (to32 (if neg then .nan else .fin false 0 0))
    else if fn = 2 || fn = 4 then some (to32 (if neg then .nan else .inf false))
    else if fn = 3 then some (to32 (if neg then .fin false 0 0 else .inf false))
    else if fn = 5 || fn = 6 then some (to32 .nan)
    else some (if neg then one32 ||| 0x80000000 else one32)
  | .fin neg m e =>
    if m = 0 then
      some (if fn = 0 || fn = 1 then to32 (.inf neg)
            else if fn = 2 || fn = 5 || fn = 7 then to32 (.fin neg 0 0)
            else if fn = 4 then to32 (.inf true)
            else one32)
    else if (fn = 1 || fn = 2 || fn = 4) && neg then some (to32 .nan)
    else if fn = 2 then
      let v := m * 2 ^ (2 * (sfuQ : Int) + e).toNat
      let r := isqrt v
      some (to32 (.fin false (2 * r + (if r * r = v then 0 else 1)) (-((sfuQ + 1 : Nat) : Int))))
    else if fn = 3 then
      let a := m * 2 ^ (e + 149).toNat
      if !neg && 128 * 2 ^ 149 ≤ a then some (to32 (.inf false))
      else if neg && 150 * 2 ^ 149 < a then some (to32 (.fin false 0 0))
      else
        match wholeOf neg m e with
        | some n => if -149 ≤ n then some (to32 (.fin false 1 n)) else none
        | none => none
    else if fn = 4 && m = 2 ^ Nat.log2 m then
      let n := e + (Nat.log2 m : Nat)
      some (to32 (.fin (n < 0) n.natAbs 0))
    else none

/-- R135: the free value, where it keeps the bound; else the function itself, rounded. -/
def sfuBounded (fn : Nat) (x : Word) (neg : Bool) (m : Nat) (e : Int) : Word :=
  let v := Config.sfu fn x
  if (fn = 5 || fn = 6) && beyond m e then
    match f32 v with
    | .fin s n k => if (finQ s n k).natAbs ≤ 2 ^ sfuQ then v else to32 (.fin false 0 0)
    | _ => to32 (.fin false 0 0)
  else
    let a := sfuNear fn neg m e
    let own := to32 (.fin a.1 a.2 (-(sfuQ : Int)))
    match f32 v, f32 own with
    | .fin s n k, .fin _ _ _ => if sfuWithin fn (finQ s n k) neg m e then v else own
    | _, _ => own

/-- R135: the result of special function fn. -/
def sfuResult (fn : Nat) (x : Word) : Word :=
  match sfuExact fn (f32 x) with
  | some v => v
  | none =>
    match f32 x with
    | .fin neg m e => sfuBounded fn x neg m e
    | _ => BitVec.ofNat 32 nan32

end Sys2Proof.Machine
end

