-- ==== Sys2Proof/Machine/Pipe.lean ====
section
/-! DEFINITION. What happens in a core beside the issue of instructions: the V-pipe (R116-R119), special-function
results (R134), waits that end (R159, R237), rejoin deadlock (R155), deferred causes (R225, R278) and entry of the
supervisor handler (R180, R465). -/

namespace Sys2Proof.Machine

/-! ## The V-pipe (R116-R119): results stand in their registers from issue on (log 7) -/

/-- Replaces the pipe of a core. -/
def State.setPipe (s : State) (core : Nat) (xs : List PipeE) : State := s.setCore core { s.core core with pipe := xs }

/-- R116, R119: an entry's sources are readable: no older result of its warp is pending for them, and every older
instruction of its split has dispatched. -/
def pipeReady (xs : List PipeE) (n : Nat) (e : PipeE) : Bool :=
  (xs.take n).all fun y =>
    !(y.warp = e.warp && (e.srcs.any y.dst.contains || (y.split = e.split && !y.dispatched)))

/-- R116: of the entries that are ready, this one took its collector first. -/
def firstReady (xs : List PipeE) (n : Nat) : Bool :=
  (List.range n).all fun k => match xs[k]? with
    | some y => y.dispatched || !pipeReady xs k y
    | none => true

/-- COLLECTOR_DISPATCH (R116): an instruction whose sources are read, of those the one that took its collector first, goes
to the V-pipe and frees its collector. -/
def execCollectorDispatch (core n : Nat) (s : State) : Out :=
  .next (match (s.core core).pipe[n]? with
    | none => s
    | some e =>
      let xs := (s.core core).pipe
      if e.dispatched || !pipeReady xs n e || !firstReady xs n then s
      else s.setPipe core (if e.dst.isEmpty then xs.eraseIdx n else xs.set n { e with dispatched := true }))

/-- RESULT_WRITEBACK (R118): a result reaches its bank; its pending mark goes. -/
def execResultWriteback (core n : Nat) (s : State) : Out :=
  .next (match (s.core core).pipe[n]? with
    | none => s
    | some e => if e.dispatched then s.setPipe core ((s.core core).pipe.eraseIdx n) else s)

/-! ## Special functions (R134) -/

/-- Writes the lanes of P of vector register r where a result of a split lands: in its slot while it is a fragment, else
at the W-core. -/
def Warp.landV (W : Warp) (split : Nat) (frag : Bool) (r : Nat) (P : Mask) (f : Nat → Word) : Warp :=
  match (if frag then (W.split split).filter fun X => !X.isLocal else none) with
  | some X =>
    W.setSplit (X.modSlot fun q => { q with
      present := q.present ||| (1#64 <<< r)
      dirty := q.dirty ||| (1#64 <<< r)
      v := tset q.v r (lanes32 fun l => if P.getLsbD l then f l else laneOf (tget [] q.v r) l)
      vst := tset q.vst r .full })
  | none => W.fillV r P f

/-- SFU_RESULT (R134, R135): the results are written and the register turns FULL. -/
def execSfuResult (op : Nat) (s : State) : Out :=
  .next (match tfind s.sfus op with
    | none => s
    | some o =>
      let s := { s with sfus := tdel s.sfus op }
      match tfind s.warps o.warp with
      | none => s
      | some W => s.putWarp o.warp (W.landV o.split o.frag o.d o.lanes fun l => sfuResult o.fn (laneOf o.args l)))

/-! ## Waits that end -/

/-- SLEEP_EXPIRE (R159): the count has run out. -/
def execSleepExpire (w sp : Nat) (s : State) : Out :=
  .next (match splitCtx s w sp with
    | none => s
    | some c =>
      match c.sp.wait with
      | .sleep _ => s.putWarp w ((c.W.setSplit { c.sp with wait := .none }).settle settleFuel sp)
      | _ => s)

/-- WAITV_WAKE (R237): the word was stored to, or 65 536 cycles have passed: the split loads it again, and a
WAIT stop of its block is withdrawn (R363). -/
def execWaitvWake (w sp : Nat) (s : State) : Out :=
  .next (match splitCtx s w sp with
    | none => s
    | some c =>
      match c.sp.wait with
      | .waitvSleep _ _ => (s.putWarp w (c.W.setSplit { c.sp with wait := .none })).withdraw c.W.block .waitWord
      | _ => s)

/-! ## Rejoin deadlock (R155) -/

/-- A wait that only the warp's own threads can end. -/
def ownWait (x : Wait) : Bool :=
  match x with
  | .atJoin _ => true
  | .bar _ => true
  | .barRest _ _ _ _ => true
  | .barw _ => true
  | .cbar _ => true
  | .joinPoint _ => true
  | _ => false

/-- Ids of splits as a mask (R155). -/
def splitMask (xs : List Split) : Nat := (List.range 4).foldl (fun m i => if xs.any fun X => X.id = i then m + 2 ^ i else m) 0

/-- REJOIN_DEADLOCK_DETECT (R155): every split and fragment of a warp waits for the warp itself, one of them at a join
entry. In the user handler it ends the launch (R39), in the supervisor handler it is a MACHINE fault (R183). -/
def execRejoinDeadlockDetect (w : Nat) (s : State) : Out :=
  .next (match tfind s.warps w with
    | none => s
    | some W =>
      let at_ := W.locals.filter Split.atJoin
      match oldest at_ with
      | none => s
      | some X =>
        if W.halted || !W.splits.all (fun Y => ownWait Y.wait) then s
        else
          let c : Ctx := { s := s, w := w, W := W, sp := X }
          c.trap { code := cRejoin, pc := X.pc, addr := 0, aux := splitMask at_ })

/-! ## Deferred causes (R225, R278) -/

/-- Whether a split stands at an instruction boundary at which a user cause may be taken. -/
def Ctx.atBoundary (c : Ctx) : Bool :=
  c.sp.wait = .none && !c.sp.sup && !c.sp.service && !c.held && !c.W.halted && c.sp.cuse.isNone &&
  (match c.sp.home with | .wcore => true | .ncore f => f.stage = .running)

/-- TRAPAUX of a deferred cause (R225). -/
def DefCause.auxWord (z : DefCause) : Nat := z.aux.getD (2 ^ 31 + bits z.pc.toNat 23 2 * 2 ^ 8 + z.reason)

/-- R225: the cause is raised in the split; where it ends the launch, CAUSEPC names the faulting instruction (R355). -/
def Ctx.trapDeferred (c : Ctx) (z : DefCause) : State :=
  let t : Cause := { code := z.cause, pc := c.sp.pc, addr := z.addr, aux := z.auxWord }
  let csr := c.W.sc.csr
  if c.sp.isLocal && (csr.handler = 0 || csr.inh) then c.endWith { t with aux := z.reason } z.pc
  else c.trap t

/-- The first deferred cause of a list that some split can take now. -/
def takeCause (s : State) (w : Nat) (W : Warp) : List DefCause → Option (Ctx × DefCause)
  | [] => none
  | z :: zs =>
    match (W.receiver z).map fun X => ({ s := s, w := w, W := W, sp := X } : Ctx) with
    | some c => if c.atBoundary then some (c, z) else takeCause s w W zs
    | none => takeCause s w W zs

/-- DEFERRED_CAUSE_RAISE (R225): a cause found at a slice is raised at an instruction boundary of its split. -/
def execDeferredCauseRaise (w : Nat) (s : State) : Out :=
  .next (match tfind s.warps w with
    | none => s
    | some W =>
      match takeCause s w W W.defQ with
      | none => s
      | some (c, z) => ({ c with W := { W with defQ := W.defQ.erase z } }).trapDeferred z)

/-- DEFERRED_ENGINE_CAUSE (R278): the same for a cause that the matrix engine found. -/
def execDeferredEngineCause (w : Nat) (s : State) : Out :=
  .next (match tfind s.warps w with
    | none => s
    | some W =>
      match takeCause s w W W.engQ with
      | none => s
      | some (c, z) => ({ c with W := { W with engQ := W.engQ.erase z } }).trapDeferred z)

/-! ## Entry of the supervisor handler (R180, R465) -/

/-- SUPERVISOR_TRAP_ENTRY (R180): the oldest held cause enters the handler in its handling split, taken where it waits;
without a local split a service split is made (R465). -/
def execSupervisorTrapEntry (w : Nat) (s : State) : Out :=
  .next (match tfind s.warps w with
    | none => s
    | some W =>
      match W.supQ with
      | [] => s
      | z :: rest =>
        let stopped := ((tfind s.blocks W.block).map (·.saved)).getD true
        if W.supNow.isSome || W.halted || stopped then s
        else
          let W := { W with supQ := rest }
          match W.handling z with
          | some X => if X.cuse.isSome then s else (({ s := s, w := w, W := W, sp := X } : Ctx).enterSup z).put
          | none =>
            let X := W.serviceSplit
            let W := { W with splits := W.splits ++ [X], nextAge := W.nextAge + 1 }
            (({ s := s, w := w, W := W, sp := X } : Ctx).enterSup z).put)

end Sys2Proof.Machine
end

