-- ==== Sys2Proof/Machine/Fragment.lean ====
section
/-! DEFINITION. The messages between a warp and its fragments on the register transfer network (R190-R212). -/

namespace Sys2Proof.Machine

/-- A fragment, its warp and its slot. -/
def fragCtx (s : State) (w sp : Nat) : Option (Ctx × Slot) :=
  match splitCtx s w sp with
  | none => none
  | some c => c.sp.slot?.map fun f => (c, f)

/-- Puts a fragment's slot back. -/
def Ctx.putSlot (c : Ctx) (f : Slot) : State := { c with sp := { c.sp with home := .ncore f } }.put

/-- What a message to or from a fragment does. -/
def onFrag (s : State) (w sp : Nat) (k : Ctx → Slot → State) : Out :=
  .next (match fragCtx s w sp with
    | none => s
    | some (c, f) => k c f)

/-! ## Export and registers -/

/-- EXPORT (R193, R194): sent once every store older than the BRD has left; the slot starts, and arrives at once if its
path starts at the rejoin offset (R204). -/
def execExportMsg (w sp : Nat) (s : State) : Out :=
  onFrag s w sp fun c f =>
    if f.stage = .exporting && f.older = 0 then
      let X := { c.sp with home := .ncore { f with stage := .running } }
      s.putWarp w ((c.W.setSplit X).settle settleFuel X.id)
    else s

/-- PULLREQ (R196): the parent sends the register, waits for it, or refuses. -/
def execPullreq (w sp r : Nat) (s : State) : Out :=
  onFrag s w sp fun c f =>
    match tfind f.pulls r with
    | none => s
    | some wait =>
      if !f.pending.getLsbD r then c.putSlot { f with pulls := tdel f.pulls r }
      else if c.W.vstate r = .full then
        c.putSlot { f with
          pulls := tdel f.pulls r
          pending := f.pending &&& ~~~(1#64 <<< r)
          xfers := tset f.xfers r { pushed := false, vals := c.W.vlanes r } }
      else if wait then s
      else c.putSlot { f with pulls := tdel f.pulls r, refused := some r }

/-- A register's values reach the slot, which ignores them if it has the register (R196). -/
def deliver (pushed : Bool) (w sp r : Nat) (s : State) : Out :=
  onFrag s w sp fun c f =>
    match tfind f.xfers r with
    | none => s
    | some x =>
      if x.pushed != pushed then s
      else
        let f := { f with xfers := tdel f.xfers r }
        c.putSlot (if f.present.getLsbD r then f
          else { f with
            present := f.present ||| (1#64 <<< r)
            v := tset f.v r (lanes32 fun l => if f.lanes.getLsbD l then laneOf x.vals l else 0) })

/-- PULLDATA (R195). -/
def execPulldata (w sp r : Nat) (s : State) : Out := deliver false w sp r s
/-- OVERPUSH (R198). -/
def execOverpush (w sp r : Nat) (s : State) : Out := deliver true w sp r s

/-- R199: every register of the slot is FULL and the fragment's stores are visible at the cluster L1. -/
def Slot.quiet (f : Slot) : Bool := f.queue.isEmpty && f.vst.all fun e => e.2 = .full

/-- Whether registers are on their way back. -/
def Slot.returning (f : Slot) : Bool := f.stage = .recalling || f.stage = .rejoining

/-- A dirty vector register's lanes go to the parent's file (R199). -/
def Warp.backV (W : Warp) (f : Slot) (r : Nat) : Warp := W.writeV r f.lanes (laneOf (tget [] f.v r))

/-- The dirty lane predicates go to the parent (R199). -/
def Warp.backP (W : Warp) (f : Slot) : Warp :=
  (List.range 7).foldl (fun W n =>
    if f.pDirty.getLsbD n then
      { W with p := tset W.p n ((tget 0 W.p n &&& ~~~f.lanes) ||| (tget 0 f.p n &&& f.lanes)) }
    else W) W

/-- A register of the parent can take the fragment's lanes: it is FULL (R199), or shared, and then written without that
wait (R169, R198). -/
def Warp.takesBack (W : Warp) (r : Nat) : Bool := W.vstate r = .full || W.shared r

/-- BACKPUSH (R199): register r, or with r = 64 the predicates. -/
def execBackpush (w sp r : Nat) (s : State) : Out :=
  onFrag s w sp fun c f =>
    if !f.quiet || !f.returning then s
    else if r = 64 then
      { c with W := c.W.backP f }.putSlot { f with pDirty := 0 }
    else if f.dirty.getLsbD r && c.W.takesBack r then
      let c := { c with W := c.W.backV f r }
      match (c.W.split sp).bind (·.slot?) with
      | none => s
      | some f => c.putSlot { f with dirty := f.dirty &&& ~~~(1#64 <<< r) }
    else s

/-! ## The scalar side (R190) -/

/-- Whether a scalar source of a fragment, by number and bank, can be read now: its wait bit is clear, it is FULL or
marked. -/
def Scal.answers (q : Scal) (r : Nat) (wait : Bool) : Bool :=
  let x := scalarOf r
  !wait || q.sstate x.1 x.2 = .full || q.cancel.getLsbD r

/-- SREAD (R190): the parent's scalar side is read, after the writes that arrived before. -/
def execSread (w sp : Nat) (s : State) : Out :=
  onFrag s w sp fun c f =>
    match f.sreq with
    | none => s
    | some rs =>
      if c.W.swrites.isEmpty && rs.all fun e => c.W.sc.answers e.1 e.2 then
        c.putSlot { f with sreq := none, snap := some c.W.sc }
      else s

/-- A write at the parent's scalar file; none: it waits for its register to be FULL (R52). -/
def State.applySWrite (s : State) (w : Nat) (q : Scal) (m : SWrite) : Option (State × Scal) :=
  let full := fun (r : Nat) => let x := scalarOf r; q.sstate x.1 x.2 = .full
  let put := fun (r : Nat) (v : Word) (st : RegState) => let x := scalarOf r; q.write x.1 x.2 v st
  match m with
  | .reg r v st => if full r then some (s, put r v st) else none
  | .future r _ h => if full r then some (s, put r h .future) else none
  | .cancel n r =>
    let x := scalarOf r
    let z := cancelFuture s w q x.1 x.2
    some (z.1, z.2.1.writeQ (decide (8 ≤ n)) (BitVec.ofNat 3 n) z.2.2)
  | .move d a =>
    let x := scalarOf d
    let y := scalarOf a
    if full d || d = a then some (moveFuture s w q x.1 x.2 y.1 y.2) else none
  | .unmark r => let x := scalarOf r; some (s, q.unmark x.1 x.2)
  | .q n v => some (s, q.writeQ (decide (8 ≤ n)) (BitVec.ofNat 3 n) v)
  | .csr i v => some (s, { q with csr := q.csr.write i v })

/-- SWRITE (R190): the write that arrived first takes effect. -/
def execSwrite (w : Nat) (s : State) : Out :=
  .next (match tfind s.warps w with
    | none => s
    | some W =>
      match W.swrites with
      | [] => s
      | m :: rest =>
        match s.applySWrite w W.sc m with
        | none => s
        | some (s, q) => s.putWarp w { W with sc := q, swrites := rest })

/-- R191: every scalar write that has arrived has taken effect, but for those that wait for a register (R52). -/
def State.writesIn (s : State) (w : Nat) (W : Warp) : Bool :=
  match W.swrites with
  | [] => true
  | m :: _ => (s.applySWrite w W.sc m).isNone

/-! ## Barriers (R206) -/

/-- BARARR (R206): the fragment's lanes arrive at the barrier, after the scalar writes sent before (R191). -/
def execBararr (w sp : Nat) (s : State) : Out :=
  onFrag s w sp fun c f =>
    match f.barReq with
    | none => s
    | some (cl, m) =>
      if !f.queue.isEmpty || !s.writesIn w c.W then s
      else
        let c := { c with W := c.W.mark cl (m &&& ~~~c.W.exited) }
        (c.putSlot { f with barReq := none }).barCheck c.W.block cl

/-- Whether the barrier phase at which a split waits has completed. -/
def Ctx.barDone (c : Ctx) : Bool :=
  match c.sp.wait with
  | .bar ph => c.s.barPhase c.W.block false != ph
  | .barw ph => c.s.barPhase c.W.block false != ph
  | .cbar ph => c.s.barPhase c.W.block true != ph
  | _ => false

/-- The lanes of a fragment that arrive at the next phase now that the one it waits for has completed (R239). -/
def Ctx.restDue (c : Ctx) : Option (Bool × Bool × Nat × Mask) :=
  match c.sp.wait with
  | .barRest cl stay ph rest => if c.s.barPhase c.W.block cl != ph then some (cl, stay, ph, rest) else none
  | _ => none

/-- BARRIER_COMPLETION_MESSAGE (R206): the fragment goes on at its next instruction; lanes that had arrived before they
issued the instruction arrive at the next phase (R239). -/
def execBarrierCompletionMessage (w sp : Nat) (s : State) : Out :=
  onFrag s w sp fun c f =>
    match c.restDue with
    | some (cl, stay, ph, rest) =>
      if f.barReq.isSome then s
      else
        let X := if stay then { c.sp with wait := barWait cl false (ph + 1) }
                 else { c.sp with wait := .none, pc := c.sp.pc + 4 }
        let X := { X with home := .ncore { f with barReq := some (cl, rest) } }
        s.putWarp w ((c.W.setSplit X).settle settleFuel sp)
    | none =>
    if c.barDone then
      let c := { c with sp := { c.sp with wait := .none, pc := c.sp.pc + 4 } }
      s.putWarp w ((c.W.setSplit c.sp).settle settleFuel sp)
    else s

/-! ## Rejoin and recall (R203-R205) -/

/-- HINTDROP of a slot is added at rejoin or recall (R215). -/
def Warp.addHints (W : Warp) (f : Slot) : Warp :=
  { W with sc := { W.sc with csr := { W.sc.csr with hintdrop := W.sc.csr.hintdrop + f.hintdrop } } }

/-- The join counter of a fragment's link falls (R205) and the entry may merge (R153). -/
def Warp.joinDec (W : Warp) (link : Option Nat) (m : Mask) : Warp :=
  match link with
  | none => W
  | some e =>
    let W := W.modEntry e fun (e : JoinE) => { e with joins := e.joins - 1, arrived := e.arrived ||| m }
    match W.tryMerge e with
    | some (W, o) => W.settle settleFuel o
    | none => W

/-- R14, R34, R199: no store of the fragment is on its way. -/
def Ctx.storesDone (c : Ctx) : Bool :=
  !(c.s.accs.any fun e => e.2.warp = c.w && e.2.frag && e.2.split = c.sp.id)

/-- Everything of the fragment has reached the parent (R199). -/
def Ctx.handedBack (c : Ctx) (f : Slot) : Bool :=
  f.quiet && f.dirty = 0 && f.pDirty = 0 && f.barReq.isNone && c.W.swrites.isEmpty && c.storesDone && c.restDue.isNone

/-- R204: the fragment's lanes arrive at its link; its slot is free. -/
def Ctx.rejoin (c : Ctx) (f : Slot) : State :=
  let W := ((c.W.addHints f).dropSplit c.sp.id).joinDec c.sp.link (c.sp.mask &&& ~~~c.W.exited)
  (c.s.freeSlot f).putWarp c.w W

/-- R203 steps 2-4: the fragment becomes the youngest local split of its warp. -/
def Ctx.comeHome (c : Ctx) (f : Slot) : Ctx :=
  let X := { c.sp with home := .wcore, age := c.W.nextAge }
  let X := if c.barDone then { X with wait := .none, pc := X.pc + 4 } else X
  let W := { (c.W.addHints f) with nextAge := c.W.nextAge + 1 }
  let W := (W.setSplit X).joinDec X.link 0
  { c with s := c.s.freeSlot f, W := W, sp := (W.split X.id).getD X }

/-- R211: a fragment is recalled where it stands when a stop is requested, unless a cause of its own is being handled. -/
def Ctx.mayRecall (c : Ctx) (f : Slot) : Bool :=
  f.stage = .running && c.sp.wait != .service && f.barReq.isNone &&
    ((tfind c.s.blocks c.W.block).bind (·.stop)).isSome

/-- FRAGMENT_RECALL (R203, R211): the fragment stops; once its registers are back it is a local split. -/
def execFragmentRecall (w sp : Nat) (s : State) : Out :=
  onFrag s w sp fun c f =>
    if c.mayRecall f then c.putSlot { f with stage := .recalling, sreq := none, snap := none, pulls := [], refused := none }
    else if f.stage = .recalling && c.handedBack f then
      let d := c.comeHome f
      d.s.putWarp w (d.W.settle settleFuel sp)
    else s

/-- JOINDEC (R204, R203): rejoin or recall is complete. -/
def execJoindec (w sp : Nat) (s : State) : Out :=
  onFrag s w sp fun c f =>
    if !c.handedBack f then s
    else if f.stage = .rejoining then c.rejoin f
    else if f.stage = .recalling then
      let d := c.comeHome f
      d.s.putWarp w (d.W.settle settleFuel sp)
    else s

/-! ## Causes (R209) -/

/-- CAUSE (R209): the cause is pending at the parent, or ends the launch; it comes after what the fragment sent before
(R191). -/
def execCause (w sp : Nat) (s : State) : Out :=
  onFrag s w sp fun c f =>
    match f.stage with
    | .stopped code addr aux false =>
      let csr := c.W.sc.csr
      if f.barReq.isSome || !s.writesIn w c.W then s
      else if csr.handler = 0 || csr.inh then c.endWith { code := code, pc := c.sp.pc, addr := addr, aux := aux } c.sp.pc
      else c.putSlot { f with stage := .stopped code addr aux true }
    | _ => s

/-- R209: the split waits at a join entry, a barrier, TBWAIT or WAITV. -/
def Ctx.idleAt (c : Ctx) : Bool :=
  match c.sp.wait with
  | .atJoin _ => true
  | .bar _ => true
  | .barw _ => true
  | .cbar _ => true
  | .barRest _ _ _ _ => true
  | .waitvLoad _ => true
  | .waitvSleep _ _ => true
  | .none =>
    (match c.sp.instrAt with
     | some (.tbwait f) =>
       let s := { c.s with cur := some (c.w, c.sp.id) }
       (match execTbwait f s with | .next t => t = s | _ => false)
     | _ => false)
  | _ => false

/-- R209: the moments at which a pending cause is delivered. -/
def State.deliverNow (s : State) (w : Nat) (W : Warp) : Bool :=
  W.causeDue || ((tfind s.blocks W.block).bind (·.stop)).isSome ||
    W.locals.all fun X => ({ s := s, w := w, W := W, sp := X } : Ctx).idleAt

/-- Every dirty register goes back at once; none: some register is not FULL. -/
def Ctx.pushAll (c : Ctx) (f : Slot) : Option Ctx :=
  let rs := (List.range 63).filter fun r => f.dirty.getLsbD r
  if f.quiet && c.W.swrites.isEmpty && c.storesDone && rs.all c.W.takesBack then
    some { c with W := rs.foldl (fun W r => W.backV f r) (c.W.backP f) }
  else none

/-- The fragment with the lowest id whose cause is pending. -/
def Warp.firstCause (W : Warp) : Option Nat :=
  (List.range 4).find? fun i => match W.split i with | some X => X.causeHeld | none => false

/-- FRAGMENT_CAUSE_DELIVERY (R209): the fragment is recalled at the faulting instruction and the cause delivered in it. -/
def execFragmentCauseDelivery (w : Nat) (s : State) : Out :=
  .next (match tfind s.warps w with
    | none => s
    | some W =>
      match W.firstCause with
      | none => s
      | some i =>
        match fragCtx s w i with
        | none => s
        | some (c, f) =>
          match f.stage with
          | .stopped code addr aux _ =>
            if W.sc.csr.inh || W.halted || s.sfuBusy w || !s.deliverNow w W then s
            else
              (match c.pushAll f with
               | none => s
               | some c =>
                 let d := ({ c with W := { c.W with causeDue := false } }).comeHome f
                 d.trapLocal { code := code, pc := d.sp.pc, addr := addr, aux := aux } true)
          | _ => s)

end Sys2Proof.Machine
end

