-- ==== Sys2Proof/Machine/Ecdsa.lean ====
section
/-! DEFINITION. ECDSA on the curve P-256, which the boot loader verifies and attestation signs with (R459, R460, R462). The
rules name the scheme; the curve's constants and the equations are those of the standard (PRESUMED, log 17). -/

namespace Sys2Proof.Machine

/-- The field prime of P-256. -/
def p256P : Nat := 0xFFFFFFFF00000001000000000000000000000000FFFFFFFFFFFFFFFFFFFFFFFF
/-- The coefficient b. -/
def p256B : Nat := 0x5AC635D8AA3A93E7B3EBBD55769886BC651D06B0CC53B0F63BCE3C3E27D2604B
/-- The order of the base point. -/
def p256N : Nat := 0xFFFFFFFF00000000FFFFFFFFFFFFFFFFBCE6FAADA7179E84F3B9CAC2FC632551

/-- A point of the curve; none is the point at infinity. -/
abbrev Point := Option (Nat × Nat)

/-- The base point. -/
def p256G : Point :=
  some (0x6B17D1F2E12C4247F8BCE6E563A440F277037D812DEB33A0F4A13945D898C296,
        0x4FE342E2FE1A7F9B8EE7EB4A7C0F9E162BCE33576B315ECECBB6406837BF51F5)

/-- A power modulo m, by squaring, of an exponent of at most n bits. -/
def powMod (m : Nat) : Nat → Nat → Nat → Nat
  | 0, _, _ => 1 % m
  | n + 1, b, e =>
    let r := powMod m n (b * b % m) (e / 2)
    if e % 2 = 1 then r * b % m else r

/-- The inverse modulo a prime of 256 bits. -/
def invMod (m a : Nat) : Nat := powMod m 256 (a % m) (m - 2)

/-- A difference modulo m. -/
def subMod (m a b : Nat) : Nat := (a % m + m - b % m) % m

/-- The third point of the line of slope k through two points, mirrored. -/
def chord (k x1 y1 x2 : Nat) : Point :=
  let x := subMod p256P (subMod p256P (k * k) x1) x2
  some (x, subMod p256P (k * subMod p256P x1 x) y1)

/-- The sum of two points. -/
def pointAdd (a b : Point) : Point :=
  match a, b with
  | none, b => b
  | a, none => a
  | some (x1, y1), some (x2, y2) =>
    if x1 = x2 then
      if (y1 + y2) % p256P = 0 then none
      else chord ((3 * x1 * x1 + (p256P - 3)) * invMod p256P (2 * y1) % p256P) x1 y1 x2
    else chord (subMod p256P y2 y1 * invMod p256P (subMod p256P x2 x1) % p256P) x1 y1 x2

/-- A multiple of a point, of a number of at most n bits. -/
def pointMul : Nat → Nat → Point → Point
  | 0, _, _ => none
  | n + 1, k, a =>
    let r := pointMul n (k / 2) (pointAdd a a)
    if k % 2 = 1 then pointAdd r a else r

/-- Whether two numbers are the coordinates of a point of the curve. -/
def onCurve (x y : Nat) : Bool :=
  decide (x < p256P) && decide (y < p256P) && decide ((x * x * x + (p256P - 3) * x + p256B) % p256P = y * y % p256P)

/-- A big-endian number (R460). -/
def beNat (bs : List Byte) : Nat := leNat bs.reverse

/-- Verifies a signature (r, s) over a digest with a public key. -/
def ecdsaVerify (x y r s : Nat) (digest : List Byte) : Bool :=
  let w := invMod p256N s
  let sum := pointAdd (pointMul 256 (beNat digest * w % p256N) p256G) (pointMul 256 (r * w % p256N) (some (x, y)))
  onCurve x y && decide (0 < r) && decide (r < p256N) && decide (0 < s) && decide (s < p256N) &&
    (match sum with
     | some (u, _) => u % p256N == r
     | none => false)

/-- Signs a digest with a private key and a nonce. -/
def ecdsaSign (key nonce : Nat) (digest : List Byte) : Nat × Nat :=
  let r := match pointMul 256 nonce p256G with
    | some (x, _) => x % p256N
    | none => 0
  (r, invMod p256N nonce * ((beNat digest + r * key) % p256N) % p256N)

/-- 32 bytes of a number, big-endian. -/
def be32 (n : Nat) : List Byte := (leBytes 32 n).reverse

end Sys2Proof.Machine
end

