-- ==== Sys2Proof/Machine/Package.lean ====
section
/-! DEFINITION. The package: boot and recovery (R459-R461), attestation (R462), power and temperature (R434, R435,
R456, R457), errors (R427, R428). -/

namespace Sys2Proof.Machine

/-! ## Boot (R459-R461) -/

/-- A field of n bytes of an image. -/
def imgField (bs : List Byte) (o n : Nat) : Nat := leNat ((bs.drop o).take n)

/-- R460: bytes that begin with a valid header. -/
def bootHeaderOk (bs : List Byte) : Bool :=
  let n := imgField bs 0x008 4
  imgField bs 0 4 = 0x5746584B && 0x100 ≤ n && n ≤ 2 ^ 25 && n ≤ bs.length && imgField bs 0x00C 52 = 0 && imgField bs 0x0C0 64 = 0

/-- The bytes that an image's digest covers (R459). -/
def signedBytes (bs : List Byte) : List Byte := bs.take 0x40 ++ bs.drop 0x100

/-- R459, R460: the image's signature over its digest verifies with the header's key; X, Y, r and s are big-endian. -/
def signatureOk (img : List Byte) : Bool :=
  let f := fun (o : Nat) => beNat ((img.drop o).take 32)
  ecdsaVerify (f 0x40) (f 0x60) (f 0x80) (f 0xA0) (sha256 (signedBytes img))

/-- The FAIL value of stages 0 to 2 for an image, 0 if none (R459). train: training fails. -/
def bootFail (K : Package) (bs : List Byte) (train : Bool) : Nat :=
  let img := bs.take (imgField bs 0x008 4)
  if !bootHeaderOk bs then 1
  else if sha256 ((img.drop 0x40).take 64) != K.fusedDigest ||
      !signatureOk img then 2
  else if imgField img 0x004 4 < K.fusedSvn then 3
  else if train then 4
  else 0

/-- The package once stage 3 is reached with an image (R459); stage 2 has derived the identity key (R462). -/
def Package.booted (K : Package) (bs : List Byte) (d : Nat) : Package :=
  let svn := imgField bs 0x004 4
  { K with
    stage := 3, fail := 0, loading := false, identity := some (1 + Config.identityKey K.secret % (p256N - 1)), mfwver := BitVec.ofNat 32 svn, fusedSvn := max K.fusedSvn svn
    image := bs.take (imgField bs 0x008 4)
    tcmhz := (Config.freeWord d).toNat % 4096, fabmhz := (Config.freeWord (d + 1)).toNat % 4096
    memmhz := (Config.freeWord (d + 2)).toNat % 4096 }

/-- Stages 1 to 3 on an image, after stage 0: READY, or RECOVERY with its FAIL. Stage 2 scrubs every region, and at stage 3
every partition is at STATE NONE. -/
def State.boot (s : State) (bs : List Byte) : State :=
  let f := bootFail s.pkg bs (Config.trainFails s.draws)
  let s' := { s with draws := s.draws + 4 }
  if f = 0 then
    let t := (List.range 24).foldl State.scrub { s' with pkg := s.pkg.booted bs (s.draws + 1) }
    { t with mem := [], parts := tmap t.parts fun _ (P : Part) => { P with state := 0, shape := 0, run := false } }
  else { s' with pkg := { s.pkg with stage := 15, fail := f, loading := false, image := [] } }

/-- PACKAGE_RESET (R459): everything but host memory, flash and fuses takes its reset value; the loader boots from flash. -/
def execPackageReset (s : State) : Out :=
  .next (
    let P := s.pkg
    let K := { Package.reset with
      flash := P.flash, fusedDigest := P.fusedDigest, fusedSvn := P.fusedSvn, spares := P.spares, secret := P.secret
      cert := P.cert }
    ({ State.reset with host := s.host, hostHoles := s.hostHoles, msi := s.msi, outbox := s.outbox, fresh := s.fresh, draws := s.draws,
                        agenda := s.agenda, pkg := K }).boot K.flash)

/-- RECOVERY_LOAD (R461): MBOOT.GO in RECOVERY. -/
def execRecoveryLoad (s : State) : Out :=
  .next (
    let n := s.pkg.mreclen.toNat
    if !s.recovery || s.pkg.loading then s
    else if n < 4096 || 2 ^ 25 < n then { s with pkg := { s.pkg with fail := 5 } }
    else s.boot (Memory.readN s.host s.pkg.mrecpa.toNat n))

/-! ## Attestation (R462) -/

/-- ATTESTATION (R462): MATCTL.GO. -/
def execAttestation (s : State) : Out :=
  .next (
    let K := s.pkg
    { s with pkg := if K.matBusy then { K with matErr := true } else { K with matBusy := true } })

/-- The shapes of the eight lowest partition ids that start a partition, 3 bits each. -/
def State.shapeWord (s : State) : Nat :=
  let ps := ((List.range 24).map fun p => (s.part p).shape).filter fun x => x != 0
  (List.range 8).foldl (fun v i => v + ps.getD i 0 * 2 ^ (3 * i)) 0

/-- The signed part of a report. -/
def State.report (s : State) (nonce : List Byte) : List Byte :=
  let rec' := s.recovery
  nonce ++ (if rec' then List.replicate 32 0 else sha256 (signedBytes s.pkg.image)) ++
    leBytes 4 (if rec' then 0 else s.pkg.mfwver.toNat) ++ leBytes 4 (if rec' then 1 else 0) ++
    leBytes 4 s.pkg.fabcfg ++ leBytes 4 s.shapeWord ++ List.replicate 48 0

/-- The 64 bytes of a report's signature (R462): of the SHA-256 of its bytes 0x40 to 0xBF, with the identity key. -/
def State.reportSig (s : State) (body : List Byte) : List Byte :=
  match s.pkg.identity with
  | some key =>
    let z := ecdsaSign key (1 + Config.signNonce s.draws % (p256N - 1)) (sha256 body)
    be32 z.1 ++ be32 z.2
  | none => (List.range 64).map fun i => Config.signature i s.draws

/-- ATTESTATION_DONE (R462): the report is written at byte 0x40 of the buffer. -/
def execAttestationDone (s : State) : Out :=
  .next (
    if s.pkg.matBusy then
      let a := s.pkg.matnpa.toNat / 256 * 256
      let body := s.report (Memory.readN s.host a 32)
      { s.hostPut (a + 0x40) (body ++ s.reportSig body) with pkg := { s.pkg with matBusy := false }, draws := s.draws + 1 }
    else s)

/-! ## The power cap (R435, R456) -/

/-- PSHED.RANK and NOSHED. -/
def Part.rank (P : Part) : Nat := bits P.pshed.toNat 2 0
/-- NOSHED. -/
def Part.noShed (P : Part) : Bool := P.pshed.getLsbD 4

/-- The last stage that a partition can be shed to: paused, or evicted when it has an eviction area. -/
def Part.lastStage (P : Part) : Nat := if bits P.pevictpa.toNat 51 20 = 0 then 4 else 5

/-- The PLL of every region runs at the ratio that its state gives (R434, R435, R456, R457). -/
def State.setPlls (s : State) : State :=
  { s with regions := (List.range 24).foldl (fun t r =>
      let R := tget Region.reset t r
      let n := s.pllOf r R
      if R.pll = n then t else tset t r { R with pll := n }) s.regions }

/-- Partitions in the order in which they are shed (R435). -/
def State.shedOrder (s : State) : List Nat :=
  let ps := (List.range 24).filter fun p => (s.part p).shape != 0 && !(s.part p).noShed
  (List.range 8).flatMap fun k => ps.filter fun p => (s.part p).rank = k

/-- Pause (R435): stops are requested; a block that has stopped stays where it is, and the regions are PARKED when all have. -/
def State.pausePart (s : State) (p : Nat) : State :=
  ((s.partBlocks p).foldl (fun s b => s.requestStop b .preempt) s).parkPaused p

/-- A paused block goes on. -/
def Block.unpaused (B : Block) : Block :=
  { B with paused := false, escalated := false, stop := B.stop.filter fun why => why != .preempt }

/-- Blocks of a paused partition go on where they stopped (R435). -/
def State.unpausePart (s : State) (p : Nat) : State :=
  let mine := s.partBlocks p
  let asked := fun (x : Option Nat) => x.filter fun b => !mine.contains b
  let s := { s with
    blocks := tmap s.blocks fun b B => if mine.contains b then B.unpaused else B
    regions := tmap s.regions fun _ R => { R with preempting := asked R.preempting } }
  let s := s.modRegions (s.regionsOf p) fun _ R => { R with pwr := if R.hot then 1 else 0, gated := false }
  (mine.foldl State.joinCheck s).suspendAll p

/-- The reason with which a paused block is saved. -/
def State.pauseReason (s : State) (b : Nat) (B : Block) : Block :=
  { B with stop := match s.stopReason (s.members b) with | some why => some why | none => B.stop }

/-- R463: the places of a partition's owned slots in its eviction area lie in memory. -/
def State.evictInside (s : State) (p : Nat) : Bool := (s.evictPlaces p).all fun x => paInside x.2.2 slotImageLen

/-- Evict (R435): paused blocks are saved, owned slots stored, image and ACCOWN, dirty tiles written back; the rails go off. An
area where nothing is faults (R463). -/
def State.evictPart (s : State) (p : Nat) : State :=
  if !s.evictInside p then s.machineFault p p
  else
  let mine := s.partBlocks p
  let s := State.saveGroup
    { s with blocks := tmap s.blocks fun b B => if mine.contains b then s.pauseReason b B else B } mine
  let owned := (s.evictPlaces p).filter fun x => pteBit (tget 0 (s.cluster x.1).accown x.2.1).toNat 12
  let s := owned.foldl (fun (s : State) x =>
    let c := s.cluster x.1
    { s with mem := Memory.writeN (Memory.writeN s.mem x.2.2 (tget AccSlot.reset c.slots x.2.1).image) (x.2.2 + accownOff)
                      (leBytes 4 (tget 0 c.accown x.2.1).toNat) }) s
  let kept := owned.map fun x => { cluster := x.1, slot := x.2.1 : Evicted }
  let s := s.flushPart p (fun _ => true) true false
  let s := s.setPart p { s.part p with evicted := kept }
  let cores := tmap s.cores fun c x =>
    if s.inPart p (coreRegion c) then { Core.reset with cycle := x.cycle, ncycle := x.ncycle } else x
  let s := { s with clusters := s.clusters.filter fun e => !s.inPart p (clusterRegion e.1), cores := cores }
  s.modRegions (s.regionsOf p) fun _ R => { R with tlb := [], railOff := true, pll := 0 }

/-- The rails come back, but on a die that tripped (R457): slots and ACCOWN are restored (R435). -/
def State.unevictPart (s : State) (p : Nat) : State :=
  let places := s.evictPlaces p
  let s := (s.part p).evicted.foldl (fun (s : State) e =>
    match places.find? fun x => x.1 = e.cluster && x.2.1 = e.slot with
    | none => s
    | some x =>
      let c := s.cluster e.cluster
      s.setCluster e.cluster { c with
        slots := tset c.slots e.slot (ofImage (Memory.readN s.mem x.2.2 slotImageLen).toArray)
        accown := tset c.accown e.slot (BitVec.ofNat 32 (Memory.num s.mem (x.2.2 + accownOff) 4)) }) s
  let s := s.setPart p { s.part p with evicted := [] }
  s.modRegions (s.regionsOf p) fun r R => { R with railOff := s.pkg.dieOff.contains (r / 6) }

/-- Whether every block of a paused partition has stopped and can be saved (R366). -/
def State.allPaused (s : State) (p : Nat) : Bool :=
  (s.partBlocks p).all (fun b => ((tfind s.blocks b).map (·.paused)).getD true && (s.keepsOf b).isSome) &&
    !s.csmInUse (s.partBlocks p)

/-- One more step of shedding a partition. -/
def State.shedMore (s : State) (p : Nat) : State :=
  let P := s.part p
  if P.shed < 3 then s.setPart p { P with shed := P.shed + 1 }
  else if P.shed = 3 then (s.setPart p { P with shed := 4 }).pausePart p
  else if s.allPaused p then (s.setPart p { P with shed := 5 }).evictPart p
  else s

/-- One more step of shedding a partition, noted if it was taken (R456). -/
def State.shedNext (s : State) (p : Nat) : State :=
  let t := s.shedMore p
  if (t.part p).shed = (s.part p).shed then t else { t with pkg := { t.pkg with shedLog := p :: t.pkg.shedLog } }

/-- One step of shedding undone. -/
def State.shedLess (s : State) (p : Nat) : State :=
  let P := s.part p
  if P.shed = 5 then (s.setPart p { P with shed := 4 }).unevictPart p
  else if P.shed = 4 then (s.setPart p { P with shed := 3 }).unpausePart p
  else s.setPart p { P with shed := P.shed - 1 }

/-- POWER_CAP_EXCEEDED (R456): the next stage of the first partition that can be shed further; with none left every PLL
is held at a quarter and OVER is set. -/
def execPowerCapExceeded (watts : Nat) (s : State) : Out :=
  .next (
    let s := { s with pkg := { s.pkg with watts := watts % 65536 } }
    if watts ≤ s.pkg.mpcap then s
    else
      match s.shedOrder.find? fun p => (s.part p).shed < (s.part p).lastStage with
      | some p => (s.shedNext p).setPlls
      | none => { s with pkg := { s.pkg with overCap := true } }.setPlls)

/-- POWER_CAP_RELIEVED (R456): 5 % below the cap, the stages are undone in the reverse of the order in which they were
taken. -/
def execPowerCapRelieved (watts : Nat) (s : State) : Out :=
  .next (
    let s := { s with pkg := { s.pkg with watts := watts % 65536 } }
    if s.pkg.mpcap * 95 < watts * 100 then s
    else if s.pkg.overCap then { s with pkg := { s.pkg with overCap := false } }.setPlls
    else
      match s.pkg.shedLog with
      | p :: rest => ({ s with pkg := { s.pkg with shedLog := rest } }.shedLess p).setPlls
      | [] => s)

/-! ## Temperature (R457) -/

/-- Changes the regions of a die. -/
def State.modDie (s : State) (die : Nat) (f : Region → Region) : State :=
  s.modRegions ((List.range 6).map (6 * die + ·)) fun _ R => f R

/-- A die's temperature is read. -/
def Package.readTemp (K : Package) (die degC : Nat) : Package := { K with dieTemp := tset K.dieTemp die (degC % 256) }

/-- A die's regions enter SLOW (R457). -/
def Region.heat (R : Region) : Region := { R with hot := true, pwr := max R.pwr 1, gated := false }

/-- THERMAL_HOT (R457): the regions of the die enter SLOW. -/
def execThermalHot (die degC : Nat) (s : State) : Out :=
  .next (
    if die < 4 && 105 ≤ degC then
      let K := s.pkg
      { s.modDie die Region.heat with
        pkg := { K.readTemp die degC with dieHot := if K.dieHot.contains die then K.dieHot else die :: K.dieHot } }.setPlls
    else s)

/-- THERMAL_COOL (R457): below 95 °C the regions leave SLOW; above, the reading alone falls. -/
def execThermalCool (die degC : Nat) (s : State) : Out :=
  .next (
    let K := s.pkg
    if !K.dieHot.contains die then s
    else if degC < 95 then
      { s.modDie die (fun R => { R with hot := false, gated := false, pwr := if R.pwr = 1 then 0 else R.pwr }) with
        pkg := { K.readTemp die degC with dieHot := K.dieHot.filter (· != die) } }.setPlls
    else { s with pkg := K.readTemp die degC })

/-- THERMAL_TRIP (R457): every partition with a region on the die takes a MACHINE fault, and the die's rails go off: what its
clusters and slices hold is gone. -/
def execThermalTrip (die degC : Nat) (s : State) : Out :=
  .next (
    if die < 4 && 115 ≤ degC then
      let rs := (List.range 6).map (6 * die + ·)
      let ps := (rs.filterMap fun r => (s.regionPart r).map fun p => (p, r))
      let s := ps.foldl (fun (s : State) x => s.machineFault x.1 x.2) s
      let K := s.pkg
      let off : Region → Region := fun R =>
        { R.heat with railOff := true, ents := [], tlb := [], rsp := [], dfq := [], sends := [] }
      let kept := fun (r : Nat) => !rs.contains r
      { s.modDie die off with
        clusters := s.clusters.filter fun e => kept (clusterRegion e.1)
        cores := s.cores.filter fun e => kept (coreRegion e.1)
        pkg := { K.readTemp die degC with
          trip := true, dieOff := if K.dieOff.contains die then K.dieOff else die :: K.dieOff
          dieHot := if K.dieHot.contains die then K.dieHot else die :: K.dieHot } }.setPlls
    else s)

/-! ## Errors (R427, R428) -/

/-- MACHINE_FAULT (R428): an uncontainable error in a region. -/
def execMachineFault (region : Nat) (s : State) : Out :=
  .next (
    match s.regionPart region with
    | some p => s.machineFault p region
    | none => (s.setRegion region { s.region region with fault := true }).signal none 0)

/-- Adds to a saturating counter (R427). -/
def satAdd (w : Word) (n : Nat) : Word := if 2 ^ 32 ≤ w.toNat + n then 0xFFFFFFFF else BitVec.ofNat 32 (w.toNat + n)

/-- PATROL_SCRUB (R427): a pass over HBM and the SRAMs counts the errors that it corrects. -/
def execPatrolScrub (region hbmErrs sramErrs : Nat) (s : State) : Out :=
  .next (
    let R := s.region region
    s.setRegion region { R with recch := satAdd R.recch hbmErrs, reccs := satAdd R.reccs sramErrs })

/-! ## Idle power (R434) -/

/-- R434: a region runs nothing: no resident block, fragment, engine operation or queued fill. -/
def State.regionIdle (s : State) (r : Nat) : Bool :=
  !(s.blocks.any fun e => e.2.resident && coreRegion e.2.core = r) &&
  !(s.ops.any fun e => coreRegion e.2.core = r) && (s.region r).dfq.isEmpty &&
  !(s.cores.any fun e => coreRegion e.1 = r && !e.2.nslots.isEmpty)

/-- The deepest state that a latency tolerance allows (R434): PWR, and whether it is GATED. -/
def idleState (us : Nat) : Nat × Bool :=
  if 2000 ≤ us then (3, false) else if 150 ≤ us then (2, false) else if 20 ≤ us then (1, false)
  else if 1 ≤ us then (1, true) else (0, false)

/-- How deep a state is: ACTIVE, GATED, SLOW, PARKED, RETAIN. -/
def powerDepth (x : Nat × Bool) : Nat := if x.1 = 0 then 0 else if x.2 then 1 else x.1 + 1

/-- IDLE_POWER_ENTRY (R434). -/
def execIdlePowerEntry (region : Nat) (s : State) : Out :=
  .next (
    match s.regionPart region with
    | none => s
    | some p =>
      let n := idleState (bits (s.part p).plattol.toNat 23 0)
      let R := s.region region
      if s.regionIdle region && powerDepth (R.pwr, R.gated) < powerDepth n then
        s.setPower region { R with pwr := n.1, gated := n.2 }
      else s)

/-- POWER_WAKE (R434): a request wakes the region. -/
def execPowerWake (region : Nat) (s : State) : Out := .next (s.wakeRegion region)

end Sys2Proof.Machine
end

