-- ==== Sys2Proof/Machine/RegWrite.lean ====
section
/-! DEFINITION. Writes of control registers (R4, R5): each field as its table gives it, and what a write starts. -/

namespace Sys2Proof.Machine

/-- The state that a meaning answers; a stop leaves the state before. -/
def nextOf (f : State → Out) (s : State) : State := match f s with | .next t => t | _ => s

/-! ## The doorbell page (R396, R409, R439) -/

/-- R396: every named queue is marked notified. -/
def State.notify (s : State) (n mask : Nat) : State :=
  { s with notified := s.notified ++ ((List.range 16).filter fun q => pteBit mask q && !s.notified.contains (n, q)).map fun q => (n, q) }

/-- R409: features are negotiated. -/
def State.negotiate (s : State) (n : Nat) : State :=
  match tfind s.vfs n with
  | none => s
  | some v =>
    let want := s.hostNum (v.vcppa + 0x10) 8
    let offer := s.hostNum (v.vcppa + 0x08) 8
    let word := s.hostNum (v.vcppa + 0x04) 4
    let rest := word / 4 % 2 * 4
    if s.pkg.stage != 3 then s
    else if want &&& offer = want && !(s.packets.any fun e => e.2.vf = n) then
      ({ s with vfs := tset s.vfs n { v with ready := true, featAgreed := BitVec.ofNat 64 want } }.hostPut (v.vcppa + 0x18)
        (leBytes 8 want)).hostPut (v.vcppa + 0x04) (leBytes 4 (rest + 1))
    else s.hostPut (v.vcppa + 0x04) (leBytes 4 (rest + 2 + word % 2))

/-- R393, R394: the front end reads the quotas in a VF's VCP page. -/
def State.readQuotas (s : State) (n : Nat) : State :=
  { s with vfs := tmod s.vfs n fun (v : Vf) =>
      { v with qslots := s.hostNum (v.vcppa + 0x20) 2, dccount := s.hostNum (v.vcppa + 0x22) 2 } }

/-- A write of VFNOTIFY (R393, R396). -/
def State.vfNotify (s : State) (n : Nat) (w : Word) : State :=
  let s := s.readQuotas n
  let s := if w.getLsbD 31 then s.negotiate n else s
  s.notify n (bits w.toNat 15 0)

/-- QUEUE_NOTIFY (R396): a write of VFNOTIFY in the doorbell page of package VF vf. -/
def execQueueNotify (vf : Nat) (v : Word) (s : State) : Out :=
  .next (match s.boundVf vf with | none => s | some _ => s.vfNotify vf v)

/-- FEATURE_NEGOTIATION (R409): a write of VFNOTIFY with NEG set. -/
def execFeatureNegotiation (vf : Nat) (s : State) : Out :=
  .next (match s.boundVf vf with | none => s | some _ => (s.readQuotas vf).negotiate vf)

/-- Whether some leaf of a table tree has HOST set (R439). -/
def anyHost (m : Memory) : Nat → Nat → Nat → Bool
  | 0, _, _ => false
  | n + 1, level, table =>
    (((m.filter fun e => table ≤ e.1 && e.1 < table + tableBytes level).map fun e => (e.1 - table) / 8).eraseDups).any fun i =>
      let e := m.num (table + 8 * i) 8
      pteValid level e && (if pteBit e 1 then pteHost e else anyHost m n (level + 1) (pteFrame e))

/-- A write of a word of a VF's doorbell page (R439). The low bits of VFMIRROR, which must be zero, are stored as zero (DESIGN
CHOICE, log 73). -/
def State.writeDoorbell (s : State) (n o : Nat) (w : Word) : State :=
  match s.boundVf n with
  | none => s
  | some v =>
    let put := fun (v : Vf) => { s with vfs := tset s.vfs n v }
    if o = 0x000 then s.vfNotify n w
    else if (o = 0x008 || o = 0x00C) && !anyHost s.mem 4 0 v.ptroot then
      put { v with mirror := putHalf v.mirror (o = 0x00C) w &&& 0xFFFFFFFFFFFF0000 }
    else if (o = 0x010 || o = 0x014) && !anyHost s.mem 4 0 v.ptroot then
      put { v with mrqBase := putHalf v.mrqBase (o = 0x014) w &&& 0xFFFFFFFFFFFFF000 }
    else if o = 0x01C then (put { v with mrqHead := bits w.toNat 7 0 }).mrqFlush n
    else s

/-! ## Partition control space -/

/-- LPREDL as it is stored (R371). SOFT 65535, which leaves no larger HARD, is stored as 65534 (DESIGN CHOICE, log 73). -/
def predlWord (w : Word) : Word :=
  let soft := max 1 (min 65534 (bits w.toNat 15 0))
  let hard := bits w.toNat 31 16
  BitVec.ofNat 32 ((if hard ≤ soft then soft + 1 else hard) * 2 ^ 16 + soft)

/-- A write of VFCMD (R418). -/
def State.vfcmdWrite (s : State) (p : Nat) (w : Word) : State :=
  let P := s.part p
  let vf := bits w.toNat 9 0
  let s := s.setPart p { P with vfcmdVf := vf, vfcmdErr := P.vfcmdErr && !w.getLsbD 28 }
  let cmd := bits w.toNat 31 30
  if cmd = 1 then nextOf (execVfCreate p vf) s
  else if cmd = 2 then nextOf (execVfFlr p vf) s
  else if cmd = 3 then nextOf (execVfDestroy p vf) s
  else s

/-- A write of VFMIG (R429). In RECOVERY it is refused, and VFCMD.ERR says so: VFMIG has no ERR bit (R461, log 88). -/
def State.vfmigWrite (s : State) (p : Nat) (w : Word) : State :=
  let P := s.part p
  if s.recovery then s.setPart p { P with vfcmdErr := true }
  else
  let vf := bits w.toNat 9 0
  let s := s.setPart p { P with vfmigVf := vf, vfmigAborted := P.vfmigAborted && !w.getLsbD 27 }
  let cmd := bits w.toNat 31 29
  if cmd = 1 then nextOf (execMigFreeze p vf) s
  else if cmd = 2 then nextOf (execMigReplay p vf) s
  else if cmd = 3 then nextOf (execMigAbort p vf) s
  else if cmd = 4 then nextOf (execMigResume p vf) s
  else s

/-- A write of DBGCMD (R186). -/
def State.dbgWrite (s : State) (p : Nat) (w : Word) : State :=
  let cmd := bits w.toNat 31 30
  if cmd = 1 then nextOf (execDebugResume p w) s
  else if cmd = 2 then nextOf (execDebugStep p w) s
  else if cmd = 3 then nextOf (execDebugHalt p w) s
  else s

/-- Registers of a partition that a write starts something in, or none. -/
def State.partAct (s : State) (p o : Nat) (w : Word) : Option State :=
  let P := s.part p
  if o = 0x000 then some (s.pcfgWrite p w)
  else if o = 0x030 then some (s.vfcmdWrite p w)
  else if o = 0x034 then some (s.vfmigWrite p w)
  else if o = 0x100 then
    let s := s.setPart p { P with prmapErr := P.prmapErr && !w.getLsbD 2 }
    some (if w.getLsbD 0 then nextOf (execRemapCommit p) s else s)
  else if o = 0x604 then some (s.dbgWrite p w)
  else if o = 0x700 then some (nextOf (execTccfgWrite p w) s)
  else if o = 0x708 then some (nextOf (execPolbaseWrite p w) s)
  else if o = 0x740 then
    let s := s.setPart p { P with tuErr := P.tuErr && !w.getLsbD 2 }
    some (if w.getLsbD 0 then nextOf (execTableUpdate p) s else s)
  else none

/-- R371: whether a block of the partition holds a reservation in the save pool. -/
def State.poolHeld (s : State) (p : Nat) : Bool := !(s.poolUsed p).isEmpty

/-- Registers of a partition that only hold what is written. PVFCOUNT above its range is stored as 1024 (DESIGN CHOICE, log
73). -/
def Part.put (P : Part) (held : Bool) (o : Nat) (w : Word) : Part :=
  if o = 0x008 || o = 0x00C then
    (if P.state = 2 then P else { P with psupv := putHalf P.psupv (o = 0x00C) w &&& 0x000FFFFFFFFFFF01 })
  else if o = 0x010 || o = 0x014 then { P with pvfbase := putHalf P.pvfbase (o = 0x014) w &&& 0x000FFFFFFFFFF000 }
  else if o = 0x018 then { P with pvfcount := if 1024 < w.toNat then 1024 else w }
  else if o = 0x01C then { P with plattol := w &&& 0x00FFFFFF }
  else if o = 0x020 then { P with pshed := w &&& 0x17 }
  else if o = 0x028 || o = 0x02C then { P with pevictpa := putHalf P.pevictpa (o = 0x02C) w &&& 0x000FFFFFFFF00000 }
  else if 0x200 ≤ o && o < 0x200 + 32 * shapeRegions P.shape then
    { P with remap := tset P.remap ((o - 0x200) / 4) (w &&& 0x1FF) }
  else if o = 0x600 then { P with dbgctl := w &&& 3 }
  else if o = 0x70C then { P with teqbase := w }
  else if o = 0x710 then { P with teqsize := w &&& 0xF }
  else if o = 0x714 then { P with teqhead := w &&& 0x7FFF }
  else if o = 0x71C then { P with teqlost := w }
  else if o = 0x720 then { P with dfbudget := w &&& 0xFFFF }
  else if o = 0x728 || o = 0x72C then { P with tupa := putHalf P.tupa (o = 0x72C) w &&& 0x000FFFFFFFFFFFF8 }
  else if o = 0x730 || o = 0x734 then { P with tuva := putHalf P.tuva (o = 0x734) w &&& 0x01FFFFFFFFFF0003 }
  else if o = 0x738 || o = 0x73C then { P with tuval := putHalf P.tuval (o = 0x73C) w }
  else if o = 0x804 then { P with lpredl := predlWord w }
  else if (o = 0x808 || o = 0x80C) && !held then { P with lsavepa := putHalf P.lsavepa (o = 0x80C) w &&& 0x000FFFFFFFFFFC00 }
  else if o = 0x810 && !held then { P with lsavelen := w }
  else if o = 0x900 then { P with burstSlots := bits w.toNat 15 0 }
  else if o = 0x904 then { P with feslice := bits w.toNat 23 0 }
  else P

/-- A write of a word of a partition control space (R414). -/
def State.writePart (s : State) (p o : Nat) (w : Word) : State :=
  match s.partAct p o w with
  | some s => s
  | none => s.setPart p ((s.part p).put (s.poolHeld p) o w)

/-! ## Regions and ports -/

/-- A 64-bit address field [51:16] of a window with one half replaced. -/
def winBase (base : Nat) (hi : Bool) (w : Word) : Nat :=
  bits (putHalf (BitVec.ofNat 64 base) hi w).toNat 51 16 * 65536

/-- The length field [39:16] of a window, in 64 KiB units, with one half replaced. -/
def winLen (len : Nat) (hi : Bool) (w : Word) : Nat := bits (putHalf (BitVec.ofNat 64 (len * 65536)) hi w).toNat 39 16

/-- A write of a word of a region control space (R421, R424, R427). -/
def State.writeRegion (s : State) (r o : Nat) (w : Word) : State :=
  let R := s.region r
  if o = 0x000 then (if w.getLsbD 0 then nextOf (execRegionReset r) s else s)
  else if o = 0x008 then s.setRegion r { R with recch := R.recch &&& ~~~w }
  else if o = 0x00C then s.setRegion r { R with reccs := R.reccs &&& ~~~w }
  else if o = 0x010 then s.setRegion r { R with reccc := R.reccc &&& ~~~w }
  else if o = 0x014 then s.setRegion r { R with rscrub := max 1 (bits w.toNat 7 0) }
  else if 0x100 ≤ o && o < 0x300 then
    let i := (o - 0x100) / 32
    let k := (o - 0x100) % 32
    let x := tget Win.reset R.wins i
    if k = 0 || k = 4 then s.setWin r i { x with base := winBase x.base (k = 4) w }
    else if k = 8 || k = 12 then s.setWin r i { x with len := winLen x.len (k = 12) w }
    else if k = 16 then s.winWrite r i w
    else s
  else s

/-- A word of a port window written (R449): clearing VALID starts to close the window. -/
def PortWin.put (x : PortWin) (inbound : Bool) (k : Nat) (w : Word) : PortWin :=
  if k = 0 || k = 4 then { x with base := winBase x.base (k = 4) w }
  else if k = 8 || k = 12 then { x with len := winLen x.len (k = 12) w }
  else if k = 16 then
    { x with
      dev := bits w.toNat 19 8, spart := if inbound then bits w.toNat 7 3 else 0, w := w.getLsbD 1, valid := w.getLsbD 0
      closing := !w.getLsbD 0 && (x.valid || x.closing) }
  else x

/-- R454: the hypervisor clears bits of a port's PORTBLK: what their partitions lost there has been told. -/
def State.clearBlk (s : State) (n : Nat) (w : Word) : State :=
  let P := s.port n
  { s.setPort n { P with blk := P.blk &&& ~~~(w.extractLsb' 0 24) } with
    paths := s.paths.map fun (x : FabPath) => if x.port = n && w.getLsbD x.part then { x with lost := false } else x }

/-- R422: an inbound window that is in force: its pages have one entry, homed by their physical address. -/
def State.shareIwin (s : State) (n : Nat) (x : PortWin) : State :=
  match (s.portPart (s.port n).mode (s.port n).owner) with
  | some p => if x.valid then s.shareRange p x.base (x.len * 65536) else s
  | none => s

/-- A write of a word of a port control space (R446, R449). -/
def State.writePort (s : State) (n o : Nat) (w : Word) : State :=
  let P := s.port n
  if o = 0x000 then nextOf (execPortAssign n w) s
  else if o = 0x010 then s.clearBlk n w
  else if 0x100 ≤ o && o < 0x300 then
    let i := (o - 0x100) / 32
    (s.setPort n { P with owin := tset P.owin i ((tget PortWin.reset P.owin i).put false ((o - 0x100) % 32) w) }).settleWins n
  else if 0x300 ≤ o && o < 0x500 then
    let i := (o - 0x300) / 32
    let x := (tget PortWin.reset P.iwin i).put true ((o - 0x300) % 32) w
    ((s.setPort n { P with iwin := tset P.iwin i x }).shareIwin n x).settleWins n
  else s

/-! ## VFMAP, FABCFG and the management registers -/

/-- A write of a word of the management registers (R458). The low bits of MRECPA and MATNPA, which must be zero, are stored
as zero (DESIGN CHOICE, log 73). -/
def State.writeMgmt (s : State) (o : Nat) (w : Word) : State :=
  let K := s.pkg
  let put := fun (K : Package) => { s with pkg := K }
  if o = 0x000 then (if w.getLsbD 31 then nextOf execRecoveryLoad s else s)
  else if o = 0x008 || o = 0x00C then put { K with mrecpa := putHalf K.mrecpa (o = 0x00C) w &&& 0xFFFFFFFFFFFFF000 }
  else if o = 0x010 then put { K with mreclen := w }
  else if o = 0x018 then put { K with mpcap := max 600 (min 2600 (bits w.toNat 15 0)) }
  else if o = 0x030 || o = 0x034 then put { K with matnpa := putHalf K.matnpa (o = 0x034) w &&& 0xFFFFFFFFFFFFFF00 }
  else if o = 0x038 then
    let s := put { K with matErr := K.matErr && !w.getLsbD 29 }
    if w.getLsbD 31 then nextOf execAttestation s else s
  else s

/-- A write of a word of a register space. -/
def State.writeReg (s : State) (sp : RegSpace) (o : Nat) (w : Word) : State :=
  match sp with
  | .part p => if p < 24 then s.writePart p o w else s
  | .region r => if r < 24 then s.writeRegion r o w else s
  | .port n => if n < 36 then s.writePort n o w else s
  | .vfmap =>
    if o < 4096 && (tfind s.vfs (o / 4)).isNone then { s with vfmap := tset s.vfmap (o / 4) (w &&& 0x80007FFF) } else s
  | .fabcfg => if o = 0 then { s with pkg := { s.pkg with fabcfg := bits w.toNat 11 0 } } else s
  | .mgmt => s.writeMgmt o w
  | .doorbell n => s.writeDoorbell n o w

/-- A write of 4 or 8 bytes: the word at the lower offset first. -/
def State.writeRegs (s : State) (sp : RegSpace) (o n : Nat) (v : Nat) : State :=
  let s := s.writeReg sp o (BitVec.ofNat 32 v)
  if n = 8 then s.writeReg sp (o + 4) (BitVec.ofNat 32 (v / 2 ^ 32)) else s

/-! ## The PF aperture (R437) -/

/-- The register space at an offset of the PF register aperture, and the offset in it (R414, R437, R438, R446, R458). -/
def pfSpace (o : Nat) : Option (RegSpace × Nat) :=
  if 0x200000 ≤ o && o < 0x218000 then some (.region ((o - 0x200000) / 0x1000), (o - 0x200000) % 0x1000)
  else if 0x300000 ≤ o && o < 0x301000 then some (.vfmap, o - 0x300000)
  else if 0x400000 ≤ o && o < 0x424000 then some (.port ((o - 0x400000) / 0x1000), (o - 0x400000) % 0x1000)
  else if 0x430000 ≤ o && o < 0x431000 then some (.fabcfg, o - 0x430000)
  else if 0x500000 ≤ o && o < 0x501000 then some (.mgmt, o - 0x500000)
  else if 0x800000 ≤ o && o < 0x980000 then some (.part ((o - 0x800000) / 0x10000), (o - 0x800000) % 0x10000)
  else none

/-- A read of 4 or 8 bytes of the PF aperture; what lies nowhere reads as zero. -/
def State.pfRead (s : State) (o n : Nat) : Nat := ((pfSpace o).map fun x => s.readRegs x.1 x.2 n).getD 0

/-- A naturally aligned write of 4 or 8 bytes into the PF aperture (R4, R437). -/
def State.pfWrite (s : State) (o n v : Nat) : State :=
  match pfSpace o with
  | some (sp, off) => if (n = 4 || n = 8) && o % n = 0 then s.writeRegs sp off n v else s
  | none => s

/-- REGISTER_WRITE (R4, R5): a naturally aligned write of 4 or 8 bytes. -/
def execRegisterWrite (sp : RegSpace) (off size : Nat) (v : DWord) (s : State) : Out :=
  .next (if (size = 4 || size = 8) && off % size = 0 then s.writeRegs sp off size v.toNat else s)

end Sys2Proof.Machine
end

