-- ==== Sys2Proof/Machine/MemEvents.lean ====
section
/-! DEFINITION. The two ends of an access: LONG_LATENCY_RESULT, which writes a load's or atomic's destination (R50,
R224), and STORE_FIFO_DRAIN, by which a store leaves its queue (R25, R207, R221). -/

namespace Sys2Proof.Machine

/-! ## Lanes outside global memory (R18-R20, R182) -/

/-- What a lane of a target outside global memory reads. -/
def State.localRead (s : State) (p : Nat) (t : Target) (size : Nat) : Nat :=
  match t with
  | .csm core b => leNat (s.csmRead core b size)
  | .rsp r b => leNat (s.rspRead r b size)
  | .phys pa => Memory.num s.mem pa size
  | .ctrl o => s.readRegs (.part p) o size
  | .glob => 0

/-- A write of a target outside global memory; one of the control window writes the partition's registers (R182). -/
def State.localWrite (s : State) (p : Nat) (size : Nat) (stlf : Bool) (x : LaneAcc) : State :=
  match x.tgt with
  | .ctrl o => s.writeRegs (.part p) o size x.val
  | _ => s.storeLane size stlf x

/-- One lane of a load or atomic outside global memory, performed (R227, R232). -/
def State.localLane (s : State) (p : Nat) (k : AccKind) (x : LaneAcc) : State × LaneAcc :=
  let s := s.wakeTarget x.tgt
  let old := s.localRead p x.tgt k.size
  let y := { x with res := old, got := true }
  match k with
  | .atom op _ =>
    (match atomicNew op (BitVec.ofNat 32 old) (BitVec.ofNat 32 x.val) (BitVec.ofNat 32 x.val2) with
     | some v => (s.localWrite p 4 false { x with val := v.toNat }, y)
     | none => (s, y))
  | _ => (s, y)

/-- Every lane outside global memory that is not performed, ascending. -/
def State.localLanes (p : Nat) (k : AccKind) : State → List LaneAcc → State × List LaneAcc
  | s, [] => (s, [])
  | s, x :: xs =>
    let r := if x.got || x.tgt = .glob then (s, x) else s.localLane p k x
    let t := State.localLanes p k r.1 xs
    (t.1, r.2 :: t.2)

/-! ## Results -/

/-- Word i of what a lane returned: TLDG's second word is the denied flag (R230), a short load is extended (R227). -/
def LaneAcc.word (x : LaneAcc) (k : AccKind) (i : Nat) : Word :=
  match k with
  | .tldg => if i = 0 then (if x.denied then 0 else BitVec.ofNat 32 x.res) else if x.denied then 1 else 0
  | .load 1 true => (BitVec.ofNat 8 x.res).signExtend 32
  | .load 2 true => (BitVec.ofNat 16 x.res).signExtend 32
  | _ => BitVec.ofNat 32 (x.res / 2 ^ (32 * i))

/-- The lane of an access with a number. -/
def Access.laneAt (a : Access) (l : Nat) : Option LaneAcc := a.lanes.find? fun x => x.lane = l

/-- The lanes that take part. -/
def Access.mask (a : Access) : Mask := maskOf fun l => (a.laneAt l).isSome

/-- Vector destinations take their lanes and turn FULL (R224). -/
def Access.landVs (a : Access) (W : Warp) : Warp :=
  (List.range a.dst.length).foldl (fun W i =>
    W.landV a.split a.frag (a.dst.getD i 63) a.mask
      fun l => match a.laneAt l with | some x => x.word a.kind i | none => 0) W

/-- Scalar destinations turn FULL; one of the supervisor bank that a new entry has cleared is lost (R180). -/
def Access.landSs (a : Access) (W : Warp) : Warp :=
  match a.lanes with
  | [] => W
  | x :: _ =>
    (List.range a.dst.length).foldl (fun W i =>
      let r := scalarOf (a.dst.getD i 63)
      if r.1 && W.sc.sstate r.1 r.2 != .empty then W
      else { W with sc := W.sc.write r.1 r.2 (x.word a.kind i) .full }) W

/-- The loads of fragments that have a scalar register as destination, oldest first. -/
def State.scalarLoads (s : State) (w r : Nat) : List Nat :=
  (s.accs.filter fun e => e.2.warp = w && e.2.frag && e.2.scalar && e.2.dst.contains r &&
    (match e.2.kind with | .waitv _ => false | _ => true)).map (·.1)

/-- The scalar destinations of access n, a fragment's, can land: its EMPTY marks have reached the parent, and with them
every mark before them (R190). -/
def Access.scalarsReady (a : Access) (n : Nat) (s : State) (W : Warp) : Bool :=
  !a.frag || a.dst.all fun r =>
    let x := scalarOf r
    let marks := W.swrites.filter fun m => match m with | .reg k _ .empty => k = r | _ => false
    let loads := s.scalarLoads a.warp r
    W.sc.sstate x.1 x.2 = .empty && decide ((loads.takeWhile (· != n)).length + marks.length < loads.length)

/-- The acquire of an access (R27, R220, R314): LDACQ, WAITV and atomics. -/
def AccKind.acquires : AccKind → Option Nat
  | .acq c => some c
  | .atom _ c => some c
  | .waitv c => some c
  | _ => none

/-- The warp acquires at the access's scope. -/
def Access.acquire (a : Access) (s : State) (W : Warp) : State × Warp :=
  match a.kind.acquires with
  | none => (s, W)
  | some c =>
    let r := ({ s := s, w := a.warp, W := W, sp := W.serviceSplit } : Ctx).acquire c
    (r.s, r.W)

/-- R232, R234: a compare-and-swap fails in some lane. -/
def Access.casFails (a : Access) : Bool :=
  match a.kind with
  | .atom 7 _ => a.lanes.any fun x =>
      BitVec.ofNat 32 x.res != BitVec.ofNat 32 x.val &&
        !(x.tgt = .glob && a.subs.any fun y => y.fail.isSome && y.tile = x.ea / 4096)
  | _ => false

/-- The split of a failed compare-and-swap becomes the youngest (R114). -/
def Warp.demoteSplit (W : Warp) (id uid : Nat) : Warp :=
  match W.splitOf id uid with
  | none => W
  | some X =>
    if X.isLocal then { (W.setSplit { X with age := W.nextAge }) with nextAge := W.nextAge + 1 } else W

/-! ## WAITV (R237) -/

/-- A wait replaced wherever a split keeps it. -/
def Split.swapWait (X : Split) (old new : Wait) : Split :=
  { X with
    wait := if X.wait = old then new else X.wait
    savedWait := if X.savedWait = old then new else X.savedWait
    trapWait := X.trapWait.map fun z => (if z.1 = old then new else z.1, z.2) }

/-- The load of a WAITV has returned: the word differs and the split goes on with it, or it sleeps. -/
def Access.endWait (a : Access) (n : Nat) (s : State) (W : Warp) : State :=
  let old := Wait.waitvLoad n
  match a.lanes with
  | [] => s.putWarp a.warp W
  | x :: _ =>
    let failed := a.subs.any fun y => y.fail.isSome
    if BitVec.ofNat 32 x.res = BitVec.ofNat 32 x.val && !failed then
      let W := { W with splits := W.splits.map fun X => X.swapWait old (.waitvSleep x.ea (x.val % 2 ^ 32)) }
      (s.putWarp a.warp W).waitSuspend W.block
    else
      let d := a.dst.getD 0 63
      let r := scalarOf d
      let v := BitVec.ofNat 32 x.res
      match (W.split a.split).filter fun X => a.frag && !X.isLocal with
      | some X =>
        let W := { W with swrites := if d % 64 = 63 then W.swrites else W.swrites ++ [SWrite.reg d v .full] }
        s.putWarp a.warp ((W.setSplit { X with wait := .none, pc := X.pc + 4 }).settle settleFuel X.id)
      | none =>
        let W := { W with sc := W.sc.write r.1 r.2 v .full }
        s.putWarp a.warp (W.passBarrier fun y => y = old)

/-! ## LONG_LATENCY_RESULT -/

/-- Whether a lane outside global memory is still to perform. -/
def Access.localLeft (a : Access) : Bool := a.lanes.any fun x => !x.got && x.tgt != .glob

/-- R25, R29, R207: an earlier load or atomic of the stream is outstanding, before an atomic any earlier access of the
warp; one that a cause holds counts only for an atomic of user code (R183). -/
def State.afterLoads (s : State) (n : Nat) (a : Access) : Bool :=
  s.accs.any fun e => decide (e.1 < n) &&
    ((!e.2.isStore && e.2.sameStream a && !e.2.stuck) || (a.isAtomic && e.2.warp = a.warp && !(a.sup && e.2.stuck)))

/-- An access whose lanes have performed completes. -/
def Access.complete (a : Access) (n : Nat) (s : State) : State :=
  match tfind s.warps a.warp with
  | none => s
  | some W =>
    let r := a.acquire s W
    let s := r.1
    let W := r.2
    match a.kind with
    | .waitv _ => a.endWait n s W
    | .hint _ _ _ => s
    | _ =>
      let W := if a.scalar then a.landSs W else a.landVs W
      s.putWarp a.warp (if a.casFails then W.demoteSplit a.split a.uid else W)

/-- LONG_LATENCY_RESULT (R50, R224): once every global part is settled the other lanes perform, the destination is
written and turns FULL, and what the access met is deferred (R225). -/
def execLongLatencyResult (acc : Nat) (s : State) : Out :=
  .next (match tfind s.accs acc with
    | none => s
    | some a =>
      if a.isStore || !(a.subs.all fun x => x.st = .done) || (a.localLeft && s.afterLoads acc a) then s
      else
        match tfind s.warps a.warp with
        | none => { s with accs := tdel s.accs acc }
        | some W =>
          if a.scalar && !(match a.kind with | .waitv _ => true | _ => false) && !a.scalarsReady acc s W then s
          else
            let r := State.localLanes (s.warpPart W) a.kind s a.lanes
            let a := { a with lanes := r.2 }
            let s := { r.1 with accs := tdel r.1.accs acc }
            (a.complete acc s).deferCause a)

/-! ## STORE_FIFO_DRAIN -/

/-- R14, R24, R25, R229: a store waits for earlier loads of its stream, and of its threads before an export, that are not
held by a cause; a release for every earlier access of the warp. -/
def State.storeHeld (s : State) (w : Nat) (frag : Option Nat) (e : StoreE) : Bool :=
  s.accs.any fun x =>
    decide (x.1 < e.age) && x.2.warp = w &&
      ((e.rel.isSome && !(e.sup && x.2.stuck)) ||
       (!x.2.isStore && !x.2.stuck &&
        ((match frag with | none => !x.2.frag | some i => x.2.frag && x.2.split = i) ||
         x.2.threads &&& e.threads != 0)))

/-- R221: the destination accepts an entry; a release whose scope covers other dies or devices sends its tokens (R453); stores of the control window
write registers last (R182). -/
def State.accept (s : State) (w : Nat) (W : Warp) (frag : Bool) (e : StoreE) : State :=
  let ctl := e.lanes.filter fun x => match x.tgt with | .ctrl _ => true | _ => false
  let p := s.warpPart W
  let far := match e.rel with | some k => s.farScope p k | none => false
  let s := if far then s.sendTokens p W.sc.csr.princ else s
  let s := e.lanes.foldl (fun s x => s.wakeTarget x.tgt) s
  ctl.foldl (fun s x => s.localWrite p e.size false x) (s.acceptStore w frag e)

/-- STORE_FIFO_DRAIN (R221, R207): the oldest entry of the warp's FIFO, or of a slot's store queue, leaves. -/
def execStoreFifoDrain (w : Nat) (frag : Option Nat) (s : State) : Out :=
  .next (match tfind s.warps w with
    | none => s
    | some W =>
      match frag with
      | none =>
        (match W.fifo with
         | [] => s
         | e :: rest =>
           if s.storeHeld w none e then s
           else
             let fewer : Split → Split := fun X => X.modSlot fun f => { f with older := f.older - 1 }
             let W := { W with fifo := rest, splits := W.splits.map fewer }
             (s.putWarp w W).accept w W false e)
      | some i =>
        match (W.split i).bind fun X => X.slot?.map fun f => (X, f) with
        | none => s
        | some (X, f) =>
          match f.queue with
          | [] => s
          | e :: rest =>
            if s.storeHeld w (some i) e then s
            else
              let W := W.setSplit { X with home := .ncore { f with queue := rest } }
              (s.putWarp w W).accept w W true e)

end Sys2Proof.Machine
end

