-- ==== Sys2Proof/Machine/PagePackets.lean ====
section
/-! DEFINITION. The packets that work on pages: COPY (R400), MIGRATE (R32, R33, R442) and TENSOR (R305-R307, R312-R314,
R381). -/

namespace Sys2Proof.Machine

/-! ## Leaves of a range -/

/-- A leaf of a page table: its first virtual address, its size, the address of its entry, and the entry. -/
structure Leaf where
  va : Nat
  size : Nat
  at_ : Nat
  e : Nat
  deriving DecidableEq, Repr

/-- Where a walk ends: a leaf, or the level of the hole. -/
def leafFrom (m : Memory) (va : Nat) : Nat → Nat → Nat → Sum Leaf Nat
  | 0, level, _ => .inr level
  | n + 1, level, table =>
    let a := table + 8 * pteIndex level va
    let e := m.num a 8
    if paInside a 8 && pteValid level e then
      if pteBit e 1 then .inl { va := va / levelBytes level * levelBytes level, size := levelBytes level, at_ := a, e := e }
      else leafFrom m va n (level + 1) (pteFrame e)
    else .inr level

/-- The leaf of an address in a VF's space, or the level of the hole. -/
def leafAt (m : Memory) (v : Vf) (va : Nat) : Sum Leaf Nat := leafFrom m va 4 0 v.ptroot

/-- The leaves that a range touches; a hole is passed over whole. The fuel is a number of pages. -/
def leavesFrom (m : Memory) (v : Vf) (stop : Nat) : Nat → Nat → List Leaf
  | 0, _ => []
  | n + 1, va =>
    if stop ≤ va then []
    else
      match leafAt m v va with
      | .inl x => x :: leavesFrom m v stop n (x.va + x.size)
      | .inr lv =>
        let k := levelBytes lv
        leavesFrom m v stop n (va / k * k + k)

/-- The leaves of n bytes from va on. -/
def leavesOf (m : Memory) (v : Vf) (va n : Nat) : List Leaf := leavesFrom m v (va + n) (n / 65536 + 2) va

/-- Sets or clears a bit of a leaf's entry, and drops what is cached of its range (R321). -/
def State.setLeafBit (s : State) (p bit : Nat) (b : Bool) (x : Leaf) : State :=
  let old := Memory.num s.mem x.at_ 8
  let e := if pteBit old bit == b then old else if b then old + 2 ^ bit else old - 2 ^ bit
  ({ s with mem := Memory.writeN s.mem x.at_ (leBytes 8 e) }).dropRange p x.va x.size true

/-! ## Stamps by page (R33, R339) -/

/-- Tiles of a tensor that overlap some ranges. -/
def tilesIn (asid : Nat) (t : Tensor) (ranges : List (Nat × Nat)) : List Nat :=
  (List.range t.tiles).filter fun i =>
    (tileOf asid t i).pages.any fun a => ranges.any fun r => meets a 65536 r.1 r.2

/-- The stamp store of a packet whose stamp page lies behind a port, or of a VF that migrates, leaves once (R339, R448); one that
the port turns away is not made. -/
def State.feStamp (s : State) (k : Nat) (q : Req) (f : Far) : State :=
  if s.feOut k f.stamp then s
  else
    let r := s.sendFar q.part q.princ f fkWrite 0 2 (leBytes 2 (s.part q.part).lepoch.toNat) false
      { kind := 3, ref := k, sub := f.stamp }
    if r.2 then r.1.feSent k f.stamp else r.1.feDone k f.stamp

/-- Stamps tiles of a tensor for packet k of VF n, once each, and says whether some stamp is still to come: its page belongs to
the host, or waits to be mapped, or it is on its way. One whose page cannot be mapped is not made (R339). -/
def stampEach (k n : Nat) (q : Req) (asid : Nat) (t : Tensor) : List Nat → State → Bool → State × Bool
  | [], s, w => (s, w)
  | i :: is, s, w =>
    let x := tileOf asid t i
    if stampedNow s q x then stampEach k n q asid t is s w
    else
      match stampTile s q t i [] with
      | .ok s _ => stampEach k n q asid t is (markStamped s q x) w
      | .xlate va true lv => stampEach k n q asid t is (s.migFault n va lv true false) true
      | .xlate _ false _ => stampEach k n q asid t is s.feMaps.1 (w || s.feMaps.2)
      | .held => stampEach k n q asid t is s true
      | z =>
        match z.far with
        | none => stampEach k n q asid t is s w
        | some f =>
          if s.feAcked k f.stamp then stampEach k n q asid t is (markStamped s q x) w
          else stampEach k n q asid t is (s.feStamp k q f) true

/-- Registered tensors of an address space that are no views. -/
def State.rootsOf (s : State) (v : Vf) : List Tensor :=
  ((s.part v.part).registered.filter fun k => k.1 = v.asid).filterMap fun k =>
    (s.tensorOf v.part v k.2).filter fun t => t.root = t.id

/-- R339: a command that writes ranges stamps every tile of every registered tensor with stamps that overlaps them; whether
some stamp is still to come. -/
def State.stampRanges (s : State) (k n : Nat) (q : Req) (v : Vf) (ranges : List (Nat × Nat)) : State × Bool :=
  ((s.rootsOf v).filter fun t => !pteBit t.flags 1).foldl (fun r t =>
    stampEach k n q v.asid t (tilesIn v.asid t ranges) r.1 r.2) (s, false)

/-! ## COPY (R400) -/

/-- A write of the front end to OPEN pages counts in OWC (R314, log 33). -/
def State.openPages (s : State) (v : Vf) (va n : Nat) : State :=
  if (leavesOf s.mem v va n).any fun x => pteOpn x.e then s.addOwc v.part else s

/-- What a write that is not begun would meet, if it can not be made (R400). -/
def feRefused (s : State) (n : Nat) (q : Req) (o : FeOp) (va : Nat) (bs : List Byte) : Option PktEnd :=
  if o.writing then none
  else
    match serveWrite s q va bs with
    | .ok _ _ => none
    | z => if z.far.isSome then none else some (feFail s n true z)

/-- COPY: read as a whole, stamped by page, then written. -/
def execCopyPacket : Nat → State → Out :=
  packetEvent (fun x => x.op = 0x30) [(0x10, 24)] fun s n v L x =>
    let src := x.f 0x10 8
    let dst := x.f 0x18 8
    let len := x.f 0x20 8
    let q := feReq s v.part n
    if src % 16 != 0 || dst % 16 != 0 || len % 16 != 0 || len < 16 || 2 ^ 40 < len || physBase < src + len || physBase < dst + len then
      .done s stPktBad 0
    else withFe s n L.queue fun s k o =>
      match (match o.got with | some bs => Sum.inl (s, bs) | none => feReadAt k n q src len s) with
      | .inr z => z
      | .inl (s, bs) =>
        let s := s.modFe k fun o => { o with got := some bs }
        match feRefused s n q o dst bs with
        | some z => z
        | none =>
          let first := dst / 65536 * 65536
          let r := s.stampRanges k n q v [(first, (dst + len + 65535) / 65536 * 65536 - first)]
          if r.2 then .park r.1
          else
            match feWriteAll k n q o (feRuns dst bs) r.1 with
            | .inl s => .done (s.openPages v dst len) 0 0
            | .inr z => z

/-! ## The host's own accesses (R441) -/

/-- Pages of 64 KiB of a VF that the device owns and whose host copies lie in n bytes of host memory. -/
def State.strayPages (s : State) (e : Nat × Vf) (a n : Nat) : List (Nat × Nat) :=
  ((List.range (n / 65536 + 2)).map fun i => ((a - e.2.mirror.toNat) / 65536 + i) * 65536).filterMap fun va =>
    if a < e.2.mirror.toNat + va + 65536 && e.2.mirror.toNat + va < a + n then
      match leafAt s.mem e.2 va with
      | .inl x => if pteHost x.e then none else some (e.1, va)
      | .inr _ => none
    else none

/-- The host writes its memory; a host copy that it does not own is spoiled (R441). -/
def hostStore (s : State) (a : Nat) (bs : List Byte) : State :=
  { s with host := Memory.writeN s.host a bs
           spoiled := (s.spoiled ++ s.vfs.flatMap fun e => s.strayPages e a bs.length).eraseDups }

/-! ## MIGRATE (R442) -/

/-- Bytes of a memory moved to a range of another. -/
def moveBytes (src : Memory) (a : Nat) (dst : Memory) (b n : Nat) : Memory :=
  (src.filter fun e => a ≤ e.1 && e.1 < a + n).foldl (fun m e => Memory.write m (b + (e.1 - a)) e.2) (Memory.zeroN dst b n)

/-- The leaves that a MIGRATE names (log 35), or what it meets: a page is a whole leaf. -/
def migLeaves (m : Memory) (v : Vf) : Nat → Nat → Sum (List Leaf) Nat
  | 0, _ => .inl []
  | n + 1, va =>
    match leafAt m v va with
    | .inr _ => .inr cProt
    | .inl x =>
      if va != x.va then .inr stPktBad
      else
        match migLeaves m v n (x.va + x.size) with
        | .inl xs => .inl (x :: xs)
        | .inr z => .inr z

/-- Step 1: what the tile cache holds of a page by its frame, as behind a window, is written back and dropped too. -/
def State.flushFrame (s : State) (p frame n : Nat) : State :=
  s.flushPart p (fun e => e.grans.any fun g => g.2 != 0 && frame ≤ g.1 && g.1 < frame + n) true false

/-- Steps 1 and 2 for one leaf that changes its owner; the data of a page whose host copy was written meanwhile are undefined
(R441). -/
def State.migrateLeaf (s : State) (n : Nat) (v : Vf) (toHost : Bool) (x : Leaf) : State :=
  let mirror := v.mirror.toNat + x.va
  let s := s.flushFrame v.part (pteFrame x.e) x.size
  let bad := s.spoiled.any fun r => r.1 = n && x.va ≤ r.2 && r.2 < x.va + x.size
  let s := { s with spoiled := s.spoiled.filter fun r => !(r.1 = n && x.va ≤ r.2 && r.2 < x.va + x.size)
                    draws := if bad then s.draws + x.size else s.draws }
  let free := freeBytes (s.draws - x.size) x.size
  if toHost then
    let s := s.setLeafBit v.part 6 true x
    { s with host := if bad then Memory.writeN s.host mirror free else moveBytes s.mem (pteFrame x.e) s.host mirror x.size }
  else
    let s := { s with mem :=
      if bad then Memory.writeN s.mem (pteFrame x.e) free else moveBytes s.host mirror s.mem (pteFrame x.e) x.size }
    let s := s.setLeafBit v.part 6 false x
    let gone := fun (r : Nat × Nat × Nat × Bool) => x.va ≤ r.1 && r.1 < x.va + x.size
    { s with vfs := tmod s.vfs n fun (v : Vf) => { v with migReqs := v.migReqs.filter fun r => !gone r } }.mrqFlush n

/-- Step 3: the pages that have changed their owner are stamped; the packet waits for each stamp (R33, R339). -/
def migrateStamps (s : State) (k n : Nat) (v : Vf) (ranges : List (Nat × Nat)) : PktEnd :=
  let r := s.stampRanges k n (feReq s v.part n) v ranges
  if r.2 then .park (r.1.modFe k fun o => { o with ranges := some ranges }) else .done r.1 0 0

/-- MIGRATE in one direction: pages that the owner already holds are skipped. -/
def migrate (toHost : Bool) (s : State) (n : Nat) (v : Vf) (L : Lane) (x : Pkt) : PktEnd :=
  let va := x.f 0x10 8
  let k := x.f 0x18 4
  if va % 65536 != 0 || k = 0 || 2 ^ 20 < k then .done s stPktBad 0
  else withFe s n L.queue fun s m o =>
   if let some rs := o.ranges then migrateStamps s m n v rs
   else if (s.part v.part).tuBusy then .hold
   else
    match migLeaves s.mem v k va with
    | .inr z => .done s z (if z = cProt then 0x13 else 0)
    | .inl xs =>
      let todo := xs.filter fun x => pteHost x.e != toHost
      if todo.any fun x => !(match paRegion (pteFrame x.e) with | some r => s.inPart v.part r | none => false) then
        .done s cProt 0x50
      else
        let s := todo.foldl (fun s x => s.migrateLeaf n v toHost x) s
        migrateStamps s m n v (todo.map fun x => (x.va, x.size))

/-- MIGRATE with TO = 1. -/
def execMigrateToHost : Nat → State → Out :=
  packetEvent (fun x => x.op = 0x40 && x.f 0x1C 4 = 1) [(0x10, 16)] (migrate true)

/-- MIGRATE with TO = 0; any other value of TO is PKT_BAD. -/
def execMigrateToDevice : Nat → State → Out :=
  packetEvent (fun x => x.op = 0x40 && x.f 0x1C 4 != 1) [(0x10, 16)] fun s n v L x =>
    if x.f 0x1C 4 = 0 then migrate false s n v L x else .done s stPktBad 0

/-! ## TENSOR (R305-R307, R312-R314) -/

/-- Bits of an element times the count, in bytes, over a dimension. -/
def elemBytes (format : Nat) : Nat := fmtBits format / 8

/-- R306, R307: a descriptor that the TENSOR command takes. m holds it at address 0. -/
def tensorOk (m : Memory) : Bool :=
  let t := readTensor m 0 0
  let ext := words12 m 0x20 4
  let str := words12 m 0x50 6
  let txt := words12 m 0x98 2
  t.base % 16 = 0 && 1 ≤ t.rank && t.rank ≤ 12 && t.format ≤ 6 && t.swizzle ≤ 3 && m.num 0x0B 1 ≤ 1 && m.num 0x0F 1 = 0 &&
  t.flags < 16 && m.num 0x14 4 = 0 && t.stamps % 256 = 0 && (!pteBit t.flags 1 || t.stamps = 0) &&
  t.extent.all (1 ≤ ·) && t.text.all (1 ≤ ·) &&
  (ext.drop t.rank).all (· = 0) && (str.drop t.rank).all (· = 0) && (txt.drop t.rank).all (· = 0) &&
  (Memory.readN m 0xB0 80).all (· = 0) &&
  str.headD 0 = (if t.format = 5 then 0 else elemBytes t.format) && ((t.stride.drop 1).all fun x => x % 16 = 0) &&
  t.text.headD 0 * fmtBits t.format % 128 = 0 && t.tileBytes ≤ 4096 && t.tiles ≤ 2 ^ 40

/-- The pages of a footprint, as ranges of leaves; a hole counts by pages of 64 KiB. -/
def State.footPages (s : State) (v : Vf) (t : Tensor) : Nat × Nat :=
  let page := fun (a : Nat) => match leafAt s.mem v a with
    | .inl x => (x.va, x.va + x.size)
    | .inr _ => (a / 65536 * 65536, a / 65536 * 65536 + 65536)
  ((page t.base).1, (page (t.footEnd - 1)).2)

/-- R312: two footprints share a page. -/
def State.sharePage (s : State) (v : Vf) (t u : Tensor) : Bool :=
  let a := s.footPages v t
  let b := s.footPages v u
  decide (a.1 < b.2) && decide (b.1 < a.2)

/-- R313: a tensor overlaps another, one of them OWNED. -/
def State.overlapsOwned (s : State) (v : Vf) (t : Tensor) : Bool :=
  (s.rootsOf v).any fun u => u.id != t.id && (!t.isOpen || !u.isOpen) && s.sharePage v t u

/-- R381: n stamp words from an address on are written; one that cannot be is lost (R339). -/
def initStamps (q : Req) (stamp : Nat) : Nat → Nat → State → State
  | 0, _, s => s
  | n + 1, a, s => initStamps q stamp n (a + 2) (feTry s q a (leBytes 2 stamp))

/-- Registers a tensor whose descriptor is bs. -/
def State.registerTensor (s : State) (n : Nat) (v : Vf) (id : Nat) (bs : List Byte) : State :=
  let s := { s with mem := Memory.writeN s.mem (v.desc id) (bs.set 0x0E 0) }
  let t := readTensor s.mem (v.desc id) id
  let leaves := leavesOf s.mem v t.base (t.footEnd - t.base)
  let s := leaves.foldl (fun s x => s.setLeafBit v.part (if t.isOpen then 7 else 8) true x) s
  let P := s.part v.part
  let s := s.setPart v.part { P with registered := (v.asid, id) :: P.registered }
  if pteBit t.flags 1 then s
  else initStamps { feReq s v.part n with rights := false } (((s.part v.part).lepoch - 32768).toNat % 65536) t.tiles t.stamps s

/-- The id of a TENSOR packet, if the command may name it (R305). -/
def Vf.tensorId (v : Vf) (id : Nat) : Bool := 32 ≤ id && id < v.ttlen

/-- TENSOR register, and an ACTION that is not defined. -/
def execTensorRegister : Nat → State → Out :=
  packetEvent (fun x => x.op = 0x50 && x.f 0x14 4 != 1) [(0x10, 16)] fun s n v _ x =>
    let id := x.f 0x10 4
    if x.f 0x14 4 != 0 || 2 ^ 20 ≤ id then .done s stPktBad 0
    else if !v.tensorId id || (s.part v.part).registered.contains (v.asid, id) then .done s stTensorBad 0
    else if (s.part v.part).tuBusy then .hold
    else if !paInside (v.desc id) 256 then .done (s.machineFault v.part v.part) stTensorBad 0
    else
      match feRead s (feReq s v.part n) (x.f 0x18 8) 256 with
      | .inr _ => .done s stTensorBad 0
      | .inl (s, bs) =>
        let m : Memory := Memory.writeN [] 0 bs
        if !tensorOk m then .done s stTensorBad 0
        else if s.overlapsOwned v (readTensor m 0 id) then .done s stTensorOverlap 0
        else .done (s.registerTensor n v id bs) 0 0

/-- Whether an operation captured a tensor, by itself or as the root of a view (R305, R311). -/
def OpKind.names (k : OpKind) (id : Nat) : Bool :=
  let is : Tensor → Bool := fun t => t.id = id || t.root = id
  match k with
  | .copy _ t => (t.map is).getD false
  | .mcast t _ _ _ _ => is t
  | .mma _ t => (t.map is).getD false
  | .tlook t _ => is t
  | .tpref t _ => is t
  | .thalo t _ _ _ _ => is t
  | .tinv t _ => is t
  | .twb t _ _ => is t
  | .tdead t _ _ _ => is t
  | .tview t n _ => is t || n = id
  | .tracex _ t _ _ => (t.map is).getD false
  | _ => false

/-- Unregisters a tensor: its entries are written back and dropped, and its page attributes cleared; OPN stays on pages
that another OPEN tensor shares (log 36). -/
def State.unregisterTensor (s : State) (v : Vf) (id : Nat) : State :=
  let P := s.part v.part
  match s.tensorOf v.part v id with
  | none => s
  | some t =>
    let s := s.setPart v.part (P.unregister v.asid id)
    if t.root != t.id then s
    else
      let s := s.flushPart v.part (fun e => e.asid = v.asid && e.tensor = id) true false
      let others := (s.rootsOf v).filter (·.isOpen)
      let shared := fun (x : Leaf) => t.isOpen && others.any fun u =>
        decide (x.va < (s.footPages v u).2) && decide ((s.footPages v u).1 < x.va + x.size)
      ((leavesOf s.mem v t.base (t.footEnd - t.base)).filter fun x => !shared x).foldl
        (fun s x => s.setLeafBit v.part (if t.isOpen then 7 else 8) false x) s

/-- TENSOR unregister: it waits for the operations that captured the tensor. -/
def execTensorUnregister : Nat → State → Out :=
  packetEvent (fun x => x.op = 0x50 && x.f 0x14 4 = 1) [(0x10, 16)] fun s n v _ x =>
    let id := x.f 0x10 4
    if 2 ^ 20 ≤ id then .done s stPktBad 0
    else if !v.tensorId id || !(s.part v.part).registered.contains (v.asid, id) then .done s stTensorBad 0
    else if s.ops.any fun o => o.2.asid = v.asid && ((tfind s.launches o.2.launch).map (·.vf)) = some n && o.2.kind.names id then
      .park s
    else if (s.part v.part).tuBusy then .hold
    else .done (s.unregisterTensor v id) 0 0

end Sys2Proof.Machine
end

