-- ==== Sys2Proof/Machine/Scalar.lean ====
section
/-! DEFINITION. Scalar arithmetic: UR 0x00-0x13 and UK (R144-R149). -/

namespace Sys2Proof.Machine

/-- R146: SCMP. -/
def scmpIssue (f : RCmp) (s : State) : Out :=
  run s fun c =>
    c.uIssue f.g false (bWords f.b) false (group false f.a 1 f.wA ++ bSrcs f.b false) [] noCause fun c =>
      ((c.setQ f.p (intCond f.c (c.sreg f.a) (c.sB f.b))).advance (bWords f.b)).finish true

/-- R147: SLEA; d and a name pairs. -/
def sleaIssue (f : R3) (s : State) : Out :=
  run s fun c =>
    c.uIssue f.g false (bWords f.b) false (group false f.a 2 f.wA ++ bSrcs f.b false) (group false f.d 2 true) noCause
      fun c => ((c.setSPair f.d (c.sPair f.a + (c.sB f.b).signExtend 64)).advance (bWords f.b)).finish true

/-- A second operand for which the instruction waits whatever its wait bit says. -/
def bWaits : SrcB → SrcB
  | .reg _ r => .reg true r
  | .lit v => .lit v

/-- R148: SSEL is unguarded, its g names the selecting predicate, and it always waits for its sources. -/
def sselIssue (f : R3) (s : State) : Out :=
  run s fun c =>
    c.uIssue 7 false (bWords f.b) true (group false f.a 1 true ++ bSrcs (bWaits f.b) false) (group false f.d 1 true) noCause
      fun c => ((c.setS f.d (if c.qreg f.g then c.sreg f.a else c.sB f.b)).advance (bWords f.b)).finish true

/-- R149: QLOP reads both predicates before it writes. -/
def qlopIssue (f : PLop) (s : State) : Out :=
  run s fun c =>
    c.uIssue f.g false 1 true [] [] noCause fun c =>
      ((c.setQ f.p (predFn f.f (c.qreg f.t) (c.qreg f.u))).advance 1).finish true

/-- SADD (R145): A + B. -/
def execSadd (f : R3) (s : State) : Out := sArith (fun a b => a + b) f s

/-- SSUB (R145): A - B. -/
def execSsub (f : R3) (s : State) : Out := sArith (fun a b => a - b) f s

/-- SMUL (R145): the low half of A * B. -/
def execSmul (f : R3) (s : State) : Out := sArith (fun a b => a * b) f s

/-- SMULH (R145): the high half of the signed product. -/
def execSmulh (f : R3) (s : State) : Out := sArith (fun a b => mulHigh a b) f s

/-- SAND (R145): A AND B. -/
def execSand (f : R3) (s : State) : Out := sArith (fun a b => a &&& b) f s

/-- SOR (R145): A OR B. -/
def execSor (f : R3) (s : State) : Out := sArith (fun a b => a ||| b) f s

/-- SXOR (R145): A XOR B. -/
def execSxor (f : R3) (s : State) : Out := sArith (fun a b => a ^^^ b) f s

/-- SSHL (R145): as SHL. -/
def execSshl (f : R3) (s : State) : Out := sArith (fun a b => shiftL a b) f s

/-- SSHR (R145): as SHR. -/
def execSshr (f : R3) (s : State) : Out := sArith (fun a b => shiftR a b) f s

/-- SSAR (R145): as SAR. -/
def execSsar (f : R3) (s : State) : Out := sArith (fun a b => shiftA a b) f s

/-- SMIN (R145): as IMIN. -/
def execSmin (f : R3) (s : State) : Out := sArith (fun a b => if a.slt b then a else b) f s

/-- SMAX (R145): as IMAX. -/
def execSmax (f : R3) (s : State) : Out := sArith (fun a b => if a.slt b then b else a) f s

/-- SMINU (R145): as IMINU. -/
def execSminu (f : R3) (s : State) : Out := sArith (fun a b => if a.ult b then a else b) f s

/-- SMAXU (R145): as IMAXU. -/
def execSmaxu (f : R3) (s : State) : Out := sArith (fun a b => if a.ult b then b else a) f s

/-- SCMP (R146): the condition into a uniform predicate. -/
def execScmp (f : RCmp) (s : State) : Out := scmpIssue f s

/-- SLEA (R147): A64 + sext64(B). -/
def execSlea (f : R3) (s : State) : Out := sleaIssue f s

/-- SPOPC (R145): as POPC. -/
def execSpopc (f : R2) (s : State) : Out := sArith1 popCount f s

/-- SCLZ (R145): as CLZ. -/
def execSclz (f : R2) (s : State) : Out := sArith1 leadingZeros f s

/-- SSEL (R148): A when q holds, else B; always waits for its sources. -/
def execSsel (f : R3) (s : State) : Out := sselIssue f s

/-- QLOP (R149). -/
def execQlop (f : PLop) (s : State) : Out := qlopIssue f s

/-- SADDK (R144): D + N. -/
def execSaddk (f : K) (s : State) : Out := sArithK (fun x i => x + i) true f s

/-- SMOVK (R144): N. -/
def execSmovk (f : K) (s : State) : Out := sArithK (fun _ i => i) false f s

/-- SANDK (R144): D AND N. -/
def execSandk (f : K) (s : State) : Out := sArithK (fun x i => x &&& i) true f s

/-- SORK (R144): D OR N. -/
def execSork (f : K) (s : State) : Out := sArithK (fun x i => x ||| i) true f s

/-- SXORK (R144): D XOR N. -/
def execSxork (f : K) (s : State) : Out := sArithK (fun x i => x ^^^ i) true f s

/-- SMULK (R144): the low half of D * N. -/
def execSmulk (f : K) (s : State) : Out := sArithK (fun x i => x * i) true f s

/-- SSHLK (R144): D shifted left by U(N). -/
def execSshlk (f : K) (s : State) : Out := sArithK (fun x i => shiftL x i) true f s

/-- SSHRK (R144): D shifted right by U(N). -/
def execSshrk (f : K) (s : State) : Out := sArithK (fun x i => shiftR x i) true f s

end Sys2Proof.Machine
end

