-- ==== Sys2Proof/Machine/Dispatch.lean ====
section
/-! DEFINITION. One arm for each constructor of Instr: one direct call of its meaning. -/

namespace Sys2Proof.Machine

/-- What each instruction and each event does. -/
def exec (i : Instr) (s : State) : Host.Outcome State Fault Refusal :=
  match i with
  | .iadd f => Sys2Proof.Machine.execIadd f s
  | .isub f => Sys2Proof.Machine.execIsub f s
  | .imul f => Sys2Proof.Machine.execImul f s
  | .imulh f => Sys2Proof.Machine.execImulh f s
  | .imulhu f => Sys2Proof.Machine.execImulhu f s
  | .imin f => Sys2Proof.Machine.execImin f s
  | .imax f => Sys2Proof.Machine.execImax f s
  | .iminu f => Sys2Proof.Machine.execIminu f s
  | .imaxu f => Sys2Proof.Machine.execImaxu f s
  | .iabs f => Sys2Proof.Machine.execIabs f s
  | .and f => Sys2Proof.Machine.execAnd f s
  | .or f => Sys2Proof.Machine.execOr f s
  | .xor f => Sys2Proof.Machine.execXor f s
  | .andn f => Sys2Proof.Machine.execAndn f s
  | .shl f => Sys2Proof.Machine.execShl f s
  | .shr f => Sys2Proof.Machine.execShr f s
  | .sar f => Sys2Proof.Machine.execSar f s
  | .rol f => Sys2Proof.Machine.execRol f s
  | .popc f => Sys2Proof.Machine.execPopc f s
  | .clz f => Sys2Proof.Machine.execClz f s
  | .brev f => Sys2Proof.Machine.execBrev f s
  | .leaw f => Sys2Proof.Machine.execLeaw f s
  | .lead f => Sys2Proof.Machine.execLead f s
  | .icmp f => Sys2Proof.Machine.execIcmp f s
  | .fadd f => Sys2Proof.Machine.execFadd f s
  | .fsub f => Sys2Proof.Machine.execFsub f s
  | .fmul f => Sys2Proof.Machine.execFmul f s
  | .fmar f => Sys2Proof.Machine.execFmar f s
  | .fmin f => Sys2Proof.Machine.execFmin f s
  | .fmax f => Sys2Proof.Machine.execFmax f s
  | .fabs f => Sys2Proof.Machine.execFabs f s
  | .fneg f => Sys2Proof.Machine.execFneg f s
  | .fcmp f => Sys2Proof.Machine.execFcmp f s
  | .frnd f => Sys2Proof.Machine.execFrnd f s
  | .frcp f => Sys2Proof.Machine.execFrcp f s
  | .frsq f => Sys2Proof.Machine.execFrsq f s
  | .fsqrt f => Sys2Proof.Machine.execFsqrt f s
  | .fexp2 f => Sys2Proof.Machine.execFexp2 f s
  | .flog2 f => Sys2Proof.Machine.execFlog2 f s
  | .fsin f => Sys2Proof.Machine.execFsin f s
  | .fcos f => Sys2Proof.Machine.execFcos f s
  | .ftanh f => Sys2Proof.Machine.execFtanh f s
  | .hadd2 f => Sys2Proof.Machine.execHadd2 f s
  | .hmul2 f => Sys2Proof.Machine.execHmul2 f s
  | .hmax2 f => Sys2Proof.Machine.execHmax2 f s
  | .cvt f => Sys2Proof.Machine.execCvt f s
  | .k4dec f => Sys2Proof.Machine.execK4dec f s
  | .imad f => Sys2Proof.Machine.execImad f s
  | .bfx f => Sys2Proof.Machine.execBfx f s
  | .bfi f => Sys2Proof.Machine.execBfi f s
  | .sel f => Sys2Proof.Machine.execSel f s
  | .ffma f => Sys2Proof.Machine.execFfma f s
  | .ffman f => Sys2Proof.Machine.execFfman f s
  | .hfma2 f => Sys2Proof.Machine.execHfma2 f s
  | .faddcb f => Sys2Proof.Machine.execFaddcb f s
  | .fmulcb f => Sys2Proof.Machine.execFmulcb f s
  | .fmarcb f => Sys2Proof.Machine.execFmarcb f s
  | .movcb f => Sys2Proof.Machine.execMovcb f s
  | .ldbs f => Sys2Proof.Machine.execLdbs f s
  | .ldbu f => Sys2Proof.Machine.execLdbu f s
  | .ldhs f => Sys2Proof.Machine.execLdhs f s
  | .ldhu f => Sys2Proof.Machine.execLdhu f s
  | .ldw f => Sys2Proof.Machine.execLdw f s
  | .ldd f => Sys2Proof.Machine.execLdd f s
  | .ldq f => Sys2Proof.Machine.execLdq f s
  | .ldp f => Sys2Proof.Machine.execLdp f s
  | .ldacq f => Sys2Proof.Machine.execLdacq f s
  | .stb f => Sys2Proof.Machine.execStb f s
  | .sth f => Sys2Proof.Machine.execSth f s
  | .stw f => Sys2Proof.Machine.execStw f s
  | .std f => Sys2Proof.Machine.execStd f s
  | .stq f => Sys2Proof.Machine.execStq f s
  | .strel f => Sys2Proof.Machine.execStrel f s
  | .ldlf f => Sys2Proof.Machine.execLdlf f s
  | .ldlc f => Sys2Proof.Machine.execLdlc f s
  | .stlf f => Sys2Proof.Machine.execStlf f s
  | .atadd f => Sys2Proof.Machine.execAtadd f s
  | .atmin f => Sys2Proof.Machine.execAtmin f s
  | .atmax f => Sys2Proof.Machine.execAtmax f s
  | .atand f => Sys2Proof.Machine.execAtand f s
  | .ator f => Sys2Proof.Machine.execAtor f s
  | .atxor f => Sys2Proof.Machine.execAtxor f s
  | .atxch f => Sys2Proof.Machine.execAtxch f s
  | .atcas f => Sys2Proof.Machine.execAtcas f s
  | .atfadd f => Sys2Proof.Machine.execAtfadd f s
  | .tldg f => Sys2Proof.Machine.execTldg f s
  | .shfli f => Sys2Proof.Machine.execShfli f s
  | .shflu f => Sys2Proof.Machine.execShflu f s
  | .shfld f => Sys2Proof.Machine.execShfld f s
  | .shflx f => Sys2Proof.Machine.execShflx f s
  | .vote f => Sys2Proof.Machine.execVote f s
  | .ballot f => Sys2Proof.Machine.execBallot f s
  | .redadd f => Sys2Proof.Machine.execRedadd f s
  | .redmin f => Sys2Proof.Machine.execRedmin f s
  | .redmax f => Sys2Proof.Machine.execRedmax f s
  | .redfadd f => Sys2Proof.Machine.execRedfadd f s
  | .readlane f => Sys2Proof.Machine.execReadlane f s
  | .bcast f => Sys2Proof.Machine.execBcast f s
  | .plop f => Sys2Proof.Machine.execPlop f s
  | .brd f => Sys2Proof.Machine.execBrd f s
  | .jmpv f => Sys2Proof.Machine.execJmpv f s
  | .csrv f => Sys2Proof.Machine.execCsrv f s
  | .faddk f => Sys2Proof.Machine.execFaddk f s
  | .fmulk f => Sys2Proof.Machine.execFmulk f s
  | .fmovk f => Sys2Proof.Machine.execFmovk f s
  | .iaddk f => Sys2Proof.Machine.execIaddk f s
  | .imovk f => Sys2Proof.Machine.execImovk f s
  | .andk f => Sys2Proof.Machine.execAndk f s
  | .ork f => Sys2Proof.Machine.execOrk f s
  | .xork f => Sys2Proof.Machine.execXork f s
  | .sadd f => Sys2Proof.Machine.execSadd f s
  | .ssub f => Sys2Proof.Machine.execSsub f s
  | .smul f => Sys2Proof.Machine.execSmul f s
  | .smulh f => Sys2Proof.Machine.execSmulh f s
  | .sand f => Sys2Proof.Machine.execSand f s
  | .sor f => Sys2Proof.Machine.execSor f s
  | .sxor f => Sys2Proof.Machine.execSxor f s
  | .sshl f => Sys2Proof.Machine.execSshl f s
  | .sshr f => Sys2Proof.Machine.execSshr f s
  | .ssar f => Sys2Proof.Machine.execSsar f s
  | .smin f => Sys2Proof.Machine.execSmin f s
  | .smax f => Sys2Proof.Machine.execSmax f s
  | .sminu f => Sys2Proof.Machine.execSminu f s
  | .smaxu f => Sys2Proof.Machine.execSmaxu f s
  | .scmp f => Sys2Proof.Machine.execScmp f s
  | .slea f => Sys2Proof.Machine.execSlea f s
  | .spopc f => Sys2Proof.Machine.execSpopc f s
  | .sclz f => Sys2Proof.Machine.execSclz f s
  | .ssel f => Sys2Proof.Machine.execSsel f s
  | .qlop f => Sys2Proof.Machine.execQlop f s
  | .sldw f => Sys2Proof.Machine.execSldw f s
  | .sldd f => Sys2Proof.Machine.execSldd f s
  | .sldq f => Sys2Proof.Machine.execSldq f s
  | .sstw f => Sys2Proof.Machine.execSstw f s
  | .sstd f => Sys2Proof.Machine.execSstd f s
  | .sldcb f => Sys2Proof.Machine.execSldcb f s
  | .cbset f => Sys2Proof.Machine.execCbset f s
  | .sldacq f => Sys2Proof.Machine.execSldacq f s
  | .sstrel f => Sys2Proof.Machine.execSstrel f s
  | .satadd f => Sys2Proof.Machine.execSatadd f s
  | .satcas f => Sys2Proof.Machine.execSatcas f s
  | .waitv f => Sys2Proof.Machine.execWaitv f s
  | .bra f => Sys2Proof.Machine.execBra f s
  | .jmp f => Sys2Proof.Machine.execJmp f s
  | .call f => Sys2Proof.Machine.execCall f s
  | .callr f => Sys2Proof.Machine.execCallr f s
  | .ret f => Sys2Proof.Machine.execRet f s
  | .loop f => Sys2Proof.Machine.execLoop f s
  | .trap f => Sys2Proof.Machine.execTrap f s
  | .eret f => Sys2Proof.Machine.execEret f s
  | .yield f => Sys2Proof.Machine.execYield f s
  | .bkpt f => Sys2Proof.Machine.execBkpt f s
  | .exit f => Sys2Proof.Machine.execExit f s
  | .nop f => Sys2Proof.Machine.execNop f s
  | .sleep f => Sys2Proof.Machine.execSleep f s
  | .csrr f => Sys2Proof.Machine.execCsrr f s
  | .csrw f => Sys2Proof.Machine.execCsrw f s
  | .setfmt f => Sys2Proof.Machine.execSetfmt f s
  | .bar f => Sys2Proof.Machine.execBar f s
  | .bara f => Sys2Proof.Machine.execBara f s
  | .barw f => Sys2Proof.Machine.execBarw f s
  | .cbara f => Sys2Proof.Machine.execCbara f s
  | .cbarw f => Sys2Proof.Machine.execCbarw f s
  | .tbinit f => Sys2Proof.Machine.execTbinit f s
  | .tbarv f => Sys2Proof.Machine.execTbarv f s
  | .tbwait f => Sys2Proof.Machine.execTbwait f s
  | .fenceAcq f => Sys2Proof.Machine.execFenceAcq f s
  | .fenceRel f => Sys2Proof.Machine.execFenceRel f s
  | .fenceAr f => Sys2Proof.Machine.execFenceAr f s
  | .fenceEng f => Sys2Proof.Machine.execFenceEng f s
  | .ftest f => Sys2Proof.Machine.execFtest f s
  | .fmove f => Sys2Proof.Machine.execFmove f s
  | .fcancel f => Sys2Proof.Machine.execFcancel f s
  | .fwait f => Sys2Proof.Machine.execFwait f s
  | .shrmap f => Sys2Proof.Machine.execShrmap f s
  | .sqrd f => Sys2Proof.Machine.execSqrd f s
  | .copy f => Sys2Proof.Machine.execCopy f s
  | .copyx f => Sys2Proof.Machine.execCopyx f s
  | .copyl f => Sys2Proof.Machine.execCopyl f s
  | .mcast f => Sys2Proof.Machine.execMcast f s
  | .fillz f => Sys2Proof.Machine.execFillz f s
  | .mma f => Sys2Proof.Machine.execMma f s
  | .mmaz f => Sys2Proof.Machine.execMmaz f s
  | .accrd f => Sys2Proof.Machine.execAccrd f s
  | .accst f => Sys2Proof.Machine.execAccst f s
  | .accld f => Sys2Proof.Machine.execAccld f s
  | .osld f => Sys2Proof.Machine.execOsld f s
  | .topkr f => Sys2Proof.Machine.execTopkr f s
  | .tlook f => Sys2Proof.Machine.execTlook f s
  | .tpref f => Sys2Proof.Machine.execTpref f s
  | .thalo f => Sys2Proof.Machine.execThalo f s
  | .tinv f => Sys2Proof.Machine.execTinv f s
  | .twb f => Sys2Proof.Machine.execTwb f s
  | .tdead f => Sys2Proof.Machine.execTdead f s
  | .tview f => Sys2Proof.Machine.execTview f s
  | .launch f => Sys2Proof.Machine.execLaunch f s
  | .join f => Sys2Proof.Machine.execJoin f s
  | .reprint f => Sys2Proof.Machine.execReprint f s
  | .wqpush f => Sys2Proof.Machine.execWqpush f s
  | .wqpop f => Sys2Proof.Machine.execWqpop f s
  | .wqwait f => Sys2Proof.Machine.execWqwait f s
  | .tracex f => Sys2Proof.Machine.execTracex f s
  | .saddk f => Sys2Proof.Machine.execSaddk f s
  | .smovk f => Sys2Proof.Machine.execSmovk f s
  | .sandk f => Sys2Proof.Machine.execSandk f s
  | .sork f => Sys2Proof.Machine.execSork f s
  | .sxork f => Sys2Proof.Machine.execSxork f s
  | .smulk f => Sys2Proof.Machine.execSmulk f s
  | .sshlk f => Sys2Proof.Machine.execSshlk f s
  | .sshrk f => Sys2Proof.Machine.execSshrk f s
  | .collectorDispatch core n => Sys2Proof.Machine.execCollectorDispatch core n s
  | .resultWriteback core n => Sys2Proof.Machine.execResultWriteback core n s
  | .longLatencyResult acc => Sys2Proof.Machine.execLongLatencyResult acc s
  | .sfuResult op => Sys2Proof.Machine.execSfuResult op s
  | .reductionComplete w n => Sys2Proof.Machine.execReductionComplete w n s
  | .storeFifoDrain w frag => Sys2Proof.Machine.execStoreFifoDrain w frag s
  | .constantFill w sp => Sys2Proof.Machine.execConstantFill w sp s
  | .rejoinDeadlockDetect w => Sys2Proof.Machine.execRejoinDeadlockDetect w s
  | .sleepExpire w sp => Sys2Proof.Machine.execSleepExpire w sp s
  | .waitvWake w sp => Sys2Proof.Machine.execWaitvWake w sp s
  | .deferredCauseRaise w => Sys2Proof.Machine.execDeferredCauseRaise w s
  | .deferredEngineCause w => Sys2Proof.Machine.execDeferredEngineCause w s
  | .supervisorTrapEntry w => Sys2Proof.Machine.execSupervisorTrapEntry w s
  | .exportMsg w sp => Sys2Proof.Machine.execExportMsg w sp s
  | .pullreq w sp r => Sys2Proof.Machine.execPullreq w sp r s
  | .pulldata w sp r => Sys2Proof.Machine.execPulldata w sp r s
  | .overpush w sp r => Sys2Proof.Machine.execOverpush w sp r s
  | .backpush w sp r => Sys2Proof.Machine.execBackpush w sp r s
  | .sread w sp => Sys2Proof.Machine.execSread w sp s
  | .swrite w => Sys2Proof.Machine.execSwrite w s
  | .bararr w sp => Sys2Proof.Machine.execBararr w sp s
  | .barrierCompletionMessage w sp => Sys2Proof.Machine.execBarrierCompletionMessage w sp s
  | .joindec w sp => Sys2Proof.Machine.execJoindec w sp s
  | .cause w sp => Sys2Proof.Machine.execCause w sp s
  | .fragmentRecall w sp => Sys2Proof.Machine.execFragmentRecall w sp s
  | .fragmentCauseDelivery w => Sys2Proof.Machine.execFragmentCauseDelivery w s
  | .copyUnitDelivered op u => Sys2Proof.Machine.execCopyUnitDelivered op u s
  | .copyOpComplete op => Sys2Proof.Machine.execCopyOpComplete op s
  | .tileRequest acc k => Sys2Proof.Machine.execTileRequest acc k s
  | .pageWalkComplete acc k => Sys2Proof.Machine.execPageWalkComplete acc k s
  | .tileFillComplete acc k => Sys2Proof.Machine.execTileFillComplete acc k s
  | .mcastSectorSend op u => Sys2Proof.Machine.execMcastSectorSend op u s
  | .tileOpGrant op => Sys2Proof.Machine.execTileOpGrant op s
  | .tileOpComplete op => Sys2Proof.Machine.execTileOpComplete op s
  | .tinvSweepDone op => Sys2Proof.Machine.execTinvSweepDone op s
  | .deadlineFillStart region => Sys2Proof.Machine.execDeadlineFillStart region s
  | .deadlineFillCancel region n => Sys2Proof.Machine.execDeadlineFillCancel region n s
  | .reservationGrant op => Sys2Proof.Machine.execReservationGrant op s
  | .matrixOpComplete op => Sys2Proof.Machine.execMatrixOpComplete op s
  | .osldPageLoaded op => Sys2Proof.Machine.execOsldPageLoaded op s
  | .gangLatchTimeout cluster n => Sys2Proof.Machine.execGangLatchTimeout cluster n s
  | .aFetchXlateFault op => Sys2Proof.Machine.execAFetchXlateFault op s
  | .launchReady l => Sys2Proof.Machine.execLaunchReady l s
  | .blockDispatch l ps => Sys2Proof.Machine.execBlockDispatch l ps s
  | .blockStopped b => Sys2Proof.Machine.execBlockStopped b s
  | .blockResume b ps => Sys2Proof.Machine.execBlockResume b ps s
  | .preemptSoftDeadline b => Sys2Proof.Machine.execPreemptSoftDeadline b s
  | .preemptHardDeadline b => Sys2Proof.Machine.execPreemptHardDeadline b s
  | .blockEnd b => Sys2Proof.Machine.execBlockEnd b s
  | .launchComplete l => Sys2Proof.Machine.execLaunchComplete l s
  | .stampSweepDone part => Sys2Proof.Machine.execStampSweepDone part s
  | .reprintSelect l => Sys2Proof.Machine.execReprintSelect l s
  | .orphanFormation l => Sys2Proof.Machine.execOrphanFormation l s
  | .serveQueue lane => Sys2Proof.Machine.execServeQueue lane s
  | .parkedQueueWake vf q => Sys2Proof.Machine.execParkedQueueWake vf q s
  | .timeSliceEnd part => Sys2Proof.Machine.execTimeSliceEnd part s
  | .fencePacket lane => Sys2Proof.Machine.execFencePacket lane s
  | .signalPacket lane => Sys2Proof.Machine.execSignalPacket lane s
  | .launchPacket lane => Sys2Proof.Machine.execLaunchPacket lane s
  | .reprintPacket lane => Sys2Proof.Machine.execReprintPacket lane s
  | .feed lane => Sys2Proof.Machine.execFeed lane s
  | .copyPacket lane => Sys2Proof.Machine.execCopyPacket lane s
  | .migrateToHost lane => Sys2Proof.Machine.execMigrateToHost lane s
  | .migrateToDevice lane => Sys2Proof.Machine.execMigrateToDevice lane s
  | .tensorRegister lane => Sys2Proof.Machine.execTensorRegister lane s
  | .tensorUnregister lane => Sys2Proof.Machine.execTensorUnregister lane s
  | .wqcfgConfigure lane => Sys2Proof.Machine.execWqcfgConfigure lane s
  | .wqcfgClose lane => Sys2Proof.Machine.execWqcfgClose lane s
  | .wqcfgFree lane => Sys2Proof.Machine.execWqcfgFree lane s
  | .dcset lane => Sys2Proof.Machine.execDcset lane s
  | .nopPacket lane => Sys2Proof.Machine.execNopPacket lane s
  | .queueNotify vf v => Sys2Proof.Machine.execQueueNotify vf v s
  | .featureNegotiation vf => Sys2Proof.Machine.execFeatureNegotiation vf s
  | .vfCreate part vf => Sys2Proof.Machine.execVfCreate part vf s
  | .vfFlr part vf => Sys2Proof.Machine.execVfFlr part vf s
  | .vfDestroy part vf => Sys2Proof.Machine.execVfDestroy part vf s
  | .migFreeze part vf => Sys2Proof.Machine.execMigFreeze part vf s
  | .vfFrozen part => Sys2Proof.Machine.execVfFrozen part s
  | .gatePark region rq => Sys2Proof.Machine.execGatePark region rq s
  | .migResume part vf => Sys2Proof.Machine.execMigResume part vf s
  | .migReplay part vf => Sys2Proof.Machine.execMigReplay part vf s
  | .replayDone part => Sys2Proof.Machine.execReplayDone part s
  | .migAbort part vf => Sys2Proof.Machine.execMigAbort part vf s
  | .partitionShape part v => Sys2Proof.Machine.execPartitionShape part v s
  | .partitionRun part => Sys2Proof.Machine.execPartitionRun part s
  | .partitionSuspend part => Sys2Proof.Machine.execPartitionSuspend part s
  | .partitionSuspended part => Sys2Proof.Machine.execPartitionSuspended part s
  | .remapCommit part => Sys2Proof.Machine.execRemapCommit part s
  | .remapCopyDone part => Sys2Proof.Machine.execRemapCopyDone part s
  | .tableUpdate part => Sys2Proof.Machine.execTableUpdate part s
  | .tableUpdateDone part => Sys2Proof.Machine.execTableUpdateDone part s
  | .tccfgWrite part v => Sys2Proof.Machine.execTccfgWrite part v s
  | .polbaseWrite part v => Sys2Proof.Machine.execPolbaseWrite part v s
  | .debugResume part v => Sys2Proof.Machine.execDebugResume part v s
  | .debugStep part v => Sys2Proof.Machine.execDebugStep part v s
  | .debugHalt part v => Sys2Proof.Machine.execDebugHalt part v s
  | .regionReset region => Sys2Proof.Machine.execRegionReset region s
  | .regionResetDone region => Sys2Proof.Machine.execRegionResetDone region s
  | .windowOpen region win v => Sys2Proof.Machine.execWindowOpen region win v s
  | .windowClose region win => Sys2Proof.Machine.execWindowClose region win s
  | .windowCloseDone region win => Sys2Proof.Machine.execWindowCloseDone region win s
  | .portAssign port v => Sys2Proof.Machine.execPortAssign port v s
  | .recoveryLoad => Sys2Proof.Machine.execRecoveryLoad s
  | .attestation => Sys2Proof.Machine.execAttestation s
  | .attestationDone => Sys2Proof.Machine.execAttestationDone s
  | .registerWrite sp off size v => Sys2Proof.Machine.execRegisterWrite sp off size v s
  | .packageReset => Sys2Proof.Machine.execPackageReset s
  | .powerCapExceeded watts => Sys2Proof.Machine.execPowerCapExceeded watts s
  | .powerCapRelieved watts => Sys2Proof.Machine.execPowerCapRelieved watts s
  | .thermalHot die degC => Sys2Proof.Machine.execThermalHot die degC s
  | .thermalCool die degC => Sys2Proof.Machine.execThermalCool die degC s
  | .thermalTrip die degC => Sys2Proof.Machine.execThermalTrip die degC s
  | .machineFault region => Sys2Proof.Machine.execMachineFault region s
  | .patrolScrub region hbmErrs sramErrs => Sys2Proof.Machine.execPatrolScrub region hbmErrs sramErrs s
  | .idlePowerEntry region => Sys2Proof.Machine.execIdlePowerEntry region s
  | .powerWake region => Sys2Proof.Machine.execPowerWake region s
  | .portLinkUp port peer => Sys2Proof.Machine.execPortLinkUp port peer s
  | .portLinkDown port => Sys2Proof.Machine.execPortLinkDown port s
  | .readFlit port f => Sys2Proof.Machine.execReadFlit port f s
  | .writeFlit port f => Sys2Proof.Machine.execWriteFlit port f s
  | .atomicFlit port f => Sys2Proof.Machine.execAtomicFlit port f s
  | .reduceFlit port f => Sys2Proof.Machine.execReduceFlit port f s
  | .responseFlit port f => Sys2Proof.Machine.execResponseFlit port f s
  | .fenceFlit port f => Sys2Proof.Machine.execFenceFlit port f s
  | .fenceackFlit port f => Sys2Proof.Machine.execFenceackFlit port f s
  | .undefinedFlit port f => Sys2Proof.Machine.execUndefinedFlit port f s
  | .illegalEncoding w => Sys2Proof.Machine.execIllegalEncoding w s
  | .wqOpComplete op => Sys2Proof.Machine.execWqOpComplete op s
  | .instructionFetch n => Sys2Proof.Machine.execInstructionFetch n s

end Sys2Proof.Machine
end

