-- ==== Sys2Proof/Machine/Pick.lean ====
section
/-! DEFINITION. The issue of the cursor's split, and the default order of issue that an empty agenda leaves (R113, R114,
R189, log 2). -/

namespace Sys2Proof.Machine

/-- R365: PREEMPT is delivered in the cursor's split, if it is due there. -/
def State.preemptCur (s : State) : State :=
  match issuer s with
  | none => s
  | some c => if c.preemptDue then s.preemptWarp c.w else s

/-- The cursor's split issues its next instruction, or takes PREEMPT first. -/
def stepIssue (s : State) : Host.Outcome State Fault Refusal :=
  match fetched s with
  | .idle => .next s.preemptCur
  | .need n => execInstructionFetch n s
  | .instr i => exec i s
  | .illegal w => execIllegalEncoding w s
  | .bound c => .next (c.raise cProt 0x06)

/-- R113: the split could issue or fetch now: it would not stay where it is. -/
def eligible (s : State) (w sp : Nat) : Bool :=
  let s := { s with cur := some (w, sp) }
  match stepIssue s with
  | .next t => t != s
  | _ => false

/-- When the pipe of a split's next instruction last served its warp (R114), or its slot issued (R189). -/
def Warp.lastOf (W : Warp) (X : Split) : Nat :=
  match X.slot? with
  | some f => f.last
  | none =>
    match tfind X.ibuf X.pc.toNat with
    | some w => if w.getLsbD 31 then W.lastU else W.lastV
    | none => W.lastV

/-- The eligible splits: last issue, age, warp and split. -/
def candidates (s : State) : List (Nat × Nat × Nat × Nat) :=
  s.warps.flatMap fun e =>
    (e.2.splits.filter fun X =>
      let c : Ctx := { s := s, w := e.1, W := e.2, sp := X }
      (c.mayIssue || c.preemptDue) && eligible s e.1 X.id).map fun X => (e.2.lastOf X, X.age, e.1, X.id)

/-- One candidate comes before another: least recent first, then the oldest split. -/
def comesFirst (y x : Nat × Nat × Nat × Nat) : Bool := decide (y.1 < x.1) || (y.1 = x.1 && decide (y.2.1 < x.2.1))

/-- The first of a list of candidates. -/
def leastOf : List (Nat × Nat × Nat × Nat) → Option (Nat × Nat × Nat × Nat)
  | [] => none
  | x :: xs =>
    match leastOf xs with
    | none => some x
    | some y => some (if comesFirst y x then y else x)

/-- With an empty agenda, the split that R114 picks on its pipe, of all pipes the one that has waited longest (log 2). -/
def pick (s : State) : Option (Nat × Nat) := (leastOf (candidates s)).map fun x => (x.2.2.1, x.2.2.2)

end Sys2Proof.Machine
end

