-- ==== Sys2Proof/Machine/Step.lean ====
section
/-! DEFINITION. One step: the head of the agenda happens, or, with an empty agenda, the split that R114
picks issues (log 2). withFetchWord places an instruction for the next step (log 1). -/

namespace Sys2Proof.Machine

/-! ## The step -/

/-- An encoded instruction is not an event: only a split performs it. -/
def isEvent (i : Instr) : Bool := (encode i).isNone

/-- What one item of the agenda does. -/
def actRaw (a : Act) (s : State) : Host.Outcome State Fault Refusal :=
  match a with
  | .issue w sp => stepIssue { s with cur := some (w, sp) }
  | .event i => if isEvent i then exec i s else .refused .notAnEvent
  | .tick core frag n => .next (clockTick s core frag n)
  | .tcTick r n => .next (tcTick s r n)
  | .hostWrite a bs => .next (hostStore s a bs)
  | .soft w sp aux => .next (softError s w sp aux)
  | .dataError acc k => .next (dataError s acc k)
  | .engError op page => .next (engineError s op page)
  | .corrected r k => .next (eccCorrected s r k)
  | .evict r sl i => .next (evictEntry s r sl i)
  | .evictL1 cl i => .next (evictLine s cl i)
  | .policyWord p a keep => .next (s.cachePolicy p a keep)
  | .hostReach a n gone => .next (s.setReach a n gone)
  | .pfWrite off size v => .next (s.pfWrite off size v.toNat)

/-- The spill areas follow the stacks (R151), the images of halted warps the state (R185), and a gate's buffer that overflows
aborts its migration (R431). -/
def afterAct (s : State) : Host.Outcome State Fault Refusal → Host.Outcome State Fault Refusal
  | .next t => .next (followHalted s (followSpill s t)).overflowed
  | .fault f => .fault f
  | .refused r => .refused r

/-- One item of the agenda happens. -/
def act (a : Act) (s : State) : Host.Outcome State Fault Refusal := afterAct s (actRaw a s)

/-- What the next step does: the head of the agenda, or an issue that R114 picks, with the agenda after it. -/
def nextAct (s : State) : Option (Act × List Act) :=
  match s.agenda with
  | a :: rest => some (a, rest)
  | [] => (pick s).map fun c => (.issue c.1 c.2, [])

/-- One step. -/
def step (s : State) : Host.Outcome State Fault Refusal :=
  match nextAct s with
  | none => .next s
  | some (a, rest) => act a { s with agenda := rest }

/-! ## Placing an instruction (log 1) -/

/-- The two words of an instruction as an instruction buffer holds them at an offset (R58). -/
def fetchWords (pc : Word) (w : Nat) : Tab Word :=
  [(pc.toNat, BitVec.ofNat 32 w), (pc.toNat + 4, BitVec.ofNat 32 (w / 2 ^ 32))]

/-- A warp of one launch and one block, at its start on core 0 of partition 0, with these words fetched. -/
def placed (s : State) (w : Nat) : State :=
  let n := s.fresh
  let P := s.part 0
  let P := { P with shape := 1, run := true, state := 2, committed := true, unitTab := (List.range 8).map fun i => (i, i) }
  let v : Vf :=
    { part := 0, recIdx := 0, asid := 16, princ := 0, ptroot := 0, ttbase := 0, ttlen := 32, lend := false, vcppa := 0,
      reserve := 0, qslots := 1, dccount := 0, inuse := 1, borrowed := 0, ready := true, featAgreed := 3, dcs := [],
      parked := [], mirror := 0, mrqBase := 0, mrqTail := 0, mrqHead := 0, migReqs := [], frozen := false, freezing := false,
      replaying := false, remote := [] }
  let d := { LDesc.none with grid := (1, 1, 1), bd := (32, 1, 1) }
  let L := { newLaunch 1 0 0 0 7 n none none false false none with
    desc := d, phase := .running, next := 1, img := { imageOf (fun _ _ => 0) with codeLen := 4096 } }
  let W := newWarp (n + 1) 0 0 0 allLanes 0 0
  let X := { blankSplit 0 with mask := allLanes, ibuf := fetchWords 0 w }
  { s with
    parts := tset s.parts 0 P, vfs := tset s.vfs 0 v
    launches := tset s.launches n L
    blocks := tset s.blocks (n + 1) (newBlock n 0 (n + 3) 0 0 0 0 0 0 [n + 2])
    groups := tset s.groups (n + 3) { blocks := [n + 1], barPhase := 0 }
    warps := tset s.warps (n + 2) { W with splits := [X] }
    fresh := n + 4, agenda := .issue (n + 2) 0 :: s.agenda }

/-- The split that the next step lets issue, if it does. -/
def nextSplit (s : State) : Option (Ctx) :=
  match nextAct s with
  | some (.issue w sp, rest) => (issuer { s with cur := some (w, sp), agenda := rest }).filter Ctx.mayIssue
  | _ => none

/-- s with the instruction whose bits are w where the next step fetches: in the instruction buffer of the split that issues
next, or, where none does, of a warp placed for it. -/
def State.withFetchWord (s : State) (nbits w : Nat) : State :=
  let w := w % 2 ^ nbits
  match nextSplit s with
  | none => placed s w
  | some c =>
    { s with
      warps := tset s.warps c.w (c.W.setSplit { c.sp with ibuf := fetchWords c.sp.pc w })
      agenda := if s.agenda.isEmpty then [.issue c.w c.sp.id] else s.agenda }

end Sys2Proof.Machine
end

