-- ==== Sys2Proof/Laws/PerInstr.lean ====
section
/-! SUPPORT. Decoding and encoding agree, one lemma a constructor: the fields of each format's word
read back (R59-R65), the opcode chooses the reader (R73-R77), and the literal is taken exactly when
the encoder wrote one (R58). -/

set_option linter.unusedSimpArgs false

namespace Sys2Proof.Laws

/-- The low part of a concatenation. -/
theorem low_of_append {v w : Nat} (x : BitVec v) (y : BitVec w) : (x ++ y).extractLsb' 0 w = y := by
  apply BitVec.eq_of_getLsbD_eq
  intro i hi
  simp [BitVec.getLsbD_append, hi]

theorem cut33h (x y : BitVec 3) : BitVec.extractLsb' 3 3 (x ++ y : BitVec 6) = x := by
  have h : (x ++ y : BitVec 6) = (x ++ y : BitVec (3 + 3)) := rfl
  simp (disch := omega) only [h, BitVec.extractLsb'_append_eq_of_le, Nat.sub_self, BitVec.extractLsb'_eq_self]
theorem cut33l (x y : BitVec 3) : BitVec.extractLsb' 0 3 (x ++ y : BitVec 6) = y := low_of_append x y
theorem cut42h (x : BitVec 4) (y : BitVec 2) : BitVec.extractLsb' 2 4 (x ++ y : BitVec 6) = x := by
  have h : (x ++ y : BitVec 6) = (x ++ y : BitVec (4 + 2)) := rfl
  simp (disch := omega) only [h, BitVec.extractLsb'_append_eq_of_le, Nat.sub_self, BitVec.extractLsb'_eq_self]
theorem cut42l (x : BitVec 4) (y : BitVec 2) : BitVec.extractLsb' 0 2 (x ++ y : BitVec 6) = y := low_of_append x y
theorem cut24h (x : BitVec 2) (y : BitVec 4) : BitVec.extractLsb' 4 2 (x ++ y : BitVec 6) = x := by
  have h : (x ++ y : BitVec 6) = (x ++ y : BitVec (2 + 4)) := rfl
  simp (disch := omega) only [h, BitVec.extractLsb'_append_eq_of_le, Nat.sub_self, BitVec.extractLsb'_eq_self]
theorem cut24l (x : BitVec 2) (y : BitVec 4) : BitVec.extractLsb' 0 4 (x ++ y : BitVec 6) = y := low_of_append x y
theorem cut35h (x : BitVec 3) (y : BitVec 5) : BitVec.extractLsb' 5 3 (x ++ y : BitVec 8) = x := by
  have h : (x ++ y : BitVec 8) = (x ++ y : BitVec (3 + 5)) := rfl
  simp (disch := omega) only [h, BitVec.extractLsb'_append_eq_of_le, Nat.sub_self, BitVec.extractLsb'_eq_self]
theorem cut35l (x : BitVec 3) (y : BitVec 5) : BitVec.extractLsb' 0 5 (x ++ y : BitVec 8) = y := low_of_append x y
theorem cut44h (x : BitVec 4) (y : BitVec 4) : BitVec.extractLsb' 4 4 (x ++ y : BitVec 8) = x := by
  have h : (x ++ y : BitVec 8) = (x ++ y : BitVec (4 + 4)) := rfl
  simp (disch := omega) only [h, BitVec.extractLsb'_append_eq_of_le, Nat.sub_self, BitVec.extractLsb'_eq_self]
theorem cut44l (x : BitVec 4) (y : BitVec 4) : BitVec.extractLsb' 0 4 (x ++ y : BitVec 8) = y := low_of_append x y

@[simp] theorem wordR_op (op : BitVec 8) (g : BitVec 3) (wA : BitVec 1) (wB : BitVec 1) (l : BitVec 1) (d : BitVec 6) (a : BitVec 6) (b : BitVec 6) :
    fld (wordR op g wA wB l d a b) 24 8 = op := by
  have h : wordR op g wA wB l d a b = (op ++ g ++ wA ++ wB ++ l ++ d ++ a ++ b : BitVec (8+3+1+1+1+6+6+6)) := rfl
  simp (disch := omega) only [h, fld, BitVec.extractLsb'_append_eq_of_le, Nat.sub_self, Nat.reduceSub, low_of_append,
    BitVec.extractLsb'_eq_self]
@[simp] theorem wordR_g (op : BitVec 8) (g : BitVec 3) (wA : BitVec 1) (wB : BitVec 1) (l : BitVec 1) (d : BitVec 6) (a : BitVec 6) (b : BitVec 6) :
    fld (wordR op g wA wB l d a b) 21 3 = g := by
  have h : wordR op g wA wB l d a b = (op ++ g ++ wA ++ wB ++ l ++ d ++ a ++ b : BitVec (8+3+1+1+1+6+6+6)) := rfl
  simp (disch := omega) only [h, fld, BitVec.extractLsb'_append_eq_of_le, Nat.sub_self, Nat.reduceSub, low_of_append,
    BitVec.extractLsb'_eq_self]
@[simp] theorem wordR_wA (op : BitVec 8) (g : BitVec 3) (wA : BitVec 1) (wB : BitVec 1) (l : BitVec 1) (d : BitVec 6) (a : BitVec 6) (b : BitVec 6) :
    fld (wordR op g wA wB l d a b) 20 1 = wA := by
  have h : wordR op g wA wB l d a b = (op ++ g ++ wA ++ wB ++ l ++ d ++ a ++ b : BitVec (8+3+1+1+1+6+6+6)) := rfl
  simp (disch := omega) only [h, fld, BitVec.extractLsb'_append_eq_of_le, Nat.sub_self, Nat.reduceSub, low_of_append,
    BitVec.extractLsb'_eq_self]
@[simp] theorem wordR_wB (op : BitVec 8) (g : BitVec 3) (wA : BitVec 1) (wB : BitVec 1) (l : BitVec 1) (d : BitVec 6) (a : BitVec 6) (b : BitVec 6) :
    fld (wordR op g wA wB l d a b) 19 1 = wB := by
  have h : wordR op g wA wB l d a b = (op ++ g ++ wA ++ wB ++ l ++ d ++ a ++ b : BitVec (8+3+1+1+1+6+6+6)) := rfl
  simp (disch := omega) only [h, fld, BitVec.extractLsb'_append_eq_of_le, Nat.sub_self, Nat.reduceSub, low_of_append,
    BitVec.extractLsb'_eq_self]
@[simp] theorem wordR_l (op : BitVec 8) (g : BitVec 3) (wA : BitVec 1) (wB : BitVec 1) (l : BitVec 1) (d : BitVec 6) (a : BitVec 6) (b : BitVec 6) :
    fld (wordR op g wA wB l d a b) 18 1 = l := by
  have h : wordR op g wA wB l d a b = (op ++ g ++ wA ++ wB ++ l ++ d ++ a ++ b : BitVec (8+3+1+1+1+6+6+6)) := rfl
  simp (disch := omega) only [h, fld, BitVec.extractLsb'_append_eq_of_le, Nat.sub_self, Nat.reduceSub, low_of_append,
    BitVec.extractLsb'_eq_self]
@[simp] theorem wordR_d (op : BitVec 8) (g : BitVec 3) (wA : BitVec 1) (wB : BitVec 1) (l : BitVec 1) (d : BitVec 6) (a : BitVec 6) (b : BitVec 6) :
    fld (wordR op g wA wB l d a b) 12 6 = d := by
  have h : wordR op g wA wB l d a b = (op ++ g ++ wA ++ wB ++ l ++ d ++ a ++ b : BitVec (8+3+1+1+1+6+6+6)) := rfl
  simp (disch := omega) only [h, fld, BitVec.extractLsb'_append_eq_of_le, Nat.sub_self, Nat.reduceSub, low_of_append,
    BitVec.extractLsb'_eq_self]
@[simp] theorem wordR_a (op : BitVec 8) (g : BitVec 3) (wA : BitVec 1) (wB : BitVec 1) (l : BitVec 1) (d : BitVec 6) (a : BitVec 6) (b : BitVec 6) :
    fld (wordR op g wA wB l d a b) 6 6 = a := by
  have h : wordR op g wA wB l d a b = (op ++ g ++ wA ++ wB ++ l ++ d ++ a ++ b : BitVec (8+3+1+1+1+6+6+6)) := rfl
  simp (disch := omega) only [h, fld, BitVec.extractLsb'_append_eq_of_le, Nat.sub_self, Nat.reduceSub, low_of_append,
    BitVec.extractLsb'_eq_self]
@[simp] theorem wordR_b (op : BitVec 8) (g : BitVec 3) (wA : BitVec 1) (wB : BitVec 1) (l : BitVec 1) (d : BitVec 6) (a : BitVec 6) (b : BitVec 6) :
    fld (wordR op g wA wB l d a b) 0 6 = b := by
  have h : wordR op g wA wB l d a b = (op ++ g ++ wA ++ wB ++ l ++ d ++ a ++ b : BitVec (8+3+1+1+1+6+6+6)) := rfl
  simp (disch := omega) only [h, fld, BitVec.extractLsb'_append_eq_of_le, Nat.sub_self, Nat.reduceSub, low_of_append,
    BitVec.extractLsb'_eq_self]
@[simp] theorem wordR_d_3_3 (op : BitVec 8) (g : BitVec 3) (wA : BitVec 1) (wB : BitVec 1) (l : BitVec 1) (d : BitVec 6) (a : BitVec 6) (b : BitVec 6) :
    fld (wordR op g wA wB l d a b) 15 3 = d.extractLsb' 3 3 := by
  have h : wordR op g wA wB l d a b = (op ++ g ++ wA ++ wB ++ l ++ d ++ a ++ b : BitVec (8+3+1+1+1+6+6+6)) := rfl
  simp (disch := omega) only [h, fld, BitVec.extractLsb'_append_eq_of_le, BitVec.extractLsb'_append_eq_of_add_le,
    Nat.sub_self, Nat.reduceSub]
@[simp] theorem wordR_d_0_3 (op : BitVec 8) (g : BitVec 3) (wA : BitVec 1) (wB : BitVec 1) (l : BitVec 1) (d : BitVec 6) (a : BitVec 6) (b : BitVec 6) :
    fld (wordR op g wA wB l d a b) 12 3 = d.extractLsb' 0 3 := by
  have h : wordR op g wA wB l d a b = (op ++ g ++ wA ++ wB ++ l ++ d ++ a ++ b : BitVec (8+3+1+1+1+6+6+6)) := rfl
  simp (disch := omega) only [h, fld, BitVec.extractLsb'_append_eq_of_le, BitVec.extractLsb'_append_eq_of_add_le,
    Nat.sub_self, Nat.reduceSub]
@[simp] theorem wordR_d_2_4 (op : BitVec 8) (g : BitVec 3) (wA : BitVec 1) (wB : BitVec 1) (l : BitVec 1) (d : BitVec 6) (a : BitVec 6) (b : BitVec 6) :
    fld (wordR op g wA wB l d a b) 14 4 = d.extractLsb' 2 4 := by
  have h : wordR op g wA wB l d a b = (op ++ g ++ wA ++ wB ++ l ++ d ++ a ++ b : BitVec (8+3+1+1+1+6+6+6)) := rfl
  simp (disch := omega) only [h, fld, BitVec.extractLsb'_append_eq_of_le, BitVec.extractLsb'_append_eq_of_add_le,
    Nat.sub_self, Nat.reduceSub]
@[simp] theorem wordR_d_0_2 (op : BitVec 8) (g : BitVec 3) (wA : BitVec 1) (wB : BitVec 1) (l : BitVec 1) (d : BitVec 6) (a : BitVec 6) (b : BitVec 6) :
    fld (wordR op g wA wB l d a b) 12 2 = d.extractLsb' 0 2 := by
  have h : wordR op g wA wB l d a b = (op ++ g ++ wA ++ wB ++ l ++ d ++ a ++ b : BitVec (8+3+1+1+1+6+6+6)) := rfl
  simp (disch := omega) only [h, fld, BitVec.extractLsb'_append_eq_of_le, BitVec.extractLsb'_append_eq_of_add_le,
    Nat.sub_self, Nat.reduceSub]
@[simp] theorem wordR_a_0_3 (op : BitVec 8) (g : BitVec 3) (wA : BitVec 1) (wB : BitVec 1) (l : BitVec 1) (d : BitVec 6) (a : BitVec 6) (b : BitVec 6) :
    fld (wordR op g wA wB l d a b) 6 3 = a.extractLsb' 0 3 := by
  have h : wordR op g wA wB l d a b = (op ++ g ++ wA ++ wB ++ l ++ d ++ a ++ b : BitVec (8+3+1+1+1+6+6+6)) := rfl
  simp (disch := omega) only [h, fld, BitVec.extractLsb'_append_eq_of_le, BitVec.extractLsb'_append_eq_of_add_le,
    Nat.sub_self, Nat.reduceSub]
@[simp] theorem wordR_a_3_3 (op : BitVec 8) (g : BitVec 3) (wA : BitVec 1) (wB : BitVec 1) (l : BitVec 1) (d : BitVec 6) (a : BitVec 6) (b : BitVec 6) :
    fld (wordR op g wA wB l d a b) 9 3 = a.extractLsb' 3 3 := by
  have h : wordR op g wA wB l d a b = (op ++ g ++ wA ++ wB ++ l ++ d ++ a ++ b : BitVec (8+3+1+1+1+6+6+6)) := rfl
  simp (disch := omega) only [h, fld, BitVec.extractLsb'_append_eq_of_le, BitVec.extractLsb'_append_eq_of_add_le,
    Nat.sub_self, Nat.reduceSub]
@[simp] theorem wordR_a_2_4 (op : BitVec 8) (g : BitVec 3) (wA : BitVec 1) (wB : BitVec 1) (l : BitVec 1) (d : BitVec 6) (a : BitVec 6) (b : BitVec 6) :
    fld (wordR op g wA wB l d a b) 8 4 = a.extractLsb' 2 4 := by
  have h : wordR op g wA wB l d a b = (op ++ g ++ wA ++ wB ++ l ++ d ++ a ++ b : BitVec (8+3+1+1+1+6+6+6)) := rfl
  simp (disch := omega) only [h, fld, BitVec.extractLsb'_append_eq_of_le, BitVec.extractLsb'_append_eq_of_add_le,
    Nat.sub_self, Nat.reduceSub]
@[simp] theorem wordR_a_0_2 (op : BitVec 8) (g : BitVec 3) (wA : BitVec 1) (wB : BitVec 1) (l : BitVec 1) (d : BitVec 6) (a : BitVec 6) (b : BitVec 6) :
    fld (wordR op g wA wB l d a b) 6 2 = a.extractLsb' 0 2 := by
  have h : wordR op g wA wB l d a b = (op ++ g ++ wA ++ wB ++ l ++ d ++ a ++ b : BitVec (8+3+1+1+1+6+6+6)) := rfl
  simp (disch := omega) only [h, fld, BitVec.extractLsb'_append_eq_of_le, BitVec.extractLsb'_append_eq_of_add_le,
    Nat.sub_self, Nat.reduceSub]
@[simp] theorem wordR_b_0_2 (op : BitVec 8) (g : BitVec 3) (wA : BitVec 1) (wB : BitVec 1) (l : BitVec 1) (d : BitVec 6) (a : BitVec 6) (b : BitVec 6) :
    fld (wordR op g wA wB l d a b) 0 2 = b.extractLsb' 0 2 := by
  have h : wordR op g wA wB l d a b = (op ++ g ++ wA ++ wB ++ l ++ d ++ a ++ b : BitVec (8+3+1+1+1+6+6+6)) := rfl
  simp (disch := omega) only [h, fld, BitVec.extractLsb'_append_eq_of_le, BitVec.extractLsb'_append_eq_of_add_le,
    Nat.sub_self, Nat.reduceSub]
@[simp] theorem wordR_b_2_4 (op : BitVec 8) (g : BitVec 3) (wA : BitVec 1) (wB : BitVec 1) (l : BitVec 1) (d : BitVec 6) (a : BitVec 6) (b : BitVec 6) :
    fld (wordR op g wA wB l d a b) 2 4 = b.extractLsb' 2 4 := by
  have h : wordR op g wA wB l d a b = (op ++ g ++ wA ++ wB ++ l ++ d ++ a ++ b : BitVec (8+3+1+1+1+6+6+6)) := rfl
  simp (disch := omega) only [h, fld, BitVec.extractLsb'_append_eq_of_le, BitVec.extractLsb'_append_eq_of_add_le,
    Nat.sub_self, Nat.reduceSub]
@[simp] theorem wordR_b_0_3 (op : BitVec 8) (g : BitVec 3) (wA : BitVec 1) (wB : BitVec 1) (l : BitVec 1) (d : BitVec 6) (a : BitVec 6) (b : BitVec 6) :
    fld (wordR op g wA wB l d a b) 0 3 = b.extractLsb' 0 3 := by
  have h : wordR op g wA wB l d a b = (op ++ g ++ wA ++ wB ++ l ++ d ++ a ++ b : BitVec (8+3+1+1+1+6+6+6)) := rfl
  simp (disch := omega) only [h, fld, BitVec.extractLsb'_append_eq_of_le, BitVec.extractLsb'_append_eq_of_add_le,
    Nat.sub_self, Nat.reduceSub]
@[simp] theorem wordR_b_3_3 (op : BitVec 8) (g : BitVec 3) (wA : BitVec 1) (wB : BitVec 1) (l : BitVec 1) (d : BitVec 6) (a : BitVec 6) (b : BitVec 6) :
    fld (wordR op g wA wB l d a b) 3 3 = b.extractLsb' 3 3 := by
  have h : wordR op g wA wB l d a b = (op ++ g ++ wA ++ wB ++ l ++ d ++ a ++ b : BitVec (8+3+1+1+1+6+6+6)) := rfl
  simp (disch := omega) only [h, fld, BitVec.extractLsb'_append_eq_of_le, BitVec.extractLsb'_append_eq_of_add_le,
    Nat.sub_self, Nat.reduceSub]
@[simp] theorem wordR_b_0_4 (op : BitVec 8) (g : BitVec 3) (wA : BitVec 1) (wB : BitVec 1) (l : BitVec 1) (d : BitVec 6) (a : BitVec 6) (b : BitVec 6) :
    fld (wordR op g wA wB l d a b) 0 4 = b.extractLsb' 0 4 := by
  have h : wordR op g wA wB l d a b = (op ++ g ++ wA ++ wB ++ l ++ d ++ a ++ b : BitVec (8+3+1+1+1+6+6+6)) := rfl
  simp (disch := omega) only [h, fld, BitVec.extractLsb'_append_eq_of_le, BitVec.extractLsb'_append_eq_of_add_le,
    Nat.sub_self, Nat.reduceSub]
@[simp] theorem wordR_b_4_2 (op : BitVec 8) (g : BitVec 3) (wA : BitVec 1) (wB : BitVec 1) (l : BitVec 1) (d : BitVec 6) (a : BitVec 6) (b : BitVec 6) :
    fld (wordR op g wA wB l d a b) 4 2 = b.extractLsb' 4 2 := by
  have h : wordR op g wA wB l d a b = (op ++ g ++ wA ++ wB ++ l ++ d ++ a ++ b : BitVec (8+3+1+1+1+6+6+6)) := rfl
  simp (disch := omega) only [h, fld, BitVec.extractLsb'_append_eq_of_le, BitVec.extractLsb'_append_eq_of_add_le,
    Nat.sub_self, Nat.reduceSub]
@[simp] theorem wordF_op (op : BitVec 8) (c : BitVec 6) (d : BitVec 6) (a : BitVec 6) (b : BitVec 6) :
    fld (wordF op c d a b) 24 8 = op := by
  have h : wordF op c d a b = (op ++ c ++ d ++ a ++ b : BitVec (8+6+6+6+6)) := rfl
  simp (disch := omega) only [h, fld, BitVec.extractLsb'_append_eq_of_le, Nat.sub_self, Nat.reduceSub, low_of_append,
    BitVec.extractLsb'_eq_self]
@[simp] theorem wordF_c (op : BitVec 8) (c : BitVec 6) (d : BitVec 6) (a : BitVec 6) (b : BitVec 6) :
    fld (wordF op c d a b) 18 6 = c := by
  have h : wordF op c d a b = (op ++ c ++ d ++ a ++ b : BitVec (8+6+6+6+6)) := rfl
  simp (disch := omega) only [h, fld, BitVec.extractLsb'_append_eq_of_le, Nat.sub_self, Nat.reduceSub, low_of_append,
    BitVec.extractLsb'_eq_self]
@[simp] theorem wordF_d (op : BitVec 8) (c : BitVec 6) (d : BitVec 6) (a : BitVec 6) (b : BitVec 6) :
    fld (wordF op c d a b) 12 6 = d := by
  have h : wordF op c d a b = (op ++ c ++ d ++ a ++ b : BitVec (8+6+6+6+6)) := rfl
  simp (disch := omega) only [h, fld, BitVec.extractLsb'_append_eq_of_le, Nat.sub_self, Nat.reduceSub, low_of_append,
    BitVec.extractLsb'_eq_self]
@[simp] theorem wordF_a (op : BitVec 8) (c : BitVec 6) (d : BitVec 6) (a : BitVec 6) (b : BitVec 6) :
    fld (wordF op c d a b) 6 6 = a := by
  have h : wordF op c d a b = (op ++ c ++ d ++ a ++ b : BitVec (8+6+6+6+6)) := rfl
  simp (disch := omega) only [h, fld, BitVec.extractLsb'_append_eq_of_le, Nat.sub_self, Nat.reduceSub, low_of_append,
    BitVec.extractLsb'_eq_self]
@[simp] theorem wordF_b (op : BitVec 8) (c : BitVec 6) (d : BitVec 6) (a : BitVec 6) (b : BitVec 6) :
    fld (wordF op c d a b) 0 6 = b := by
  have h : wordF op c d a b = (op ++ c ++ d ++ a ++ b : BitVec (8+6+6+6+6)) := rfl
  simp (disch := omega) only [h, fld, BitVec.extractLsb'_append_eq_of_le, Nat.sub_self, Nat.reduceSub, low_of_append,
    BitVec.extractLsb'_eq_self]
@[simp] theorem wordM_op (op : BitVec 8) (g : BitVec 3) (w : BitVec 1) (d : BitVec 6) (a : BitVec 6) (k : BitVec 8) :
    fld (wordM op g w d a k) 24 8 = op := by
  have h : wordM op g w d a k = (op ++ g ++ w ++ d ++ a ++ k : BitVec (8+3+1+6+6+8)) := rfl
  simp (disch := omega) only [h, fld, BitVec.extractLsb'_append_eq_of_le, Nat.sub_self, Nat.reduceSub, low_of_append,
    BitVec.extractLsb'_eq_self]
@[simp] theorem wordM_g (op : BitVec 8) (g : BitVec 3) (w : BitVec 1) (d : BitVec 6) (a : BitVec 6) (k : BitVec 8) :
    fld (wordM op g w d a k) 21 3 = g := by
  have h : wordM op g w d a k = (op ++ g ++ w ++ d ++ a ++ k : BitVec (8+3+1+6+6+8)) := rfl
  simp (disch := omega) only [h, fld, BitVec.extractLsb'_append_eq_of_le, Nat.sub_self, Nat.reduceSub, low_of_append,
    BitVec.extractLsb'_eq_self]
@[simp] theorem wordM_w (op : BitVec 8) (g : BitVec 3) (w : BitVec 1) (d : BitVec 6) (a : BitVec 6) (k : BitVec 8) :
    fld (wordM op g w d a k) 20 1 = w := by
  have h : wordM op g w d a k = (op ++ g ++ w ++ d ++ a ++ k : BitVec (8+3+1+6+6+8)) := rfl
  simp (disch := omega) only [h, fld, BitVec.extractLsb'_append_eq_of_le, Nat.sub_self, Nat.reduceSub, low_of_append,
    BitVec.extractLsb'_eq_self]
@[simp] theorem wordM_d (op : BitVec 8) (g : BitVec 3) (w : BitVec 1) (d : BitVec 6) (a : BitVec 6) (k : BitVec 8) :
    fld (wordM op g w d a k) 14 6 = d := by
  have h : wordM op g w d a k = (op ++ g ++ w ++ d ++ a ++ k : BitVec (8+3+1+6+6+8)) := rfl
  simp (disch := omega) only [h, fld, BitVec.extractLsb'_append_eq_of_le, Nat.sub_self, Nat.reduceSub, low_of_append,
    BitVec.extractLsb'_eq_self]
@[simp] theorem wordM_a (op : BitVec 8) (g : BitVec 3) (w : BitVec 1) (d : BitVec 6) (a : BitVec 6) (k : BitVec 8) :
    fld (wordM op g w d a k) 8 6 = a := by
  have h : wordM op g w d a k = (op ++ g ++ w ++ d ++ a ++ k : BitVec (8+3+1+6+6+8)) := rfl
  simp (disch := omega) only [h, fld, BitVec.extractLsb'_append_eq_of_le, Nat.sub_self, Nat.reduceSub, low_of_append,
    BitVec.extractLsb'_eq_self]
@[simp] theorem wordM_k (op : BitVec 8) (g : BitVec 3) (w : BitVec 1) (d : BitVec 6) (a : BitVec 6) (k : BitVec 8) :
    fld (wordM op g w d a k) 0 8 = k := by
  have h : wordM op g w d a k = (op ++ g ++ w ++ d ++ a ++ k : BitVec (8+3+1+6+6+8)) := rfl
  simp (disch := omega) only [h, fld, BitVec.extractLsb'_append_eq_of_le, Nat.sub_self, Nat.reduceSub, low_of_append,
    BitVec.extractLsb'_eq_self]
@[simp] theorem wordM_k_0_5 (op : BitVec 8) (g : BitVec 3) (w : BitVec 1) (d : BitVec 6) (a : BitVec 6) (k : BitVec 8) :
    fld (wordM op g w d a k) 0 5 = k.extractLsb' 0 5 := by
  have h : wordM op g w d a k = (op ++ g ++ w ++ d ++ a ++ k : BitVec (8+3+1+6+6+8)) := rfl
  simp (disch := omega) only [h, fld, BitVec.extractLsb'_append_eq_of_le, BitVec.extractLsb'_append_eq_of_add_le,
    Nat.sub_self, Nat.reduceSub]
@[simp] theorem wordM_k_5_3 (op : BitVec 8) (g : BitVec 3) (w : BitVec 1) (d : BitVec 6) (a : BitVec 6) (k : BitVec 8) :
    fld (wordM op g w d a k) 5 3 = k.extractLsb' 5 3 := by
  have h : wordM op g w d a k = (op ++ g ++ w ++ d ++ a ++ k : BitVec (8+3+1+6+6+8)) := rfl
  simp (disch := omega) only [h, fld, BitVec.extractLsb'_append_eq_of_le, BitVec.extractLsb'_append_eq_of_add_le,
    Nat.sub_self, Nat.reduceSub]
@[simp] theorem wordM_k_4_4 (op : BitVec 8) (g : BitVec 3) (w : BitVec 1) (d : BitVec 6) (a : BitVec 6) (k : BitVec 8) :
    fld (wordM op g w d a k) 4 4 = k.extractLsb' 4 4 := by
  have h : wordM op g w d a k = (op ++ g ++ w ++ d ++ a ++ k : BitVec (8+3+1+6+6+8)) := rfl
  simp (disch := omega) only [h, fld, BitVec.extractLsb'_append_eq_of_le, BitVec.extractLsb'_append_eq_of_add_le,
    Nat.sub_self, Nat.reduceSub]
@[simp] theorem wordM_k_0_4 (op : BitVec 8) (g : BitVec 3) (w : BitVec 1) (d : BitVec 6) (a : BitVec 6) (k : BitVec 8) :
    fld (wordM op g w d a k) 0 4 = k.extractLsb' 0 4 := by
  have h : wordM op g w d a k = (op ++ g ++ w ++ d ++ a ++ k : BitVec (8+3+1+6+6+8)) := rfl
  simp (disch := omega) only [h, fld, BitVec.extractLsb'_append_eq_of_le, BitVec.extractLsb'_append_eq_of_add_le,
    Nat.sub_self, Nat.reduceSub]
@[simp] theorem wordVB_op (op : BitVec 8) (p : BitVec 3) (n : BitVec 1) (x : BitVec 1) (m : BitVec 1) (t : BitVec 18) :
    fld (wordVB op p n x m t) 24 8 = op := by
  have h : wordVB op p n x m t = (op ++ p ++ n ++ x ++ m ++ t : BitVec (8+3+1+1+1+18)) := rfl
  simp (disch := omega) only [h, fld, BitVec.extractLsb'_append_eq_of_le, Nat.sub_self, Nat.reduceSub, low_of_append,
    BitVec.extractLsb'_eq_self]
@[simp] theorem wordVB_p (op : BitVec 8) (p : BitVec 3) (n : BitVec 1) (x : BitVec 1) (m : BitVec 1) (t : BitVec 18) :
    fld (wordVB op p n x m t) 21 3 = p := by
  have h : wordVB op p n x m t = (op ++ p ++ n ++ x ++ m ++ t : BitVec (8+3+1+1+1+18)) := rfl
  simp (disch := omega) only [h, fld, BitVec.extractLsb'_append_eq_of_le, Nat.sub_self, Nat.reduceSub, low_of_append,
    BitVec.extractLsb'_eq_self]
@[simp] theorem wordVB_n (op : BitVec 8) (p : BitVec 3) (n : BitVec 1) (x : BitVec 1) (m : BitVec 1) (t : BitVec 18) :
    fld (wordVB op p n x m t) 20 1 = n := by
  have h : wordVB op p n x m t = (op ++ p ++ n ++ x ++ m ++ t : BitVec (8+3+1+1+1+18)) := rfl
  simp (disch := omega) only [h, fld, BitVec.extractLsb'_append_eq_of_le, Nat.sub_self, Nat.reduceSub, low_of_append,
    BitVec.extractLsb'_eq_self]
@[simp] theorem wordVB_x (op : BitVec 8) (p : BitVec 3) (n : BitVec 1) (x : BitVec 1) (m : BitVec 1) (t : BitVec 18) :
    fld (wordVB op p n x m t) 19 1 = x := by
  have h : wordVB op p n x m t = (op ++ p ++ n ++ x ++ m ++ t : BitVec (8+3+1+1+1+18)) := rfl
  simp (disch := omega) only [h, fld, BitVec.extractLsb'_append_eq_of_le, Nat.sub_self, Nat.reduceSub, low_of_append,
    BitVec.extractLsb'_eq_self]
@[simp] theorem wordVB_m (op : BitVec 8) (p : BitVec 3) (n : BitVec 1) (x : BitVec 1) (m : BitVec 1) (t : BitVec 18) :
    fld (wordVB op p n x m t) 18 1 = m := by
  have h : wordVB op p n x m t = (op ++ p ++ n ++ x ++ m ++ t : BitVec (8+3+1+1+1+18)) := rfl
  simp (disch := omega) only [h, fld, BitVec.extractLsb'_append_eq_of_le, Nat.sub_self, Nat.reduceSub, low_of_append,
    BitVec.extractLsb'_eq_self]
@[simp] theorem wordVB_t (op : BitVec 8) (p : BitVec 3) (n : BitVec 1) (x : BitVec 1) (m : BitVec 1) (t : BitVec 18) :
    fld (wordVB op p n x m t) 0 18 = t := by
  have h : wordVB op p n x m t = (op ++ p ++ n ++ x ++ m ++ t : BitVec (8+3+1+1+1+18)) := rfl
  simp (disch := omega) only [h, fld, BitVec.extractLsb'_append_eq_of_le, Nat.sub_self, Nat.reduceSub, low_of_append,
    BitVec.extractLsb'_eq_self]
@[simp] theorem wordUB_op (op : BitVec 8) (q : BitVec 3) (n : BitVec 1) (o : BitVec 20) :
    fld (wordUB op q n o) 24 8 = op := by
  have h : wordUB op q n o = (op ++ q ++ n ++ o : BitVec (8+3+1+20)) := rfl
  simp (disch := omega) only [h, fld, BitVec.extractLsb'_append_eq_of_le, Nat.sub_self, Nat.reduceSub, low_of_append,
    BitVec.extractLsb'_eq_self]
@[simp] theorem wordUB_q (op : BitVec 8) (q : BitVec 3) (n : BitVec 1) (o : BitVec 20) :
    fld (wordUB op q n o) 21 3 = q := by
  have h : wordUB op q n o = (op ++ q ++ n ++ o : BitVec (8+3+1+20)) := rfl
  simp (disch := omega) only [h, fld, BitVec.extractLsb'_append_eq_of_le, Nat.sub_self, Nat.reduceSub, low_of_append,
    BitVec.extractLsb'_eq_self]
@[simp] theorem wordUB_n (op : BitVec 8) (q : BitVec 3) (n : BitVec 1) (o : BitVec 20) :
    fld (wordUB op q n o) 20 1 = n := by
  have h : wordUB op q n o = (op ++ q ++ n ++ o : BitVec (8+3+1+20)) := rfl
  simp (disch := omega) only [h, fld, BitVec.extractLsb'_append_eq_of_le, Nat.sub_self, Nat.reduceSub, low_of_append,
    BitVec.extractLsb'_eq_self]
@[simp] theorem wordUB_o (op : BitVec 8) (q : BitVec 3) (n : BitVec 1) (o : BitVec 20) :
    fld (wordUB op q n o) 0 20 = o := by
  have h : wordUB op q n o = (op ++ q ++ n ++ o : BitVec (8+3+1+20)) := rfl
  simp (disch := omega) only [h, fld, BitVec.extractLsb'_append_eq_of_le, Nat.sub_self, Nat.reduceSub, low_of_append,
    BitVec.extractLsb'_eq_self]
@[simp] theorem wordUC_op (op : BitVec 8) (q : BitVec 3) (z : BitVec 3) (d : BitVec 6) (i : BitVec 12) :
    fld (wordUC op q z d i) 24 8 = op := by
  have h : wordUC op q z d i = (op ++ q ++ z ++ d ++ i : BitVec (8+3+3+6+12)) := rfl
  simp (disch := omega) only [h, fld, BitVec.extractLsb'_append_eq_of_le, Nat.sub_self, Nat.reduceSub, low_of_append,
    BitVec.extractLsb'_eq_self]
@[simp] theorem wordUC_q (op : BitVec 8) (q : BitVec 3) (z : BitVec 3) (d : BitVec 6) (i : BitVec 12) :
    fld (wordUC op q z d i) 21 3 = q := by
  have h : wordUC op q z d i = (op ++ q ++ z ++ d ++ i : BitVec (8+3+3+6+12)) := rfl
  simp (disch := omega) only [h, fld, BitVec.extractLsb'_append_eq_of_le, Nat.sub_self, Nat.reduceSub, low_of_append,
    BitVec.extractLsb'_eq_self]
@[simp] theorem wordUC_z (op : BitVec 8) (q : BitVec 3) (z : BitVec 3) (d : BitVec 6) (i : BitVec 12) :
    fld (wordUC op q z d i) 18 3 = z := by
  have h : wordUC op q z d i = (op ++ q ++ z ++ d ++ i : BitVec (8+3+3+6+12)) := rfl
  simp (disch := omega) only [h, fld, BitVec.extractLsb'_append_eq_of_le, Nat.sub_self, Nat.reduceSub, low_of_append,
    BitVec.extractLsb'_eq_self]
@[simp] theorem wordUC_d (op : BitVec 8) (q : BitVec 3) (z : BitVec 3) (d : BitVec 6) (i : BitVec 12) :
    fld (wordUC op q z d i) 12 6 = d := by
  have h : wordUC op q z d i = (op ++ q ++ z ++ d ++ i : BitVec (8+3+3+6+12)) := rfl
  simp (disch := omega) only [h, fld, BitVec.extractLsb'_append_eq_of_le, Nat.sub_self, Nat.reduceSub, low_of_append,
    BitVec.extractLsb'_eq_self]
@[simp] theorem wordUC_i (op : BitVec 8) (q : BitVec 3) (z : BitVec 3) (d : BitVec 6) (i : BitVec 12) :
    fld (wordUC op q z d i) 0 12 = i := by
  have h : wordUC op q z d i = (op ++ q ++ z ++ d ++ i : BitVec (8+3+3+6+12)) := rfl
  simp (disch := omega) only [h, fld, BitVec.extractLsb'_append_eq_of_le, Nat.sub_self, Nat.reduceSub, low_of_append,
    BitVec.extractLsb'_eq_self]
@[simp] theorem wordFence_op (op : BitVec 8) (s : BitVec 3) (k : BitVec 2) (z : BitVec 19) :
    fld (wordFence op s k z) 24 8 = op := by
  have h : wordFence op s k z = (op ++ s ++ k ++ z : BitVec (8+3+2+19)) := rfl
  simp (disch := omega) only [h, fld, BitVec.extractLsb'_append_eq_of_le, Nat.sub_self, Nat.reduceSub, low_of_append,
    BitVec.extractLsb'_eq_self]
@[simp] theorem wordFence_s (op : BitVec 8) (s : BitVec 3) (k : BitVec 2) (z : BitVec 19) :
    fld (wordFence op s k z) 21 3 = s := by
  have h : wordFence op s k z = (op ++ s ++ k ++ z : BitVec (8+3+2+19)) := rfl
  simp (disch := omega) only [h, fld, BitVec.extractLsb'_append_eq_of_le, Nat.sub_self, Nat.reduceSub, low_of_append,
    BitVec.extractLsb'_eq_self]
@[simp] theorem wordFence_k (op : BitVec 8) (s : BitVec 3) (k : BitVec 2) (z : BitVec 19) :
    fld (wordFence op s k z) 19 2 = k := by
  have h : wordFence op s k z = (op ++ s ++ k ++ z : BitVec (8+3+2+19)) := rfl
  simp (disch := omega) only [h, fld, BitVec.extractLsb'_append_eq_of_le, Nat.sub_self, Nat.reduceSub, low_of_append,
    BitVec.extractLsb'_eq_self]
@[simp] theorem wordFence_z (op : BitVec 8) (s : BitVec 3) (k : BitVec 2) (z : BitVec 19) :
    fld (wordFence op s k z) 0 19 = z := by
  have h : wordFence op s k z = (op ++ s ++ k ++ z : BitVec (8+3+2+19)) := rfl
  simp (disch := omega) only [h, fld, BitVec.extractLsb'_append_eq_of_le, Nat.sub_self, Nat.reduceSub, low_of_append,
    BitVec.extractLsb'_eq_self]

/-- A Boolean survives its bit. -/
theorem bit_ofBool (b : Bool) : (BitVec.ofBool b == 1#1) = b := by cases b <;> rfl

/-- The opcode's reader outside VK and UK (R73, R76). -/
def readerOp (op : BitVec 8) : Option Reader :=
  let k := op.toNat
  if k < 0x30 then findRow k rowsV0 else if k < 0x60 then findRow k rowsV1
  else if k < 0xB0 then findRow k rowsU0 else findRow k rowsU1

theorem fld_29 (w : Word) : fld w 29 2 = (fld w 24 8).extractLsb' 5 2 := by
  apply BitVec.eq_of_getLsbD_eq
  intro i hi
  simp [BitVec.getLsbD_extractLsb', hi, show 5 + i < 8 by omega, show 24 + (5 + i) = 29 + i by omega]

theorem readerOf_op (w : Word) (op : BitVec 8) (h : fld w 24 8 = op) (hk : op.extractLsb' 5 2 ≠ 3) :
    readerOf w = readerOp op := by
  unfold readerOf readerOp
  rw [fld_29, h, if_neg hk]

theorem decode_of {w lit : Word} {r : Reader} {i : Instr} (hr : readerOf w = some r) (h : r w lit = .ok i)
    (hw : wellFormed i = true) : decode w lit = .ok i := by
  have hc : check i = none := by simpa [wellFormed] using hw
  simp [decode, readWord, hr, h, hc]

/-- Decoding the encoder's words gives the instruction back, and a literal is taken exactly when one was written. -/
def RoundTrip (i : Instr) (c : Code) : Prop :=
  (∀ l, decode c.word (c.lit.getD l) = .ok i) ∧ takesLiteral c.word = c.lit.isSome

theorem roundTrip_of {i : Instr} {c : Code} {op : BitVec 8} (hw : wellFormed i = true) (r : Reader)
    (hop : fld c.word 24 8 = op) (hk : op.extractLsb' 5 2 ≠ 3) (hr : readerOp op = some r)
    (h : ∀ l, r c.word (c.lit.getD l) = .ok i)
    (hl : (op.toNat == 0x5D || (formatHasL op.toNat && fld c.word 18 1 == 1)) = c.lit.isSome) : RoundTrip i c :=
  ⟨fun l => decode_of (readerOf_op _ op hop hk ▸ hr) (h l) hw, by rw [takesLiteral, hop]; exact hl⟩


theorem R3_round (op : BitVec 8) (mk : R3 → Instr) (f : R3) (hk : op.extractLsb' 5 2 ≠ 3) (hr : readerOp op = some (readR3 mk))
    (hl : formatHasL op.toNat = true) (h5 : op.toNat ≠ 0x5D) (hw : wellFormed (mk f) = true) : RoundTrip (mk f) (f.code op) := by
  rcases f with ⟨g, wA, d, a, ⟨w, r⟩ | v⟩
  all_goals
    refine roundTrip_of hw (readR3 mk) (by simp [R3.code]) hk hr (fun l => ?_) ?_
    · simp [R3.code, readR3, SrcB.waitBit, SrcB.litBit, SrcB.field, SrcB.literal, want, readB, noLit, noWait, noD, noA, noB, bit, bit_ofBool, cut33h, cut33l, cut42h, cut42l, cut24h, cut24l, cut35h, cut35l, cut44h, cut44l]
    · simp [R3.code, SrcB.waitBit, SrcB.litBit, SrcB.field, SrcB.literal, hl, h5]

theorem R2_round (op : BitVec 8) (mk : R2 → Instr) (f : R2) (hk : op.extractLsb' 5 2 ≠ 3) (hr : readerOp op = some (readR2 mk))
    (hl : formatHasL op.toNat = true) (h5 : op.toNat ≠ 0x5D) (hw : wellFormed (mk f) = true) : RoundTrip (mk f) (f.code op) := by
  refine roundTrip_of hw (readR2 mk) (by simp [R2.code]) hk hr (fun l => ?_) ?_
  · simp [R2.code, readR2, want, readB, noLit, noWait, noD, noA, noB, bit, bit_ofBool, cut33h, cut33l, cut42h, cut42l, cut24h, cut24l, cut35h, cut35l, cut44h, cut44l]
  · simp [R2.code, hl, h5]

theorem R1_round (op : BitVec 8) (mk : R1 → Instr) (f : R1) (hk : op.extractLsb' 5 2 ≠ 3) (hr : readerOp op = some (readR1 mk))
    (hl : formatHasL op.toNat = true) (h5 : op.toNat ≠ 0x5D) (hw : wellFormed (mk f) = true) : RoundTrip (mk f) (f.code op) := by
  refine roundTrip_of hw (readR1 mk) (by simp [R1.code]) hk hr (fun l => ?_) ?_
  · simp [R1.code, readR1, want, readB, noLit, noWait, noD, noA, noB, bit, bit_ofBool, cut33h, cut33l, cut42h, cut42l, cut24h, cut24l, cut35h, cut35l, cut44h, cut44l]
  · simp [R1.code, hl, h5]

theorem G_round (op : BitVec 8) (mk : G → Instr) (f : G) (hk : op.extractLsb' 5 2 ≠ 3) (hr : readerOp op = some (readG mk))
    (hl : formatHasL op.toNat = true) (h5 : op.toNat ≠ 0x5D) (hw : wellFormed (mk f) = true) : RoundTrip (mk f) (f.code op) := by
  refine roundTrip_of hw (readG mk) (by simp [G.code]) hk hr (fun l => ?_) ?_
  · simp [G.code, readG, want, readB, noLit, noWait, noD, noA, noB, bit, bit_ofBool, cut33h, cut33l, cut42h, cut42l, cut24h, cut24l, cut35h, cut35l, cut44h, cut44l]
  · simp [G.code, hl, h5]

theorem RCmp_round (op : BitVec 8) (mk : RCmp → Instr) (f : RCmp) (hk : op.extractLsb' 5 2 ≠ 3) (hr : readerOp op = some (readRCmp mk))
    (hl : formatHasL op.toNat = true) (h5 : op.toNat ≠ 0x5D) (hw : wellFormed (mk f) = true) : RoundTrip (mk f) (f.code op) := by
  rcases f with ⟨g, wA, c, p, a, ⟨w, r⟩ | v⟩
  all_goals
    refine roundTrip_of hw (readRCmp mk) (by simp [RCmp.code]) hk hr (fun l => ?_) ?_
    · simp [RCmp.code, readRCmp, SrcB.waitBit, SrcB.litBit, SrcB.field, SrcB.literal, want, readB, noLit, noWait, noD, noA, noB, bit, bit_ofBool, cut33h, cut33l, cut42h, cut42l, cut24h, cut24l, cut35h, cut35l, cut44h, cut44l]
    · simp [RCmp.code, SrcB.waitBit, SrcB.litBit, SrcB.field, SrcB.literal, hl, h5]

theorem RFrnd_round (op : BitVec 8) (mk : RFrnd → Instr) (f : RFrnd) (hk : op.extractLsb' 5 2 ≠ 3) (hr : readerOp op = some (readRFrnd mk))
    (hl : formatHasL op.toNat = true) (h5 : op.toNat ≠ 0x5D) (hw : wellFormed (mk f) = true) : RoundTrip (mk f) (f.code op) := by
  refine roundTrip_of hw (readRFrnd mk) (by simp [RFrnd.code]) hk hr (fun l => ?_) ?_
  · simp [RFrnd.code, readRFrnd, want, readB, noLit, noWait, noD, noA, noB, bit, bit_ofBool, cut33h, cut33l, cut42h, cut42l, cut24h, cut24l, cut35h, cut35l, cut44h, cut44l]
  · simp [RFrnd.code, hl, h5]

theorem RCvt_round (op : BitVec 8) (mk : RCvt → Instr) (f : RCvt) (hk : op.extractLsb' 5 2 ≠ 3) (hr : readerOp op = some (readRCvt mk))
    (hl : formatHasL op.toNat = true) (h5 : op.toNat ≠ 0x5D) (hw : wellFormed (mk f) = true) : RoundTrip (mk f) (f.code op) := by
  refine roundTrip_of hw (readRCvt mk) (by simp [RCvt.code]) hk hr (fun l => ?_) ?_
  · simp [RCvt.code, readRCvt, want, readB, noLit, noWait, noD, noA, noB, bit, bit_ofBool, cut33h, cut33l, cut42h, cut42l, cut24h, cut24l, cut35h, cut35l, cut44h, cut44l]
  · simp [RCvt.code, hl, h5]

theorem Vote_round (op : BitVec 8) (mk : Vote → Instr) (f : Vote) (hk : op.extractLsb' 5 2 ≠ 3) (hr : readerOp op = some (readVote mk))
    (hl : formatHasL op.toNat = true) (h5 : op.toNat ≠ 0x5D) (hw : wellFormed (mk f) = true) : RoundTrip (mk f) (f.code op) := by
  refine roundTrip_of hw (readVote mk) (by simp [Vote.code]) hk hr (fun l => ?_) ?_
  · simp [Vote.code, readVote, want, readB, noLit, noWait, noD, noA, noB, bit, bit_ofBool, cut33h, cut33l, cut42h, cut42l, cut24h, cut24l, cut35h, cut35l, cut44h, cut44l]
  · simp [Vote.code, hl, h5]

theorem Ballot_round (op : BitVec 8) (mk : Ballot → Instr) (f : Ballot) (hk : op.extractLsb' 5 2 ≠ 3) (hr : readerOp op = some (readBallot mk))
    (hl : formatHasL op.toNat = true) (h5 : op.toNat ≠ 0x5D) (hw : wellFormed (mk f) = true) : RoundTrip (mk f) (f.code op) := by
  refine roundTrip_of hw (readBallot mk) (by simp [Ballot.code]) hk hr (fun l => ?_) ?_
  · simp [Ballot.code, readBallot, want, readB, noLit, noWait, noD, noA, noB, bit, bit_ofBool, cut33h, cut33l, cut42h, cut42l, cut24h, cut24l, cut35h, cut35l, cut44h, cut44l]
  · simp [Ballot.code, hl, h5]

theorem Red_round (op : BitVec 8) (mk : Red → Instr) (f : Red) (hk : op.extractLsb' 5 2 ≠ 3) (hr : readerOp op = some (readRed mk))
    (hl : formatHasL op.toNat = true) (h5 : op.toNat ≠ 0x5D) (hw : wellFormed (mk f) = true) : RoundTrip (mk f) (f.code op) := by
  refine roundTrip_of hw (readRed mk) (by simp [Red.code]) hk hr (fun l => ?_) ?_
  · simp [Red.code, readRed, want, readB, noLit, noWait, noD, noA, noB, bit, bit_ofBool, cut33h, cut33l, cut42h, cut42l, cut24h, cut24l, cut35h, cut35l, cut44h, cut44l]
  · simp [Red.code, hl, h5]

theorem PLop_round (op : BitVec 8) (mk : PLop → Instr) (f : PLop) (hk : op.extractLsb' 5 2 ≠ 3) (hr : readerOp op = some (readPLop mk))
    (hl : formatHasL op.toNat = true) (h5 : op.toNat ≠ 0x5D) (hw : wellFormed (mk f) = true) : RoundTrip (mk f) (f.code op) := by
  refine roundTrip_of hw (readPLop mk) (by simp [PLop.code]) hk hr (fun l => ?_) ?_
  · simp [PLop.code, readPLop, want, readB, noLit, noWait, noD, noA, noB, bit, bit_ofBool, cut33h, cut33l, cut42h, cut42l, cut24h, cut24l, cut35h, cut35l, cut44h, cut44l]
  · simp [PLop.code, hl, h5]

theorem JmpV_round (op : BitVec 8) (mk : JmpV → Instr) (f : JmpV) (hk : op.extractLsb' 5 2 ≠ 3) (hr : readerOp op = some (readJmpV mk))
    (hl : formatHasL op.toNat = true) (h5 : op.toNat ≠ 0x5D) (hw : wellFormed (mk f) = true) : RoundTrip (mk f) (f.code op) := by
  rcases f with ⟨wA, a, ⟨w, r⟩ | v⟩
  all_goals
    refine roundTrip_of hw (readJmpV mk) (by simp [JmpV.code]) hk hr (fun l => ?_) ?_
    · simp [JmpV.code, readJmpV, SrcB.waitBit, SrcB.litBit, SrcB.field, SrcB.literal, want, readB, noLit, noWait, noD, noA, noB, bit, bit_ofBool, cut33h, cut33l, cut42h, cut42l, cut24h, cut24l, cut35h, cut35l, cut44h, cut44l]
    · simp [JmpV.code, SrcB.waitBit, SrcB.litBit, SrcB.field, SrcB.literal, hl, h5]

theorem CsrV_round (op : BitVec 8) (mk : CsrV → Instr) (f : CsrV) (hk : op.extractLsb' 5 2 ≠ 3) (hr : readerOp op = some (readCsrV mk))
    (hl : formatHasL op.toNat = true) (h5 : op.toNat ≠ 0x5D) (hw : wellFormed (mk f) = true) : RoundTrip (mk f) (f.code op) := by
  refine roundTrip_of hw (readCsrV mk) (by simp [CsrV.code]) hk hr (fun l => ?_) ?_
  · simp [CsrV.code, readCsrV, want, readB, noLit, noWait, noD, noA, noB, bit, bit_ofBool, cut33h, cut33l, cut42h, cut42l, cut24h, cut24l, cut35h, cut35l, cut44h, cut44l]
  · simp [CsrV.code, hl, h5]

theorem LoopOps_round (op : BitVec 8) (mk : LoopOps → Instr) (f : LoopOps) (hk : op.extractLsb' 5 2 ≠ 3) (hr : readerOp op = some (readLoopOps mk))
    (hl : formatHasL op.toNat = true) (_ : op.toNat ≠ 0x5D) (hw : wellFormed (mk f) = true) : RoundTrip (mk f) (f.code op) := by
  refine roundTrip_of hw (readLoopOps mk) (by simp [LoopOps.code]) hk hr (fun l => ?_) ?_
  · simp [LoopOps.code, readLoopOps, want, readB, noLit, noWait, noD, noA, noB, bit, bit_ofBool, cut33h, cut33l, cut42h, cut42l, cut24h, cut24l, cut35h, cut35l, cut44h, cut44l]
  · simp [LoopOps.code, hl, ]

theorem TrapOps_round (op : BitVec 8) (mk : TrapOps → Instr) (f : TrapOps) (hk : op.extractLsb' 5 2 ≠ 3) (hr : readerOp op = some (readTrapOps mk))
    (hl : formatHasL op.toNat = true) (h5 : op.toNat ≠ 0x5D) (hw : wellFormed (mk f) = true) : RoundTrip (mk f) (f.code op) := by
  refine roundTrip_of hw (readTrapOps mk) (by simp [TrapOps.code]) hk hr (fun l => ?_) ?_
  · simp [TrapOps.code, readTrapOps, want, readB, noLit, noWait, noD, noA, noB, bit, bit_ofBool, cut33h, cut33l, cut42h, cut42l, cut24h, cut24l, cut35h, cut35l, cut44h, cut44l]
  · simp [TrapOps.code, hl, h5]

theorem SleepOps_round (op : BitVec 8) (mk : SleepOps → Instr) (f : SleepOps) (hk : op.extractLsb' 5 2 ≠ 3) (hr : readerOp op = some (readSleepOps mk))
    (hl : formatHasL op.toNat = true) (h5 : op.toNat ≠ 0x5D) (hw : wellFormed (mk f) = true) : RoundTrip (mk f) (f.code op) := by
  rcases f with ⟨g, ⟨w, r⟩ | v⟩
  all_goals
    refine roundTrip_of hw (readSleepOps mk) (by simp [SleepOps.code]) hk hr (fun l => ?_) ?_
    · simp [SleepOps.code, readSleepOps, SrcB.waitBit, SrcB.litBit, SrcB.field, SrcB.literal, want, readB, noLit, noWait, noD, noA, noB, bit, bit_ofBool, cut33h, cut33l, cut42h, cut42l, cut24h, cut24l, cut35h, cut35l, cut44h, cut44l]
    · simp [SleepOps.code, SrcB.waitBit, SrcB.litBit, SrcB.field, SrcB.literal, hl, h5]

theorem SetFmtOps_round (op : BitVec 8) (mk : SetFmtOps → Instr) (f : SetFmtOps) (hk : op.extractLsb' 5 2 ≠ 3) (hr : readerOp op = some (readSetFmtOps mk))
    (hl : formatHasL op.toNat = true) (h5 : op.toNat ≠ 0x5D) (hw : wellFormed (mk f) = true) : RoundTrip (mk f) (f.code op) := by
  rcases f with ⟨g, d, ⟨w, r⟩ | v⟩
  all_goals
    refine roundTrip_of hw (readSetFmtOps mk) (by simp [SetFmtOps.code]) hk hr (fun l => ?_) ?_
    · simp [SetFmtOps.code, readSetFmtOps, SrcB.waitBit, SrcB.litBit, SrcB.field, SrcB.literal, want, readB, noLit, noWait, noD, noA, noB, bit, bit_ofBool, cut33h, cut33l, cut42h, cut42l, cut24h, cut24l, cut35h, cut35l, cut44h, cut44l]
    · simp [SetFmtOps.code, SrcB.waitBit, SrcB.litBit, SrcB.field, SrcB.literal, hl, h5]

theorem TbOps_round (op : BitVec 8) (mk : TbOps → Instr) (f : TbOps) (hk : op.extractLsb' 5 2 ≠ 3) (hr : readerOp op = some (readTbOps mk))
    (hl : formatHasL op.toNat = true) (h5 : op.toNat ≠ 0x5D) (hw : wellFormed (mk f) = true) : RoundTrip (mk f) (f.code op) := by
  rcases f with ⟨g, wA, a, ⟨w, r⟩ | v⟩
  all_goals
    refine roundTrip_of hw (readTbOps mk) (by simp [TbOps.code]) hk hr (fun l => ?_) ?_
    · simp [TbOps.code, readTbOps, SrcB.waitBit, SrcB.litBit, SrcB.field, SrcB.literal, want, readB, noLit, noWait, noD, noA, noB, bit, bit_ofBool, cut33h, cut33l, cut42h, cut42l, cut24h, cut24l, cut35h, cut35l, cut44h, cut44l]
    · simp [TbOps.code, SrcB.waitBit, SrcB.litBit, SrcB.field, SrcB.literal, hl, h5]

theorem FTestOps_round (op : BitVec 8) (mk : FTestOps → Instr) (f : FTestOps) (hk : op.extractLsb' 5 2 ≠ 3) (hr : readerOp op = some (readFTestOps mk))
    (hl : formatHasL op.toNat = true) (h5 : op.toNat ≠ 0x5D) (hw : wellFormed (mk f) = true) : RoundTrip (mk f) (f.code op) := by
  refine roundTrip_of hw (readFTestOps mk) (by simp [FTestOps.code]) hk hr (fun l => ?_) ?_
  · simp [FTestOps.code, readFTestOps, want, readB, noLit, noWait, noD, noA, noB, bit, bit_ofBool, cut33h, cut33l, cut42h, cut42l, cut24h, cut24l, cut35h, cut35l, cut44h, cut44l]
  · simp [FTestOps.code, hl, h5]

theorem FMoveOps_round (op : BitVec 8) (mk : FMoveOps → Instr) (f : FMoveOps) (hk : op.extractLsb' 5 2 ≠ 3) (hr : readerOp op = some (readFMoveOps mk))
    (hl : formatHasL op.toNat = true) (h5 : op.toNat ≠ 0x5D) (hw : wellFormed (mk f) = true) : RoundTrip (mk f) (f.code op) := by
  refine roundTrip_of hw (readFMoveOps mk) (by simp [FMoveOps.code]) hk hr (fun l => ?_) ?_
  · simp [FMoveOps.code, readFMoveOps, want, readB, noLit, noWait, noD, noA, noB, bit, bit_ofBool, cut33h, cut33l, cut42h, cut42l, cut24h, cut24l, cut35h, cut35l, cut44h, cut44l]
  · simp [FMoveOps.code, hl, h5]

theorem SqRdOps_round (op : BitVec 8) (mk : SqRdOps → Instr) (f : SqRdOps) (hk : op.extractLsb' 5 2 ≠ 3) (hr : readerOp op = some (readSqRdOps mk))
    (hl : formatHasL op.toNat = true) (h5 : op.toNat ≠ 0x5D) (hw : wellFormed (mk f) = true) : RoundTrip (mk f) (f.code op) := by
  rcases f with ⟨g, d, n, ⟨w, r⟩ | v⟩
  all_goals
    refine roundTrip_of hw (readSqRdOps mk) (by simp [SqRdOps.code]) hk hr (fun l => ?_) ?_
    · simp [SqRdOps.code, readSqRdOps, SrcB.waitBit, SrcB.litBit, SrcB.field, SrcB.literal, want, readB, noLit, noWait, noD, noA, noB, bit, bit_ofBool, cut33h, cut33l, cut42h, cut42l, cut24h, cut24l, cut35h, cut35l, cut44h, cut44l]
    · simp [SqRdOps.code, SrcB.waitBit, SrcB.litBit, SrcB.field, SrcB.literal, hl, h5]

theorem F4_round (op : BitVec 8) (mk : F4 → Instr) (f : F4) (hk : op.extractLsb' 5 2 ≠ 3) (hr : readerOp op = some (readF4 mk))
    (hl : formatHasL op.toNat = false) (h5 : op.toNat ≠ 0x5D) (hw : wellFormed (mk f) = true) : RoundTrip (mk f) (f.code op) := by
  refine roundTrip_of hw (readF4 mk) (by simp [F4.code]) hk hr (fun l => ?_) ?_
  · simp [F4.code, readF4, want, readB, noLit, noWait, noD, noA, noB, bit, bit_ofBool, cut33h, cut33l, cut42h, cut42l, cut24h, cut24l, cut35h, cut35l, cut44h, cut44l]
  · simp [F4.code, hl, h5]

theorem C3_round (op : BitVec 8) (mk : C3 → Instr) (f : C3) (hk : op.extractLsb' 5 2 ≠ 3) (hr : readerOp op = some (readC3 mk))
    (hl : formatHasL op.toNat = false) (h5 : op.toNat ≠ 0x5D) (hw : wellFormed (mk f) = true) : RoundTrip (mk f) (f.code op) := by
  refine roundTrip_of hw (readC3 mk) (by simp [C3.code]) hk hr (fun l => ?_) ?_
  · simp [C3.code, readC3, want, readB, noLit, noWait, noD, noA, noB, bit, bit_ofBool, cut33h, cut33l, cut42h, cut42l, cut24h, cut24l, cut35h, cut35l, cut44h, cut44l]
  · simp [C3.code, hl, h5]

theorem CMov_round (op : BitVec 8) (mk : CMov → Instr) (f : CMov) (hk : op.extractLsb' 5 2 ≠ 3) (hr : readerOp op = some (readCMov mk))
    (hl : formatHasL op.toNat = false) (h5 : op.toNat ≠ 0x5D) (hw : wellFormed (mk f) = true) : RoundTrip (mk f) (f.code op) := by
  refine roundTrip_of hw (readCMov mk) (by simp [CMov.code]) hk hr (fun l => ?_) ?_
  · simp [CMov.code, readCMov, want, readB, noLit, noWait, noD, noA, noB, bit, bit_ofBool, cut33h, cut33l, cut42h, cut42l, cut24h, cut24l, cut35h, cut35l, cut44h, cut44l]
  · simp [CMov.code, hl, h5]

theorem M_round (op : BitVec 8) (mk : M → Instr) (f : M) (hk : op.extractLsb' 5 2 ≠ 3) (hr : readerOp op = some (readM mk))
    (hl : formatHasL op.toNat = false) (h5 : op.toNat ≠ 0x5D) (hw : wellFormed (mk f) = true) : RoundTrip (mk f) (f.code op) := by
  refine roundTrip_of hw (readM mk) (by simp [M.code]) hk hr (fun l => ?_) ?_
  · simp [M.code, readM, want, readB, noLit, noWait, noD, noA, noB, bit, bit_ofBool, cut33h, cut33l, cut42h, cut42l, cut24h, cut24l, cut35h, cut35l, cut44h, cut44l]
  · simp [M.code, hl, h5]

theorem MS_round (op : BitVec 8) (mk : MS → Instr) (f : MS) (hk : op.extractLsb' 5 2 ≠ 3) (hr : readerOp op = some (readMS mk))
    (hl : formatHasL op.toNat = false) (h5 : op.toNat ≠ 0x5D) (hw : wellFormed (mk f) = true) : RoundTrip (mk f) (f.code op) := by
  refine roundTrip_of hw (readMS mk) (by simp [MS.code]) hk hr (fun l => ?_) ?_
  · simp [MS.code, readMS, want, readB, noLit, noWait, noD, noA, noB, bit, bit_ofBool, cut33h, cut33l, cut42h, cut42l, cut24h, cut24l, cut35h, cut35l, cut44h, cut44l]
  · simp [MS.code, hl, h5]

theorem CbSet_round (op : BitVec 8) (mk : CbSet → Instr) (f : CbSet) (hk : op.extractLsb' 5 2 ≠ 3) (hr : readerOp op = some (readCbSet mk))
    (hl : formatHasL op.toNat = false) (h5 : op.toNat ≠ 0x5D) (hw : wellFormed (mk f) = true) : RoundTrip (mk f) (f.code op) := by
  refine roundTrip_of hw (readCbSet mk) (by simp [CbSet.code]) hk hr (fun l => ?_) ?_
  · simp [CbSet.code, readCbSet, want, readB, noLit, noWait, noD, noA, noB, bit, bit_ofBool, cut33h, cut33l, cut42h, cut42l, cut24h, cut24l, cut35h, cut35l, cut44h, cut44l]
  · simp [CbSet.code, hl, h5]

theorem BrdOps_round (op : BitVec 8) (mk : BrdOps → Instr) (f : BrdOps) (hk : op.extractLsb' 5 2 ≠ 3) (hr : readerOp op = some (readBrdOps mk))
    (h5 : op.toNat = 0x5D) (hw : wellFormed (mk f) = true) : RoundTrip (mk f) (f.code op) := by
  refine roundTrip_of hw (readBrdOps mk) (by simp [BrdOps.code]) hk hr (fun l => ?_) ?_
  · simp [BrdOps.code, readBrdOps, want, readB, noLit, noWait, noD, noA, noB, bit, bit_ofBool, cut33h, cut33l, cut42h, cut42l, cut24h, cut24l, cut35h, cut35l, cut44h, cut44l]
  · simp [BrdOps.code, h5]

theorem UB_round (op : BitVec 8) (mk : UB → Instr) (f : UB) (hk : op.extractLsb' 5 2 ≠ 3) (hr : readerOp op = some (readUB mk))
    (hl : formatHasL op.toNat = false) (h5 : op.toNat ≠ 0x5D) (hw : wellFormed (mk f) = true) : RoundTrip (mk f) (f.code op) := by
  refine roundTrip_of hw (readUB mk) (by simp [UB.code]) hk hr (fun l => ?_) ?_
  · simp [UB.code, readUB, want, readB, noLit, noWait, noD, noA, noB, bit, bit_ofBool, cut33h, cut33l, cut42h, cut42l, cut24h, cut24l, cut35h, cut35l, cut44h, cut44l]
  · simp [UB.code, hl, h5]

theorem UC_round (op : BitVec 8) (mk : UC → Instr) (f : UC) (hk : op.extractLsb' 5 2 ≠ 3) (hr : readerOp op = some (readUC mk))
    (hl : formatHasL op.toNat = false) (h5 : op.toNat ≠ 0x5D) (hw : wellFormed (mk f) = true) : RoundTrip (mk f) (f.code op) := by
  refine roundTrip_of hw (readUC mk) (by simp [UC.code]) hk hr (fun l => ?_) ?_
  · simp [UC.code, readUC, want, readB, noLit, noWait, noD, noA, noB, bit, bit_ofBool, cut33h, cut33l, cut42h, cut42l, cut24h, cut24l, cut35h, cut35l, cut44h, cut44l]
  · simp [UC.code, hl, h5]

theorem E2_round (op : BitVec 8) (mk : E2 → Instr) (f : E2) (hk : op.extractLsb' 5 2 ≠ 3) (hr : readerOp op = some (readE2 mk))
    (hl : formatHasL op.toNat = false) (h5 : op.toNat ≠ 0x5D) (hw : wellFormed (mk f) = true) : RoundTrip (mk f) (f.code op) := by
  refine roundTrip_of hw (readE2 mk) (by simp [E2.code]) hk hr (fun l => ?_) ?_
  · simp [E2.code, readE2, want, readB, noLit, noWait, noD, noA, noB, bit, bit_ofBool, cut33h, cut33l, cut42h, cut42l, cut24h, cut24l, cut35h, cut35l, cut44h, cut44l]
  · simp [E2.code, hl, h5]

theorem E3_round (op : BitVec 8) (mk : E3 → Instr) (f : E3) (hk : op.extractLsb' 5 2 ≠ 3) (hr : readerOp op = some (readE3 mk))
    (hl : formatHasL op.toNat = false) (h5 : op.toNat ≠ 0x5D) (hw : wellFormed (mk f) = true) : RoundTrip (mk f) (f.code op) := by
  refine roundTrip_of hw (readE3 mk) (by simp [E3.code]) hk hr (fun l => ?_) ?_
  · simp [E3.code, readE3, want, readB, noLit, noWait, noD, noA, noB, bit, bit_ofBool, cut33h, cut33l, cut42h, cut42l, cut24h, cut24l, cut35h, cut35l, cut44h, cut44l]
  · simp [E3.code, hl, h5]

theorem E4_round (op : BitVec 8) (mk : E4 → Instr) (f : E4) (hk : op.extractLsb' 5 2 ≠ 3) (hr : readerOp op = some (readE4 mk))
    (hl : formatHasL op.toNat = false) (h5 : op.toNat ≠ 0x5D) (hw : wellFormed (mk f) = true) : RoundTrip (mk f) (f.code op) := by
  refine roundTrip_of hw (readE4 mk) (by simp [E4.code]) hk hr (fun l => ?_) ?_
  · simp [E4.code, readE4, want, readB, noLit, noWait, noD, noA, noB, bit, bit_ofBool, cut33h, cut33l, cut42h, cut42l, cut24h, cut24l, cut35h, cut35l, cut44h, cut44l]
  · simp [E4.code, hl, h5]

theorem EDC_round (op : BitVec 8) (mk : EDC → Instr) (f : EDC) (hk : op.extractLsb' 5 2 ≠ 3) (hr : readerOp op = some (readEDC mk))
    (hl : formatHasL op.toNat = false) (h5 : op.toNat ≠ 0x5D) (hw : wellFormed (mk f) = true) : RoundTrip (mk f) (f.code op) := by
  refine roundTrip_of hw (readEDC mk) (by simp [EDC.code]) hk hr (fun l => ?_) ?_
  · simp [EDC.code, readEDC, want, readB, noLit, noWait, noD, noA, noB, bit, bit_ofBool, cut33h, cut33l, cut42h, cut42l, cut24h, cut24l, cut35h, cut35l, cut44h, cut44l]
  · simp [EDC.code, hl, h5]

theorem EDAC_round (op : BitVec 8) (mk : EDAC → Instr) (f : EDAC) (hk : op.extractLsb' 5 2 ≠ 3) (hr : readerOp op = some (readEDAC mk))
    (hl : formatHasL op.toNat = false) (h5 : op.toNat ≠ 0x5D) (hw : wellFormed (mk f) = true) : RoundTrip (mk f) (f.code op) := by
  refine roundTrip_of hw (readEDAC mk) (by simp [EDAC.code]) hk hr (fun l => ?_) ?_
  · simp [EDAC.code, readEDAC, want, readB, noLit, noWait, noD, noA, noB, bit, bit_ofBool, cut33h, cut33l, cut42h, cut42l, cut24h, cut24l, cut35h, cut35l, cut44h, cut44l]
  · simp [EDAC.code, hl, h5]

theorem Shr_round (op : BitVec 8) (mk : Shr → Instr) (f : Shr) (hk : op.extractLsb' 5 2 ≠ 3) (hr : readerOp op = some (readShr mk))
    (hl : formatHasL op.toNat = true) (h5 : op.toNat ≠ 0x5D) (hw : wellFormed (mk f) = true)
    (hf : ∀ g wA d a c, f = .map g wA d a c → d ≠ 63) : RoundTrip (mk f) (f.code op) := by
  refine roundTrip_of hw (readShr mk) (by cases f <;> simp [Shr.code]) hk hr (fun l => ?_) ?_
  · cases f with
    | map g wA d a c =>
      have := hf g wA d a c rfl
      simp [Shr.code, readShr, noLit, want, bit, bit_ofBool, cut24h, cut24l, this]
      intro h
      exact absurd h this
    | unmap g => simp [Shr.code, readShr, noLit, want]
  · cases f <;> simp [Shr.code, hl, h5]

theorem K_reader (k d : BitVec 6) (i : BitVec 20) (hk : k.extractLsb' 3 2 = 3) :
    readerOf (wordK k d i) = findRow (k.extractLsb' 5 1 ++ k.extractLsb' 0 3 : BitVec 4).toNat rowsK := by
  have h : wordK k d i = (k ++ d ++ i : BitVec (6 + 6 + 20)) := rfl
  have a : fld (wordK k d i) 29 2 = k.extractLsb' 3 2 := by
    simp (disch := omega) only [h, fld, BitVec.extractLsb'_append_eq_of_le, Nat.reduceSub]
  have b : fld (wordK k d i) 31 1 = k.extractLsb' 5 1 := by
    simp (disch := omega) only [h, fld, BitVec.extractLsb'_append_eq_of_le, Nat.reduceSub]
  have c : fld (wordK k d i) 26 3 = k.extractLsb' 0 3 := by
    simp (disch := omega) only [h, fld, BitVec.extractLsb'_append_eq_of_le, Nat.reduceSub]
  rw [readerOf, a, b, c, if_pos hk]

theorem K_round (k : BitVec 6) (mk : K → Instr) (f : K) (hk : k.extractLsb' 3 2 = 3)
    (hr : findRow (k.extractLsb' 5 1 ++ k.extractLsb' 0 3 : BitVec 4).toNat rowsK = some (readK mk))
    (hw : wellFormed (mk f) = true) : RoundTrip (mk f) (f.code k) := by
  refine ⟨fun l => decode_of ((K_reader k f.d f.i hk).trans hr) ?_ hw, ?_⟩
  · have h : wordK k f.d f.i = (k ++ f.d ++ f.i : BitVec (6 + 6 + 20)) := rfl
    simp (disch := omega) only [K.code, readK, h, fld, BitVec.extractLsb'_append_eq_of_le, Nat.sub_self, Nat.reduceSub, low_of_append]
  · have t : ∀ k : BitVec 6, k.extractLsb' 3 2 = 3 → ∀ t : BitVec 2,
        ((k ++ t : BitVec 8).toNat == 0x5D || formatHasL (k ++ t : BitVec 8).toNat) = false := by decide
    have h : wordK k f.d f.i = (k ++ f.d ++ f.i : BitVec (6 + 6 + 20)) := rfl
    have e : fld (wordK k f.d f.i) 24 8 = k ++ f.d.extractLsb' 4 2 := by
      rw [h]
      apply BitVec.eq_of_getLsbD_eq
      intro i hi
      simp only [fld, BitVec.getLsbD_extractLsb', BitVec.getLsbD_append, hi]
      by_cases h2 : i < 2
      · simp [h2, show ¬(24 + i < 20) by omega, show 24 + i - 20 < 6 by omega, show 24 + i - 20 = 4 + i by omega]
        omega
      · simp [h2, show ¬(24 + i < 20) by omega, show ¬(24 + i - 20 < 6) by omega, show 24 + i - 20 - 6 = i - 2 by omega]
    have := t k hk (f.d.extractLsb' 4 2)
    simp only [Bool.or_eq_false_iff] at this
    simp [K.code, takesLiteral, e, this.1, this.2]

theorem Fence_round (k : BitVec 2) (mk : Sc → Instr) (f : Sc) (hw : wellFormed (mk f) = true)
    (hm : mk f = if k = 0 then .fenceAcq f else if k = 1 then .fenceRel f else if k = 2 then .fenceAr f else .fenceEng f) :
    RoundTrip (mk f) (f.code k) := by
  refine roundTrip_of (op := 0xB8) hw readFence (by simp [Sc.code]) (by decide) rfl (fun l => ?_) ?_
  · rw [hm]
    simp only [readFence, want, Sc.code, wordFence_s, wordFence_k, wordFence_z, BEq.rfl, if_true]
    split <;> try rfl
    split <;> try rfl
    split <;> rfl
  · simp [Sc.code, formatHasL]

theorem Sfu_round (n : BitVec 6) (mk : R2 → Instr) (f : R2) (hw : wellFormed (mk f) = true)
    (hm : ∀ w l, fld w 19 1 = 0 → fld w 18 1 = 0 → fld w 0 6 = n →
      readSfu w l = .ok (mk ⟨fld w 21 3, bit w 20, fld w 12 6, fld w 6 6⟩)) :
    RoundTrip (mk f) (f.sfuCode n) := by
  refine roundTrip_of (op := 0x22) hw readSfu (by simp [R2.sfuCode]) (by decide) rfl (fun l => ?_) ?_
  · rw [hm _ _ (by simp [R2.sfuCode]) (by simp [R2.sfuCode]) (by simp [R2.sfuCode])]
    simp [R2.sfuCode, bit, bit_ofBool]
  · simp [R2.sfuCode, formatHasL]

/-- What the Encoding family says of an instruction: decode of encode is the instruction (R58-R65, R73-R77). -/
def Encoding.Statement (i : Instr) : Prop :=
  wellFormed i = true → ∀ c, encode i = some c → RoundTrip i c

theorem Encoding.iadd (f : R3) : Encoding.Statement (.iadd f) := fun hw _ h => by
  cases h
  exact R3_round 0x00 .iadd f (by decide) rfl (by decide) (by decide) hw
theorem Encoding.isub (f : R3) : Encoding.Statement (.isub f) := fun hw _ h => by
  cases h
  exact R3_round 0x01 .isub f (by decide) rfl (by decide) (by decide) hw
theorem Encoding.imul (f : R3) : Encoding.Statement (.imul f) := fun hw _ h => by
  cases h
  exact R3_round 0x02 .imul f (by decide) rfl (by decide) (by decide) hw
theorem Encoding.imulh (f : R3) : Encoding.Statement (.imulh f) := fun hw _ h => by
  cases h
  exact R3_round 0x03 .imulh f (by decide) rfl (by decide) (by decide) hw
theorem Encoding.imulhu (f : R3) : Encoding.Statement (.imulhu f) := fun hw _ h => by
  cases h
  exact R3_round 0x04 .imulhu f (by decide) rfl (by decide) (by decide) hw
theorem Encoding.imin (f : R3) : Encoding.Statement (.imin f) := fun hw _ h => by
  cases h
  exact R3_round 0x05 .imin f (by decide) rfl (by decide) (by decide) hw
theorem Encoding.imax (f : R3) : Encoding.Statement (.imax f) := fun hw _ h => by
  cases h
  exact R3_round 0x06 .imax f (by decide) rfl (by decide) (by decide) hw
theorem Encoding.iminu (f : R3) : Encoding.Statement (.iminu f) := fun hw _ h => by
  cases h
  exact R3_round 0x07 .iminu f (by decide) rfl (by decide) (by decide) hw
theorem Encoding.imaxu (f : R3) : Encoding.Statement (.imaxu f) := fun hw _ h => by
  cases h
  exact R3_round 0x08 .imaxu f (by decide) rfl (by decide) (by decide) hw
theorem Encoding.iabs (f : R2) : Encoding.Statement (.iabs f) := fun hw _ h => by
  cases h
  exact R2_round 0x09 .iabs f (by decide) rfl (by decide) (by decide) hw
theorem Encoding.and (f : R3) : Encoding.Statement (.and f) := fun hw _ h => by
  cases h
  exact R3_round 0x0A .and f (by decide) rfl (by decide) (by decide) hw
theorem Encoding.or (f : R3) : Encoding.Statement (.or f) := fun hw _ h => by
  cases h
  exact R3_round 0x0B .or f (by decide) rfl (by decide) (by decide) hw
theorem Encoding.xor (f : R3) : Encoding.Statement (.xor f) := fun hw _ h => by
  cases h
  exact R3_round 0x0C .xor f (by decide) rfl (by decide) (by decide) hw
theorem Encoding.andn (f : R3) : Encoding.Statement (.andn f) := fun hw _ h => by
  cases h
  exact R3_round 0x0D .andn f (by decide) rfl (by decide) (by decide) hw
theorem Encoding.shl (f : R3) : Encoding.Statement (.shl f) := fun hw _ h => by
  cases h
  exact R3_round 0x0E .shl f (by decide) rfl (by decide) (by decide) hw
theorem Encoding.shr (f : R3) : Encoding.Statement (.shr f) := fun hw _ h => by
  cases h
  exact R3_round 0x0F .shr f (by decide) rfl (by decide) (by decide) hw
theorem Encoding.sar (f : R3) : Encoding.Statement (.sar f) := fun hw _ h => by
  cases h
  exact R3_round 0x10 .sar f (by decide) rfl (by decide) (by decide) hw
theorem Encoding.rol (f : R3) : Encoding.Statement (.rol f) := fun hw _ h => by
  cases h
  exact R3_round 0x11 .rol f (by decide) rfl (by decide) (by decide) hw
theorem Encoding.popc (f : R2) : Encoding.Statement (.popc f) := fun hw _ h => by
  cases h
  exact R2_round 0x12 .popc f (by decide) rfl (by decide) (by decide) hw
theorem Encoding.clz (f : R2) : Encoding.Statement (.clz f) := fun hw _ h => by
  cases h
  exact R2_round 0x13 .clz f (by decide) rfl (by decide) (by decide) hw
theorem Encoding.brev (f : R2) : Encoding.Statement (.brev f) := fun hw _ h => by
  cases h
  exact R2_round 0x14 .brev f (by decide) rfl (by decide) (by decide) hw
theorem Encoding.leaw (f : R3) : Encoding.Statement (.leaw f) := fun hw _ h => by
  cases h
  exact R3_round 0x15 .leaw f (by decide) rfl (by decide) (by decide) hw
theorem Encoding.lead (f : R3) : Encoding.Statement (.lead f) := fun hw _ h => by
  cases h
  exact R3_round 0x16 .lead f (by decide) rfl (by decide) (by decide) hw
theorem Encoding.icmp (f : RCmp) : Encoding.Statement (.icmp f) := fun hw _ h => by
  cases h
  exact RCmp_round 0x17 .icmp f (by decide) rfl (by decide) (by decide) hw
theorem Encoding.fadd (f : R3) : Encoding.Statement (.fadd f) := fun hw _ h => by
  cases h
  exact R3_round 0x18 .fadd f (by decide) rfl (by decide) (by decide) hw
theorem Encoding.fsub (f : R3) : Encoding.Statement (.fsub f) := fun hw _ h => by
  cases h
  exact R3_round 0x19 .fsub f (by decide) rfl (by decide) (by decide) hw
theorem Encoding.fmul (f : R3) : Encoding.Statement (.fmul f) := fun hw _ h => by
  cases h
  exact R3_round 0x1A .fmul f (by decide) rfl (by decide) (by decide) hw
theorem Encoding.fmar (f : R3) : Encoding.Statement (.fmar f) := fun hw _ h => by
  cases h
  exact R3_round 0x1B .fmar f (by decide) rfl (by decide) (by decide) hw
theorem Encoding.fmin (f : R3) : Encoding.Statement (.fmin f) := fun hw _ h => by
  cases h
  exact R3_round 0x1C .fmin f (by decide) rfl (by decide) (by decide) hw
theorem Encoding.fmax (f : R3) : Encoding.Statement (.fmax f) := fun hw _ h => by
  cases h
  exact R3_round 0x1D .fmax f (by decide) rfl (by decide) (by decide) hw
theorem Encoding.fabs (f : R2) : Encoding.Statement (.fabs f) := fun hw _ h => by
  cases h
  exact R2_round 0x1E .fabs f (by decide) rfl (by decide) (by decide) hw
theorem Encoding.fneg (f : R2) : Encoding.Statement (.fneg f) := fun hw _ h => by
  cases h
  exact R2_round 0x1F .fneg f (by decide) rfl (by decide) (by decide) hw
theorem Encoding.fcmp (f : RCmp) : Encoding.Statement (.fcmp f) := fun hw _ h => by
  cases h
  exact RCmp_round 0x20 .fcmp f (by decide) rfl (by decide) (by decide) hw
theorem Encoding.frnd (f : RFrnd) : Encoding.Statement (.frnd f) := fun hw _ h => by
  cases h
  exact RFrnd_round 0x21 .frnd f (by decide) rfl (by decide) (by decide) hw
theorem Encoding.frcp (f : R2) : Encoding.Statement (.frcp f) := fun hw _ h => by
  cases h
  exact Sfu_round 0 .frcp f hw (by intro w l h1 h2 h3; simp [readSfu, noLit, want, h1, h2, h3])
theorem Encoding.frsq (f : R2) : Encoding.Statement (.frsq f) := fun hw _ h => by
  cases h
  exact Sfu_round 1 .frsq f hw (by intro w l h1 h2 h3; simp [readSfu, noLit, want, h1, h2, h3])
theorem Encoding.fsqrt (f : R2) : Encoding.Statement (.fsqrt f) := fun hw _ h => by
  cases h
  exact Sfu_round 2 .fsqrt f hw (by intro w l h1 h2 h3; simp [readSfu, noLit, want, h1, h2, h3])
theorem Encoding.fexp2 (f : R2) : Encoding.Statement (.fexp2 f) := fun hw _ h => by
  cases h
  exact Sfu_round 3 .fexp2 f hw (by intro w l h1 h2 h3; simp [readSfu, noLit, want, h1, h2, h3])
theorem Encoding.flog2 (f : R2) : Encoding.Statement (.flog2 f) := fun hw _ h => by
  cases h
  exact Sfu_round 4 .flog2 f hw (by intro w l h1 h2 h3; simp [readSfu, noLit, want, h1, h2, h3])
theorem Encoding.fsin (f : R2) : Encoding.Statement (.fsin f) := fun hw _ h => by
  cases h
  exact Sfu_round 5 .fsin f hw (by intro w l h1 h2 h3; simp [readSfu, noLit, want, h1, h2, h3])
theorem Encoding.fcos (f : R2) : Encoding.Statement (.fcos f) := fun hw _ h => by
  cases h
  exact Sfu_round 6 .fcos f hw (by intro w l h1 h2 h3; simp [readSfu, noLit, want, h1, h2, h3])
theorem Encoding.ftanh (f : R2) : Encoding.Statement (.ftanh f) := fun hw _ h => by
  cases h
  exact Sfu_round 7 .ftanh f hw (by intro w l h1 h2 h3; simp [readSfu, noLit, want, h1, h2, h3])
theorem Encoding.hadd2 (f : R3) : Encoding.Statement (.hadd2 f) := fun hw _ h => by
  cases h
  exact R3_round 0x23 .hadd2 f (by decide) rfl (by decide) (by decide) hw
theorem Encoding.hmul2 (f : R3) : Encoding.Statement (.hmul2 f) := fun hw _ h => by
  cases h
  exact R3_round 0x24 .hmul2 f (by decide) rfl (by decide) (by decide) hw
theorem Encoding.hmax2 (f : R3) : Encoding.Statement (.hmax2 f) := fun hw _ h => by
  cases h
  exact R3_round 0x25 .hmax2 f (by decide) rfl (by decide) (by decide) hw
theorem Encoding.cvt (f : RCvt) : Encoding.Statement (.cvt f) := fun hw _ h => by
  cases h
  exact RCvt_round 0x26 .cvt f (by decide) rfl (by decide) (by decide) hw
theorem Encoding.k4dec (f : R3) : Encoding.Statement (.k4dec f) := fun hw _ h => by
  cases h
  exact R3_round 0x27 .k4dec f (by decide) rfl (by decide) (by decide) hw
theorem Encoding.imad (f : F4) : Encoding.Statement (.imad f) := fun hw _ h => by
  cases h
  exact F4_round 0x28 .imad f (by decide) rfl (by decide) (by decide) hw
theorem Encoding.bfx (f : F4) : Encoding.Statement (.bfx f) := fun hw _ h => by
  cases h
  exact F4_round 0x29 .bfx f (by decide) rfl (by decide) (by decide) hw
theorem Encoding.bfi (f : F4) : Encoding.Statement (.bfi f) := fun hw _ h => by
  cases h
  exact F4_round 0x2A .bfi f (by decide) rfl (by decide) (by decide) hw
theorem Encoding.sel (f : F4) : Encoding.Statement (.sel f) := fun hw _ h => by
  cases h
  exact F4_round 0x2B .sel f (by decide) rfl (by decide) (by decide) hw
theorem Encoding.ffma (f : F4) : Encoding.Statement (.ffma f) := fun hw _ h => by
  cases h
  exact F4_round 0x2C .ffma f (by decide) rfl (by decide) (by decide) hw
theorem Encoding.ffman (f : F4) : Encoding.Statement (.ffman f) := fun hw _ h => by
  cases h
  exact F4_round 0x2D .ffman f (by decide) rfl (by decide) (by decide) hw
theorem Encoding.hfma2 (f : F4) : Encoding.Statement (.hfma2 f) := fun hw _ h => by
  cases h
  exact F4_round 0x2E .hfma2 f (by decide) rfl (by decide) (by decide) hw
theorem Encoding.faddcb (f : C3) : Encoding.Statement (.faddcb f) := fun hw _ h => by
  cases h
  exact C3_round 0x30 .faddcb f (by decide) rfl (by decide) (by decide) hw
theorem Encoding.fmulcb (f : C3) : Encoding.Statement (.fmulcb f) := fun hw _ h => by
  cases h
  exact C3_round 0x31 .fmulcb f (by decide) rfl (by decide) (by decide) hw
theorem Encoding.fmarcb (f : C3) : Encoding.Statement (.fmarcb f) := fun hw _ h => by
  cases h
  exact C3_round 0x32 .fmarcb f (by decide) rfl (by decide) (by decide) hw
theorem Encoding.movcb (f : CMov) : Encoding.Statement (.movcb f) := fun hw _ h => by
  cases h
  exact CMov_round 0x33 .movcb f (by decide) rfl (by decide) (by decide) hw
theorem Encoding.ldbs (f : M) : Encoding.Statement (.ldbs f) := fun hw _ h => by
  cases h
  exact M_round 0x34 .ldbs f (by decide) rfl (by decide) (by decide) hw
theorem Encoding.ldbu (f : M) : Encoding.Statement (.ldbu f) := fun hw _ h => by
  cases h
  exact M_round 0x35 .ldbu f (by decide) rfl (by decide) (by decide) hw
theorem Encoding.ldhs (f : M) : Encoding.Statement (.ldhs f) := fun hw _ h => by
  cases h
  exact M_round 0x36 .ldhs f (by decide) rfl (by decide) (by decide) hw
theorem Encoding.ldhu (f : M) : Encoding.Statement (.ldhu f) := fun hw _ h => by
  cases h
  exact M_round 0x37 .ldhu f (by decide) rfl (by decide) (by decide) hw
theorem Encoding.ldw (f : M) : Encoding.Statement (.ldw f) := fun hw _ h => by
  cases h
  exact M_round 0x38 .ldw f (by decide) rfl (by decide) (by decide) hw
theorem Encoding.ldd (f : M) : Encoding.Statement (.ldd f) := fun hw _ h => by
  cases h
  exact M_round 0x39 .ldd f (by decide) rfl (by decide) (by decide) hw
theorem Encoding.ldq (f : M) : Encoding.Statement (.ldq f) := fun hw _ h => by
  cases h
  exact M_round 0x3A .ldq f (by decide) rfl (by decide) (by decide) hw
theorem Encoding.ldp (f : M) : Encoding.Statement (.ldp f) := fun hw _ h => by
  cases h
  exact M_round 0x3B .ldp f (by decide) rfl (by decide) (by decide) hw
theorem Encoding.ldacq (f : MS) : Encoding.Statement (.ldacq f) := fun hw _ h => by
  cases h
  exact MS_round 0x3C .ldacq f (by decide) rfl (by decide) (by decide) hw
theorem Encoding.stb (f : M) : Encoding.Statement (.stb f) := fun hw _ h => by
  cases h
  exact M_round 0x3D .stb f (by decide) rfl (by decide) (by decide) hw
theorem Encoding.sth (f : M) : Encoding.Statement (.sth f) := fun hw _ h => by
  cases h
  exact M_round 0x3E .sth f (by decide) rfl (by decide) (by decide) hw
theorem Encoding.stw (f : M) : Encoding.Statement (.stw f) := fun hw _ h => by
  cases h
  exact M_round 0x3F .stw f (by decide) rfl (by decide) (by decide) hw
theorem Encoding.std (f : M) : Encoding.Statement (.std f) := fun hw _ h => by
  cases h
  exact M_round 0x40 .std f (by decide) rfl (by decide) (by decide) hw
theorem Encoding.stq (f : M) : Encoding.Statement (.stq f) := fun hw _ h => by
  cases h
  exact M_round 0x41 .stq f (by decide) rfl (by decide) (by decide) hw
theorem Encoding.strel (f : MS) : Encoding.Statement (.strel f) := fun hw _ h => by
  cases h
  exact MS_round 0x42 .strel f (by decide) rfl (by decide) (by decide) hw
theorem Encoding.ldlf (f : M) : Encoding.Statement (.ldlf f) := fun hw _ h => by
  cases h
  exact M_round 0x43 .ldlf f (by decide) rfl (by decide) (by decide) hw
theorem Encoding.ldlc (f : M) : Encoding.Statement (.ldlc f) := fun hw _ h => by
  cases h
  exact M_round 0x44 .ldlc f (by decide) rfl (by decide) (by decide) hw
theorem Encoding.stlf (f : M) : Encoding.Statement (.stlf f) := fun hw _ h => by
  cases h
  exact M_round 0x45 .stlf f (by decide) rfl (by decide) (by decide) hw
theorem Encoding.atadd (f : MS) : Encoding.Statement (.atadd f) := fun hw _ h => by
  cases h
  exact MS_round 0x46 .atadd f (by decide) rfl (by decide) (by decide) hw
theorem Encoding.atmin (f : MS) : Encoding.Statement (.atmin f) := fun hw _ h => by
  cases h
  exact MS_round 0x47 .atmin f (by decide) rfl (by decide) (by decide) hw
theorem Encoding.atmax (f : MS) : Encoding.Statement (.atmax f) := fun hw _ h => by
  cases h
  exact MS_round 0x48 .atmax f (by decide) rfl (by decide) (by decide) hw
theorem Encoding.atand (f : MS) : Encoding.Statement (.atand f) := fun hw _ h => by
  cases h
  exact MS_round 0x49 .atand f (by decide) rfl (by decide) (by decide) hw
theorem Encoding.ator (f : MS) : Encoding.Statement (.ator f) := fun hw _ h => by
  cases h
  exact MS_round 0x4A .ator f (by decide) rfl (by decide) (by decide) hw
theorem Encoding.atxor (f : MS) : Encoding.Statement (.atxor f) := fun hw _ h => by
  cases h
  exact MS_round 0x4B .atxor f (by decide) rfl (by decide) (by decide) hw
theorem Encoding.atxch (f : MS) : Encoding.Statement (.atxch f) := fun hw _ h => by
  cases h
  exact MS_round 0x4C .atxch f (by decide) rfl (by decide) (by decide) hw
theorem Encoding.atcas (f : MS) : Encoding.Statement (.atcas f) := fun hw _ h => by
  cases h
  exact MS_round 0x4D .atcas f (by decide) rfl (by decide) (by decide) hw
theorem Encoding.atfadd (f : MS) : Encoding.Statement (.atfadd f) := fun hw _ h => by
  cases h
  exact MS_round 0x4E .atfadd f (by decide) rfl (by decide) (by decide) hw
theorem Encoding.tldg (f : M) : Encoding.Statement (.tldg f) := fun hw _ h => by
  cases h
  exact M_round 0x4F .tldg f (by decide) rfl (by decide) (by decide) hw
theorem Encoding.shfli (f : R3) : Encoding.Statement (.shfli f) := fun hw _ h => by
  cases h
  exact R3_round 0x50 .shfli f (by decide) rfl (by decide) (by decide) hw
theorem Encoding.shflu (f : R3) : Encoding.Statement (.shflu f) := fun hw _ h => by
  cases h
  exact R3_round 0x51 .shflu f (by decide) rfl (by decide) (by decide) hw
theorem Encoding.shfld (f : R3) : Encoding.Statement (.shfld f) := fun hw _ h => by
  cases h
  exact R3_round 0x52 .shfld f (by decide) rfl (by decide) (by decide) hw
theorem Encoding.shflx (f : R3) : Encoding.Statement (.shflx f) := fun hw _ h => by
  cases h
  exact R3_round 0x53 .shflx f (by decide) rfl (by decide) (by decide) hw
theorem Encoding.vote (f : Vote) : Encoding.Statement (.vote f) := fun hw _ h => by
  cases h
  exact Vote_round 0x54 .vote f (by decide) rfl (by decide) (by decide) hw
theorem Encoding.ballot (f : Ballot) : Encoding.Statement (.ballot f) := fun hw _ h => by
  cases h
  exact Ballot_round 0x55 .ballot f (by decide) rfl (by decide) (by decide) hw
theorem Encoding.redadd (f : Red) : Encoding.Statement (.redadd f) := fun hw _ h => by
  cases h
  exact Red_round 0x56 .redadd f (by decide) rfl (by decide) (by decide) hw
theorem Encoding.redmin (f : Red) : Encoding.Statement (.redmin f) := fun hw _ h => by
  cases h
  exact Red_round 0x57 .redmin f (by decide) rfl (by decide) (by decide) hw
theorem Encoding.redmax (f : Red) : Encoding.Statement (.redmax f) := fun hw _ h => by
  cases h
  exact Red_round 0x58 .redmax f (by decide) rfl (by decide) (by decide) hw
theorem Encoding.redfadd (f : Red) : Encoding.Statement (.redfadd f) := fun hw _ h => by
  cases h
  exact Red_round 0x59 .redfadd f (by decide) rfl (by decide) (by decide) hw
theorem Encoding.readlane (f : R3) : Encoding.Statement (.readlane f) := fun hw _ h => by
  cases h
  exact R3_round 0x5A .readlane f (by decide) rfl (by decide) (by decide) hw
theorem Encoding.bcast (f : R2) : Encoding.Statement (.bcast f) := fun hw _ h => by
  cases h
  exact R2_round 0x5B .bcast f (by decide) rfl (by decide) (by decide) hw
theorem Encoding.plop (f : PLop) : Encoding.Statement (.plop f) := fun hw _ h => by
  cases h
  exact PLop_round 0x5C .plop f (by decide) rfl (by decide) (by decide) hw
theorem Encoding.brd (f : BrdOps) : Encoding.Statement (.brd f) := fun hw _ h => by
  cases h
  exact BrdOps_round 0x5D .brd f (by decide) rfl (by decide) hw
theorem Encoding.jmpv (f : JmpV) : Encoding.Statement (.jmpv f) := fun hw _ h => by
  cases h
  exact JmpV_round 0x5E .jmpv f (by decide) rfl (by decide) (by decide) hw
theorem Encoding.csrv (f : CsrV) : Encoding.Statement (.csrv f) := fun hw _ h => by
  cases h
  exact CsrV_round 0x5F .csrv f (by decide) rfl (by decide) (by decide) hw
theorem Encoding.faddk (f : K) : Encoding.Statement (.faddk f) := fun hw _ h => by
  cases h
  exact K_round 0x18 .faddk f (by decide) rfl hw
theorem Encoding.fmulk (f : K) : Encoding.Statement (.fmulk f) := fun hw _ h => by
  cases h
  exact K_round 0x19 .fmulk f (by decide) rfl hw
theorem Encoding.fmovk (f : K) : Encoding.Statement (.fmovk f) := fun hw _ h => by
  cases h
  exact K_round 0x1A .fmovk f (by decide) rfl hw
theorem Encoding.iaddk (f : K) : Encoding.Statement (.iaddk f) := fun hw _ h => by
  cases h
  exact K_round 0x1B .iaddk f (by decide) rfl hw
theorem Encoding.imovk (f : K) : Encoding.Statement (.imovk f) := fun hw _ h => by
  cases h
  exact K_round 0x1C .imovk f (by decide) rfl hw
theorem Encoding.andk (f : K) : Encoding.Statement (.andk f) := fun hw _ h => by
  cases h
  exact K_round 0x1D .andk f (by decide) rfl hw
theorem Encoding.ork (f : K) : Encoding.Statement (.ork f) := fun hw _ h => by
  cases h
  exact K_round 0x1E .ork f (by decide) rfl hw
theorem Encoding.xork (f : K) : Encoding.Statement (.xork f) := fun hw _ h => by
  cases h
  exact K_round 0x1F .xork f (by decide) rfl hw
theorem Encoding.sadd (f : R3) : Encoding.Statement (.sadd f) := fun hw _ h => by
  cases h
  exact R3_round 0x80 .sadd f (by decide) rfl (by decide) (by decide) hw
theorem Encoding.ssub (f : R3) : Encoding.Statement (.ssub f) := fun hw _ h => by
  cases h
  exact R3_round 0x81 .ssub f (by decide) rfl (by decide) (by decide) hw
theorem Encoding.smul (f : R3) : Encoding.Statement (.smul f) := fun hw _ h => by
  cases h
  exact R3_round 0x82 .smul f (by decide) rfl (by decide) (by decide) hw
theorem Encoding.smulh (f : R3) : Encoding.Statement (.smulh f) := fun hw _ h => by
  cases h
  exact R3_round 0x83 .smulh f (by decide) rfl (by decide) (by decide) hw
theorem Encoding.sand (f : R3) : Encoding.Statement (.sand f) := fun hw _ h => by
  cases h
  exact R3_round 0x84 .sand f (by decide) rfl (by decide) (by decide) hw
theorem Encoding.sor (f : R3) : Encoding.Statement (.sor f) := fun hw _ h => by
  cases h
  exact R3_round 0x85 .sor f (by decide) rfl (by decide) (by decide) hw
theorem Encoding.sxor (f : R3) : Encoding.Statement (.sxor f) := fun hw _ h => by
  cases h
  exact R3_round 0x86 .sxor f (by decide) rfl (by decide) (by decide) hw
theorem Encoding.sshl (f : R3) : Encoding.Statement (.sshl f) := fun hw _ h => by
  cases h
  exact R3_round 0x87 .sshl f (by decide) rfl (by decide) (by decide) hw
theorem Encoding.sshr (f : R3) : Encoding.Statement (.sshr f) := fun hw _ h => by
  cases h
  exact R3_round 0x88 .sshr f (by decide) rfl (by decide) (by decide) hw
theorem Encoding.ssar (f : R3) : Encoding.Statement (.ssar f) := fun hw _ h => by
  cases h
  exact R3_round 0x89 .ssar f (by decide) rfl (by decide) (by decide) hw
theorem Encoding.smin (f : R3) : Encoding.Statement (.smin f) := fun hw _ h => by
  cases h
  exact R3_round 0x8A .smin f (by decide) rfl (by decide) (by decide) hw
theorem Encoding.smax (f : R3) : Encoding.Statement (.smax f) := fun hw _ h => by
  cases h
  exact R3_round 0x8B .smax f (by decide) rfl (by decide) (by decide) hw
theorem Encoding.sminu (f : R3) : Encoding.Statement (.sminu f) := fun hw _ h => by
  cases h
  exact R3_round 0x8C .sminu f (by decide) rfl (by decide) (by decide) hw
theorem Encoding.smaxu (f : R3) : Encoding.Statement (.smaxu f) := fun hw _ h => by
  cases h
  exact R3_round 0x8D .smaxu f (by decide) rfl (by decide) (by decide) hw
theorem Encoding.scmp (f : RCmp) : Encoding.Statement (.scmp f) := fun hw _ h => by
  cases h
  exact RCmp_round 0x8E .scmp f (by decide) rfl (by decide) (by decide) hw
theorem Encoding.slea (f : R3) : Encoding.Statement (.slea f) := fun hw _ h => by
  cases h
  exact R3_round 0x8F .slea f (by decide) rfl (by decide) (by decide) hw
theorem Encoding.spopc (f : R2) : Encoding.Statement (.spopc f) := fun hw _ h => by
  cases h
  exact R2_round 0x90 .spopc f (by decide) rfl (by decide) (by decide) hw
theorem Encoding.sclz (f : R2) : Encoding.Statement (.sclz f) := fun hw _ h => by
  cases h
  exact R2_round 0x91 .sclz f (by decide) rfl (by decide) (by decide) hw
theorem Encoding.ssel (f : R3) : Encoding.Statement (.ssel f) := fun hw _ h => by
  cases h
  exact R3_round 0x92 .ssel f (by decide) rfl (by decide) (by decide) hw
theorem Encoding.qlop (f : PLop) : Encoding.Statement (.qlop f) := fun hw _ h => by
  cases h
  exact PLop_round 0x93 .qlop f (by decide) rfl (by decide) (by decide) hw
theorem Encoding.sldw (f : M) : Encoding.Statement (.sldw f) := fun hw _ h => by
  cases h
  exact M_round 0x94 .sldw f (by decide) rfl (by decide) (by decide) hw
theorem Encoding.sldd (f : M) : Encoding.Statement (.sldd f) := fun hw _ h => by
  cases h
  exact M_round 0x95 .sldd f (by decide) rfl (by decide) (by decide) hw
theorem Encoding.sldq (f : M) : Encoding.Statement (.sldq f) := fun hw _ h => by
  cases h
  exact M_round 0x96 .sldq f (by decide) rfl (by decide) (by decide) hw
theorem Encoding.sstw (f : M) : Encoding.Statement (.sstw f) := fun hw _ h => by
  cases h
  exact M_round 0x97 .sstw f (by decide) rfl (by decide) (by decide) hw
theorem Encoding.sstd (f : M) : Encoding.Statement (.sstd f) := fun hw _ h => by
  cases h
  exact M_round 0x98 .sstd f (by decide) rfl (by decide) (by decide) hw
theorem Encoding.sldcb (f : M) : Encoding.Statement (.sldcb f) := fun hw _ h => by
  cases h
  exact M_round 0x99 .sldcb f (by decide) rfl (by decide) (by decide) hw
theorem Encoding.cbset (f : CbSet) : Encoding.Statement (.cbset f) := fun hw _ h => by
  cases h
  exact CbSet_round 0x9A .cbset f (by decide) rfl (by decide) (by decide) hw
theorem Encoding.sldacq (f : MS) : Encoding.Statement (.sldacq f) := fun hw _ h => by
  cases h
  exact MS_round 0x9B .sldacq f (by decide) rfl (by decide) (by decide) hw
theorem Encoding.sstrel (f : MS) : Encoding.Statement (.sstrel f) := fun hw _ h => by
  cases h
  exact MS_round 0x9C .sstrel f (by decide) rfl (by decide) (by decide) hw
theorem Encoding.satadd (f : MS) : Encoding.Statement (.satadd f) := fun hw _ h => by
  cases h
  exact MS_round 0x9D .satadd f (by decide) rfl (by decide) (by decide) hw
theorem Encoding.satcas (f : MS) : Encoding.Statement (.satcas f) := fun hw _ h => by
  cases h
  exact MS_round 0x9E .satcas f (by decide) rfl (by decide) (by decide) hw
theorem Encoding.waitv (f : MS) : Encoding.Statement (.waitv f) := fun hw _ h => by
  cases h
  exact MS_round 0x9F .waitv f (by decide) rfl (by decide) (by decide) hw
theorem Encoding.bra (f : UB) : Encoding.Statement (.bra f) := fun hw _ h => by
  cases h
  exact UB_round 0xA0 .bra f (by decide) rfl (by decide) (by decide) hw
theorem Encoding.jmp (f : R1) : Encoding.Statement (.jmp f) := fun hw _ h => by
  cases h
  exact R1_round 0xA1 .jmp f (by decide) rfl (by decide) (by decide) hw
theorem Encoding.call (f : UB) : Encoding.Statement (.call f) := fun hw _ h => by
  cases h
  exact UB_round 0xA2 .call f (by decide) rfl (by decide) (by decide) hw
theorem Encoding.callr (f : R1) : Encoding.Statement (.callr f) := fun hw _ h => by
  cases h
  exact R1_round 0xA3 .callr f (by decide) rfl (by decide) (by decide) hw
theorem Encoding.ret (f : G) : Encoding.Statement (.ret f) := fun hw _ h => by
  cases h
  exact G_round 0xA4 .ret f (by decide) rfl (by decide) (by decide) hw
theorem Encoding.loop (f : LoopOps) : Encoding.Statement (.loop f) := fun hw _ h => by
  cases h
  exact LoopOps_round 0xA5 .loop f (by decide) rfl (by decide) (by decide) hw
theorem Encoding.trap (f : TrapOps) : Encoding.Statement (.trap f) := fun hw _ h => by
  cases h
  exact TrapOps_round 0xA6 .trap f (by decide) rfl (by decide) (by decide) hw
theorem Encoding.eret (f : G) : Encoding.Statement (.eret f) := fun hw _ h => by
  cases h
  exact G_round 0xA7 .eret f (by decide) rfl (by decide) (by decide) hw
theorem Encoding.yield (f : G) : Encoding.Statement (.yield f) := fun hw _ h => by
  cases h
  exact G_round 0xA8 .yield f (by decide) rfl (by decide) (by decide) hw
theorem Encoding.bkpt (f : G) : Encoding.Statement (.bkpt f) := fun hw _ h => by
  cases h
  exact G_round 0xA9 .bkpt f (by decide) rfl (by decide) (by decide) hw
theorem Encoding.exit (f : G) : Encoding.Statement (.exit f) := fun hw _ h => by
  cases h
  exact G_round 0xAA .exit f (by decide) rfl (by decide) (by decide) hw
theorem Encoding.nop (f : G) : Encoding.Statement (.nop f) := fun hw _ h => by
  cases h
  exact G_round 0xAB .nop f (by decide) rfl (by decide) (by decide) hw
theorem Encoding.sleep (f : SleepOps) : Encoding.Statement (.sleep f) := fun hw _ h => by
  cases h
  exact SleepOps_round 0xAC .sleep f (by decide) rfl (by decide) (by decide) hw
theorem Encoding.csrr (f : UC) : Encoding.Statement (.csrr f) := fun hw _ h => by
  cases h
  exact UC_round 0xAD .csrr f (by decide) rfl (by decide) (by decide) hw
theorem Encoding.csrw (f : UC) : Encoding.Statement (.csrw f) := fun hw _ h => by
  cases h
  exact UC_round 0xAE .csrw f (by decide) rfl (by decide) (by decide) hw
theorem Encoding.setfmt (f : SetFmtOps) : Encoding.Statement (.setfmt f) := fun hw _ h => by
  cases h
  exact SetFmtOps_round 0xAF .setfmt f (by decide) rfl (by decide) (by decide) hw
theorem Encoding.bar (f : G) : Encoding.Statement (.bar f) := fun hw _ h => by
  cases h
  exact G_round 0xB0 .bar f (by decide) rfl (by decide) (by decide) hw
theorem Encoding.bara (f : G) : Encoding.Statement (.bara f) := fun hw _ h => by
  cases h
  exact G_round 0xB1 .bara f (by decide) rfl (by decide) (by decide) hw
theorem Encoding.barw (f : G) : Encoding.Statement (.barw f) := fun hw _ h => by
  cases h
  exact G_round 0xB2 .barw f (by decide) rfl (by decide) (by decide) hw
theorem Encoding.cbara (f : G) : Encoding.Statement (.cbara f) := fun hw _ h => by
  cases h
  exact G_round 0xB3 .cbara f (by decide) rfl (by decide) (by decide) hw
theorem Encoding.cbarw (f : G) : Encoding.Statement (.cbarw f) := fun hw _ h => by
  cases h
  exact G_round 0xB4 .cbarw f (by decide) rfl (by decide) (by decide) hw
theorem Encoding.tbinit (f : TbOps) : Encoding.Statement (.tbinit f) := fun hw _ h => by
  cases h
  exact TbOps_round 0xB5 .tbinit f (by decide) rfl (by decide) (by decide) hw
theorem Encoding.tbarv (f : R3) : Encoding.Statement (.tbarv f) := fun hw _ h => by
  cases h
  exact R3_round 0xB6 .tbarv f (by decide) rfl (by decide) (by decide) hw
theorem Encoding.tbwait (f : TbOps) : Encoding.Statement (.tbwait f) := fun hw _ h => by
  cases h
  exact TbOps_round 0xB7 .tbwait f (by decide) rfl (by decide) (by decide) hw
theorem Encoding.fenceAcq (f : Sc) : Encoding.Statement (.fenceAcq f) := fun hw _ h => by
  cases h
  exact Fence_round 0 .fenceAcq f hw rfl
theorem Encoding.fenceRel (f : Sc) : Encoding.Statement (.fenceRel f) := fun hw _ h => by
  cases h
  exact Fence_round 1 .fenceRel f hw rfl
theorem Encoding.fenceAr (f : Sc) : Encoding.Statement (.fenceAr f) := fun hw _ h => by
  cases h
  exact Fence_round 2 .fenceAr f hw rfl
theorem Encoding.fenceEng (f : Sc) : Encoding.Statement (.fenceEng f) := fun hw _ h => by
  cases h
  exact Fence_round 3 .fenceEng f hw rfl
theorem Encoding.ftest (f : FTestOps) : Encoding.Statement (.ftest f) := fun hw _ h => by
  cases h
  exact FTestOps_round 0xB9 .ftest f (by decide) rfl (by decide) (by decide) hw
theorem Encoding.fmove (f : FMoveOps) : Encoding.Statement (.fmove f) := fun hw _ h => by
  cases h
  exact FMoveOps_round 0xBA .fmove f (by decide) rfl (by decide) (by decide) hw
theorem Encoding.fcancel (f : FTestOps) : Encoding.Statement (.fcancel f) := fun hw _ h => by
  cases h
  exact FTestOps_round 0xBB .fcancel f (by decide) rfl (by decide) (by decide) hw
theorem Encoding.fwait (f : FMoveOps) : Encoding.Statement (.fwait f) := fun hw _ h => by
  cases h
  exact FMoveOps_round 0xBC .fwait f (by decide) rfl (by decide) (by decide) hw
theorem Encoding.shrmap (f : Shr) : Encoding.Statement (.shrmap f) := fun hw _ h => by
  cases h
  exact Shr_round 0xBD .shrmap f (by decide) rfl (by decide) (by decide) hw (fun g wA d a c e => by
    subst e
    rintro rfl
    simp [wellFormed, check, firstError] at hw <;> omega)
theorem Encoding.sqrd (f : SqRdOps) : Encoding.Statement (.sqrd f) := fun hw _ h => by
  cases h
  exact SqRdOps_round 0xBE .sqrd f (by decide) rfl (by decide) (by decide) hw
theorem Encoding.copy (f : E2) : Encoding.Statement (.copy f) := fun hw _ h => by
  cases h
  exact E2_round 0xC0 .copy f (by decide) rfl (by decide) (by decide) hw
theorem Encoding.copyx (f : E2) : Encoding.Statement (.copyx f) := fun hw _ h => by
  cases h
  exact E2_round 0xC1 .copyx f (by decide) rfl (by decide) (by decide) hw
theorem Encoding.copyl (f : E2) : Encoding.Statement (.copyl f) := fun hw _ h => by
  cases h
  exact E2_round 0xC2 .copyl f (by decide) rfl (by decide) (by decide) hw
theorem Encoding.mcast (f : E4) : Encoding.Statement (.mcast f) := fun hw _ h => by
  cases h
  exact E4_round 0xC3 .mcast f (by decide) rfl (by decide) (by decide) hw
theorem Encoding.fillz (f : E4) : Encoding.Statement (.fillz f) := fun hw _ h => by
  cases h
  exact E4_round 0xC4 .fillz f (by decide) rfl (by decide) (by decide) hw
theorem Encoding.mma (f : E4) : Encoding.Statement (.mma f) := fun hw _ h => by
  cases h
  exact E4_round 0xC8 .mma f (by decide) rfl (by decide) (by decide) hw
theorem Encoding.mmaz (f : EDC) : Encoding.Statement (.mmaz f) := fun hw _ h => by
  cases h
  exact EDC_round 0xC9 .mmaz f (by decide) rfl (by decide) (by decide) hw
theorem Encoding.accrd (f : E4) : Encoding.Statement (.accrd f) := fun hw _ h => by
  cases h
  exact E4_round 0xCA .accrd f (by decide) rfl (by decide) (by decide) hw
theorem Encoding.accst (f : EDAC) : Encoding.Statement (.accst f) := fun hw _ h => by
  cases h
  exact EDAC_round 0xCB .accst f (by decide) rfl (by decide) (by decide) hw
theorem Encoding.accld (f : EDAC) : Encoding.Statement (.accld f) := fun hw _ h => by
  cases h
  exact EDAC_round 0xCC .accld f (by decide) rfl (by decide) (by decide) hw
theorem Encoding.osld (f : E4) : Encoding.Statement (.osld f) := fun hw _ h => by
  cases h
  exact E4_round 0xCD .osld f (by decide) rfl (by decide) (by decide) hw
theorem Encoding.topkr (f : EDAC) : Encoding.Statement (.topkr f) := fun hw _ h => by
  cases h
  exact EDAC_round 0xCE .topkr f (by decide) rfl (by decide) (by decide) hw
theorem Encoding.tlook (f : E2) : Encoding.Statement (.tlook f) := fun hw _ h => by
  cases h
  exact E2_round 0xD0 .tlook f (by decide) rfl (by decide) (by decide) hw
theorem Encoding.tpref (f : E3) : Encoding.Statement (.tpref f) := fun hw _ h => by
  cases h
  exact E3_round 0xD1 .tpref f (by decide) rfl (by decide) (by decide) hw
theorem Encoding.thalo (f : E4) : Encoding.Statement (.thalo f) := fun hw _ h => by
  cases h
  exact E4_round 0xD2 .thalo f (by decide) rfl (by decide) (by decide) hw
theorem Encoding.tinv (f : EDAC) : Encoding.Statement (.tinv f) := fun hw _ h => by
  cases h
  exact EDAC_round 0xD3 .tinv f (by decide) rfl (by decide) (by decide) hw
theorem Encoding.twb (f : E3) : Encoding.Statement (.twb f) := fun hw _ h => by
  cases h
  exact E3_round 0xD4 .twb f (by decide) rfl (by decide) (by decide) hw
theorem Encoding.tdead (f : E4) : Encoding.Statement (.tdead f) := fun hw _ h => by
  cases h
  exact E4_round 0xD5 .tdead f (by decide) rfl (by decide) (by decide) hw
theorem Encoding.tview (f : E4) : Encoding.Statement (.tview f) := fun hw _ h => by
  cases h
  exact E4_round 0xD6 .tview f (by decide) rfl (by decide) (by decide) hw
theorem Encoding.launch (f : E3) : Encoding.Statement (.launch f) := fun hw _ h => by
  cases h
  exact E3_round 0xD8 .launch f (by decide) rfl (by decide) (by decide) hw
theorem Encoding.join (f : E2) : Encoding.Statement (.join f) := fun hw _ h => by
  cases h
  exact E2_round 0xD9 .join f (by decide) rfl (by decide) (by decide) hw
theorem Encoding.reprint (f : E3) : Encoding.Statement (.reprint f) := fun hw _ h => by
  cases h
  exact E3_round 0xDA .reprint f (by decide) rfl (by decide) (by decide) hw
theorem Encoding.wqpush (f : E3) : Encoding.Statement (.wqpush f) := fun hw _ h => by
  cases h
  exact E3_round 0xDB .wqpush f (by decide) rfl (by decide) (by decide) hw
theorem Encoding.wqpop (f : E3) : Encoding.Statement (.wqpop f) := fun hw _ h => by
  cases h
  exact E3_round 0xDC .wqpop f (by decide) rfl (by decide) (by decide) hw
theorem Encoding.wqwait (f : E2) : Encoding.Statement (.wqwait f) := fun hw _ h => by
  cases h
  exact E2_round 0xDD .wqwait f (by decide) rfl (by decide) (by decide) hw
theorem Encoding.tracex (f : E4) : Encoding.Statement (.tracex f) := fun hw _ h => by
  cases h
  exact E4_round 0xDE .tracex f (by decide) rfl (by decide) (by decide) hw
theorem Encoding.saddk (f : K) : Encoding.Statement (.saddk f) := fun hw _ h => by
  cases h
  exact K_round 0x38 .saddk f (by decide) rfl hw
theorem Encoding.smovk (f : K) : Encoding.Statement (.smovk f) := fun hw _ h => by
  cases h
  exact K_round 0x39 .smovk f (by decide) rfl hw
theorem Encoding.sandk (f : K) : Encoding.Statement (.sandk f) := fun hw _ h => by
  cases h
  exact K_round 0x3A .sandk f (by decide) rfl hw
theorem Encoding.sork (f : K) : Encoding.Statement (.sork f) := fun hw _ h => by
  cases h
  exact K_round 0x3B .sork f (by decide) rfl hw
theorem Encoding.sxork (f : K) : Encoding.Statement (.sxork f) := fun hw _ h => by
  cases h
  exact K_round 0x3C .sxork f (by decide) rfl hw
theorem Encoding.smulk (f : K) : Encoding.Statement (.smulk f) := fun hw _ h => by
  cases h
  exact K_round 0x3D .smulk f (by decide) rfl hw
theorem Encoding.sshlk (f : K) : Encoding.Statement (.sshlk f) := fun hw _ h => by
  cases h
  exact K_round 0x3E .sshlk f (by decide) rfl hw
theorem Encoding.sshrk (f : K) : Encoding.Statement (.sshrk f) := fun hw _ h => by
  cases h
  exact K_round 0x3F .sshrk f (by decide) rfl hw
theorem Encoding.collectorDispatch (core n : Nat) : Encoding.Statement (.collectorDispatch core n) :=
  fun _ _ h => nomatch h
theorem Encoding.resultWriteback (core n : Nat) : Encoding.Statement (.resultWriteback core n) :=
  fun _ _ h => nomatch h
theorem Encoding.longLatencyResult (acc : Nat) : Encoding.Statement (.longLatencyResult acc) :=
  fun _ _ h => nomatch h
theorem Encoding.sfuResult (op : Nat) : Encoding.Statement (.sfuResult op) :=
  fun _ _ h => nomatch h
theorem Encoding.reductionComplete (w n : Nat) : Encoding.Statement (.reductionComplete w n) :=
  fun _ _ h => nomatch h
theorem Encoding.storeFifoDrain (w : Nat) (frag : Option Nat) : Encoding.Statement (.storeFifoDrain w frag) :=
  fun _ _ h => nomatch h
theorem Encoding.constantFill (w sp : Nat) : Encoding.Statement (.constantFill w sp) :=
  fun _ _ h => nomatch h
theorem Encoding.rejoinDeadlockDetect (w : Nat) : Encoding.Statement (.rejoinDeadlockDetect w) :=
  fun _ _ h => nomatch h
theorem Encoding.sleepExpire (w sp : Nat) : Encoding.Statement (.sleepExpire w sp) :=
  fun _ _ h => nomatch h
theorem Encoding.waitvWake (w sp : Nat) : Encoding.Statement (.waitvWake w sp) :=
  fun _ _ h => nomatch h
theorem Encoding.deferredCauseRaise (w : Nat) : Encoding.Statement (.deferredCauseRaise w) :=
  fun _ _ h => nomatch h
theorem Encoding.deferredEngineCause (w : Nat) : Encoding.Statement (.deferredEngineCause w) :=
  fun _ _ h => nomatch h
theorem Encoding.supervisorTrapEntry (w : Nat) : Encoding.Statement (.supervisorTrapEntry w) :=
  fun _ _ h => nomatch h
theorem Encoding.exportMsg (w sp : Nat) : Encoding.Statement (.exportMsg w sp) :=
  fun _ _ h => nomatch h
theorem Encoding.pullreq (w sp r : Nat) : Encoding.Statement (.pullreq w sp r) :=
  fun _ _ h => nomatch h
theorem Encoding.pulldata (w sp r : Nat) : Encoding.Statement (.pulldata w sp r) :=
  fun _ _ h => nomatch h
theorem Encoding.overpush (w sp r : Nat) : Encoding.Statement (.overpush w sp r) :=
  fun _ _ h => nomatch h
theorem Encoding.backpush (w sp r : Nat) : Encoding.Statement (.backpush w sp r) :=
  fun _ _ h => nomatch h
theorem Encoding.sread (w sp : Nat) : Encoding.Statement (.sread w sp) :=
  fun _ _ h => nomatch h
theorem Encoding.swrite (w : Nat) : Encoding.Statement (.swrite w) :=
  fun _ _ h => nomatch h
theorem Encoding.bararr (w sp : Nat) : Encoding.Statement (.bararr w sp) :=
  fun _ _ h => nomatch h
theorem Encoding.barrierCompletionMessage (w sp : Nat) : Encoding.Statement (.barrierCompletionMessage w sp) :=
  fun _ _ h => nomatch h
theorem Encoding.joindec (w sp : Nat) : Encoding.Statement (.joindec w sp) :=
  fun _ _ h => nomatch h
theorem Encoding.cause (w sp : Nat) : Encoding.Statement (.cause w sp) :=
  fun _ _ h => nomatch h
theorem Encoding.fragmentRecall (w sp : Nat) : Encoding.Statement (.fragmentRecall w sp) :=
  fun _ _ h => nomatch h
theorem Encoding.fragmentCauseDelivery (w : Nat) : Encoding.Statement (.fragmentCauseDelivery w) :=
  fun _ _ h => nomatch h
theorem Encoding.copyUnitDelivered (op u : Nat) : Encoding.Statement (.copyUnitDelivered op u) :=
  fun _ _ h => nomatch h
theorem Encoding.copyOpComplete (op : Nat) : Encoding.Statement (.copyOpComplete op) :=
  fun _ _ h => nomatch h
theorem Encoding.tileRequest (acc k : Nat) : Encoding.Statement (.tileRequest acc k) :=
  fun _ _ h => nomatch h
theorem Encoding.pageWalkComplete (acc k : Nat) : Encoding.Statement (.pageWalkComplete acc k) :=
  fun _ _ h => nomatch h
theorem Encoding.tileFillComplete (acc k : Nat) : Encoding.Statement (.tileFillComplete acc k) :=
  fun _ _ h => nomatch h
theorem Encoding.mcastSectorSend (op u : Nat) : Encoding.Statement (.mcastSectorSend op u) :=
  fun _ _ h => nomatch h
theorem Encoding.tileOpGrant (op : Nat) : Encoding.Statement (.tileOpGrant op) :=
  fun _ _ h => nomatch h
theorem Encoding.tileOpComplete (op : Nat) : Encoding.Statement (.tileOpComplete op) :=
  fun _ _ h => nomatch h
theorem Encoding.tinvSweepDone (op : Nat) : Encoding.Statement (.tinvSweepDone op) :=
  fun _ _ h => nomatch h
theorem Encoding.deadlineFillStart (region : Nat) : Encoding.Statement (.deadlineFillStart region) :=
  fun _ _ h => nomatch h
theorem Encoding.deadlineFillCancel (region n : Nat) : Encoding.Statement (.deadlineFillCancel region n) :=
  fun _ _ h => nomatch h
theorem Encoding.reservationGrant (op : Nat) : Encoding.Statement (.reservationGrant op) :=
  fun _ _ h => nomatch h
theorem Encoding.matrixOpComplete (op : Nat) : Encoding.Statement (.matrixOpComplete op) :=
  fun _ _ h => nomatch h
theorem Encoding.osldPageLoaded (op : Nat) : Encoding.Statement (.osldPageLoaded op) :=
  fun _ _ h => nomatch h
theorem Encoding.gangLatchTimeout (cluster n : Nat) : Encoding.Statement (.gangLatchTimeout cluster n) :=
  fun _ _ h => nomatch h
theorem Encoding.aFetchXlateFault (op : Nat) : Encoding.Statement (.aFetchXlateFault op) :=
  fun _ _ h => nomatch h
theorem Encoding.launchReady (l : Nat) : Encoding.Statement (.launchReady l) :=
  fun _ _ h => nomatch h
theorem Encoding.blockDispatch (l : Nat) (ps : List Place) : Encoding.Statement (.blockDispatch l ps) :=
  fun _ _ h => nomatch h
theorem Encoding.blockStopped (b : Nat) : Encoding.Statement (.blockStopped b) :=
  fun _ _ h => nomatch h
theorem Encoding.blockResume (b : Nat) (ps : List Place) : Encoding.Statement (.blockResume b ps) :=
  fun _ _ h => nomatch h
theorem Encoding.preemptSoftDeadline (b : Nat) : Encoding.Statement (.preemptSoftDeadline b) :=
  fun _ _ h => nomatch h
theorem Encoding.preemptHardDeadline (b : Nat) : Encoding.Statement (.preemptHardDeadline b) :=
  fun _ _ h => nomatch h
theorem Encoding.blockEnd (b : Nat) : Encoding.Statement (.blockEnd b) :=
  fun _ _ h => nomatch h
theorem Encoding.launchComplete (l : Nat) : Encoding.Statement (.launchComplete l) :=
  fun _ _ h => nomatch h
theorem Encoding.stampSweepDone (part : Nat) : Encoding.Statement (.stampSweepDone part) :=
  fun _ _ h => nomatch h
theorem Encoding.reprintSelect (l : Nat) : Encoding.Statement (.reprintSelect l) :=
  fun _ _ h => nomatch h
theorem Encoding.orphanFormation (l : Nat) : Encoding.Statement (.orphanFormation l) :=
  fun _ _ h => nomatch h
theorem Encoding.serveQueue (lane : Nat) : Encoding.Statement (.serveQueue lane) :=
  fun _ _ h => nomatch h
theorem Encoding.parkedQueueWake (vf q : Nat) : Encoding.Statement (.parkedQueueWake vf q) :=
  fun _ _ h => nomatch h
theorem Encoding.timeSliceEnd (part : Nat) : Encoding.Statement (.timeSliceEnd part) :=
  fun _ _ h => nomatch h
theorem Encoding.fencePacket (lane : Nat) : Encoding.Statement (.fencePacket lane) :=
  fun _ _ h => nomatch h
theorem Encoding.signalPacket (lane : Nat) : Encoding.Statement (.signalPacket lane) :=
  fun _ _ h => nomatch h
theorem Encoding.launchPacket (lane : Nat) : Encoding.Statement (.launchPacket lane) :=
  fun _ _ h => nomatch h
theorem Encoding.reprintPacket (lane : Nat) : Encoding.Statement (.reprintPacket lane) :=
  fun _ _ h => nomatch h
theorem Encoding.feed (lane : Nat) : Encoding.Statement (.feed lane) :=
  fun _ _ h => nomatch h
theorem Encoding.copyPacket (lane : Nat) : Encoding.Statement (.copyPacket lane) :=
  fun _ _ h => nomatch h
theorem Encoding.migrateToHost (lane : Nat) : Encoding.Statement (.migrateToHost lane) :=
  fun _ _ h => nomatch h
theorem Encoding.migrateToDevice (lane : Nat) : Encoding.Statement (.migrateToDevice lane) :=
  fun _ _ h => nomatch h
theorem Encoding.tensorRegister (lane : Nat) : Encoding.Statement (.tensorRegister lane) :=
  fun _ _ h => nomatch h
theorem Encoding.tensorUnregister (lane : Nat) : Encoding.Statement (.tensorUnregister lane) :=
  fun _ _ h => nomatch h
theorem Encoding.wqcfgConfigure (lane : Nat) : Encoding.Statement (.wqcfgConfigure lane) :=
  fun _ _ h => nomatch h
theorem Encoding.wqcfgClose (lane : Nat) : Encoding.Statement (.wqcfgClose lane) :=
  fun _ _ h => nomatch h
theorem Encoding.wqcfgFree (lane : Nat) : Encoding.Statement (.wqcfgFree lane) :=
  fun _ _ h => nomatch h
theorem Encoding.dcset (lane : Nat) : Encoding.Statement (.dcset lane) :=
  fun _ _ h => nomatch h
theorem Encoding.nopPacket (lane : Nat) : Encoding.Statement (.nopPacket lane) :=
  fun _ _ h => nomatch h
theorem Encoding.queueNotify (vf : Nat) (v : Word) : Encoding.Statement (.queueNotify vf v) :=
  fun _ _ h => nomatch h
theorem Encoding.featureNegotiation (vf : Nat) : Encoding.Statement (.featureNegotiation vf) :=
  fun _ _ h => nomatch h
theorem Encoding.vfCreate (part vf : Nat) : Encoding.Statement (.vfCreate part vf) :=
  fun _ _ h => nomatch h
theorem Encoding.vfFlr (part vf : Nat) : Encoding.Statement (.vfFlr part vf) :=
  fun _ _ h => nomatch h
theorem Encoding.vfDestroy (part vf : Nat) : Encoding.Statement (.vfDestroy part vf) :=
  fun _ _ h => nomatch h
theorem Encoding.migFreeze (part vf : Nat) : Encoding.Statement (.migFreeze part vf) :=
  fun _ _ h => nomatch h
theorem Encoding.vfFrozen (part : Nat) : Encoding.Statement (.vfFrozen part) :=
  fun _ _ h => nomatch h
theorem Encoding.gatePark (region : Nat) (rq : InReq) : Encoding.Statement (.gatePark region rq) :=
  fun _ _ h => nomatch h
theorem Encoding.migResume (part vf : Nat) : Encoding.Statement (.migResume part vf) :=
  fun _ _ h => nomatch h
theorem Encoding.migReplay (part vf : Nat) : Encoding.Statement (.migReplay part vf) :=
  fun _ _ h => nomatch h
theorem Encoding.replayDone (part : Nat) : Encoding.Statement (.replayDone part) :=
  fun _ _ h => nomatch h
theorem Encoding.migAbort (part vf : Nat) : Encoding.Statement (.migAbort part vf) :=
  fun _ _ h => nomatch h
theorem Encoding.partitionShape (part : Nat) (v : Word) : Encoding.Statement (.partitionShape part v) :=
  fun _ _ h => nomatch h
theorem Encoding.partitionRun (part : Nat) : Encoding.Statement (.partitionRun part) :=
  fun _ _ h => nomatch h
theorem Encoding.partitionSuspend (part : Nat) : Encoding.Statement (.partitionSuspend part) :=
  fun _ _ h => nomatch h
theorem Encoding.partitionSuspended (part : Nat) : Encoding.Statement (.partitionSuspended part) :=
  fun _ _ h => nomatch h
theorem Encoding.remapCommit (part : Nat) : Encoding.Statement (.remapCommit part) :=
  fun _ _ h => nomatch h
theorem Encoding.remapCopyDone (part : Nat) : Encoding.Statement (.remapCopyDone part) :=
  fun _ _ h => nomatch h
theorem Encoding.tableUpdate (part : Nat) : Encoding.Statement (.tableUpdate part) :=
  fun _ _ h => nomatch h
theorem Encoding.tableUpdateDone (part : Nat) : Encoding.Statement (.tableUpdateDone part) :=
  fun _ _ h => nomatch h
theorem Encoding.tccfgWrite (part : Nat) (v : Word) : Encoding.Statement (.tccfgWrite part v) :=
  fun _ _ h => nomatch h
theorem Encoding.polbaseWrite (part : Nat) (v : Word) : Encoding.Statement (.polbaseWrite part v) :=
  fun _ _ h => nomatch h
theorem Encoding.debugResume (part : Nat) (v : Word) : Encoding.Statement (.debugResume part v) :=
  fun _ _ h => nomatch h
theorem Encoding.debugStep (part : Nat) (v : Word) : Encoding.Statement (.debugStep part v) :=
  fun _ _ h => nomatch h
theorem Encoding.debugHalt (part : Nat) (v : Word) : Encoding.Statement (.debugHalt part v) :=
  fun _ _ h => nomatch h
theorem Encoding.regionReset (region : Nat) : Encoding.Statement (.regionReset region) :=
  fun _ _ h => nomatch h
theorem Encoding.regionResetDone (region : Nat) : Encoding.Statement (.regionResetDone region) :=
  fun _ _ h => nomatch h
theorem Encoding.windowOpen (region win : Nat) (v : Word) : Encoding.Statement (.windowOpen region win v) :=
  fun _ _ h => nomatch h
theorem Encoding.windowClose (region win : Nat) : Encoding.Statement (.windowClose region win) :=
  fun _ _ h => nomatch h
theorem Encoding.windowCloseDone (region win : Nat) : Encoding.Statement (.windowCloseDone region win) :=
  fun _ _ h => nomatch h
theorem Encoding.portAssign (port : Nat) (v : Word) : Encoding.Statement (.portAssign port v) :=
  fun _ _ h => nomatch h
theorem Encoding.recoveryLoad : Encoding.Statement .recoveryLoad := fun _ _ h => nomatch h
theorem Encoding.attestation : Encoding.Statement .attestation := fun _ _ h => nomatch h
theorem Encoding.attestationDone : Encoding.Statement .attestationDone := fun _ _ h => nomatch h
theorem Encoding.registerWrite (sp : RegSpace) (off size : Nat) (v : DWord) : Encoding.Statement (.registerWrite sp off size v) :=
  fun _ _ h => nomatch h
theorem Encoding.packageReset : Encoding.Statement .packageReset := fun _ _ h => nomatch h
theorem Encoding.powerCapExceeded (watts : Nat) : Encoding.Statement (.powerCapExceeded watts) :=
  fun _ _ h => nomatch h
theorem Encoding.powerCapRelieved (watts : Nat) : Encoding.Statement (.powerCapRelieved watts) :=
  fun _ _ h => nomatch h
theorem Encoding.thermalHot (die degC : Nat) : Encoding.Statement (.thermalHot die degC) :=
  fun _ _ h => nomatch h
theorem Encoding.thermalCool (die degC : Nat) : Encoding.Statement (.thermalCool die degC) :=
  fun _ _ h => nomatch h
theorem Encoding.thermalTrip (die degC : Nat) : Encoding.Statement (.thermalTrip die degC) :=
  fun _ _ h => nomatch h
theorem Encoding.machineFault (region : Nat) : Encoding.Statement (.machineFault region) :=
  fun _ _ h => nomatch h
theorem Encoding.patrolScrub (region hbmErrs sramErrs : Nat) : Encoding.Statement (.patrolScrub region hbmErrs sramErrs) :=
  fun _ _ h => nomatch h
theorem Encoding.idlePowerEntry (region : Nat) : Encoding.Statement (.idlePowerEntry region) :=
  fun _ _ h => nomatch h
theorem Encoding.powerWake (region : Nat) : Encoding.Statement (.powerWake region) :=
  fun _ _ h => nomatch h
theorem Encoding.portLinkUp (port peer : Nat) : Encoding.Statement (.portLinkUp port peer) :=
  fun _ _ h => nomatch h
theorem Encoding.portLinkDown (port : Nat) : Encoding.Statement (.portLinkDown port) :=
  fun _ _ h => nomatch h
theorem Encoding.readFlit (port : Nat) (f : Flit) : Encoding.Statement (.readFlit port f) :=
  fun _ _ h => nomatch h
theorem Encoding.writeFlit (port : Nat) (f : Flit) : Encoding.Statement (.writeFlit port f) :=
  fun _ _ h => nomatch h
theorem Encoding.atomicFlit (port : Nat) (f : Flit) : Encoding.Statement (.atomicFlit port f) :=
  fun _ _ h => nomatch h
theorem Encoding.reduceFlit (port : Nat) (f : Flit) : Encoding.Statement (.reduceFlit port f) :=
  fun _ _ h => nomatch h
theorem Encoding.responseFlit (port : Nat) (f : Flit) : Encoding.Statement (.responseFlit port f) :=
  fun _ _ h => nomatch h
theorem Encoding.fenceFlit (port : Nat) (f : Flit) : Encoding.Statement (.fenceFlit port f) :=
  fun _ _ h => nomatch h
theorem Encoding.fenceackFlit (port : Nat) (f : Flit) : Encoding.Statement (.fenceackFlit port f) :=
  fun _ _ h => nomatch h
theorem Encoding.undefinedFlit (port : Nat) (f : Flit) : Encoding.Statement (.undefinedFlit port f) :=
  fun _ _ h => nomatch h
theorem Encoding.illegalEncoding (w : Word) : Encoding.Statement (.illegalEncoding w) :=
  fun _ _ h => nomatch h
theorem Encoding.wqOpComplete (op : Nat) : Encoding.Statement (.wqOpComplete op) :=
  fun _ _ h => nomatch h
theorem Encoding.instructionFetch (n : Nat) : Encoding.Statement (.instructionFetch n) :=
  fun _ _ h => nomatch h

end Sys2Proof.Laws
end

