-- ==== Sys2Proof/Safety.lean ====
section
/-! DEFINITION. The terms in which claims speak: steps that stop, operands that an instruction finds ready, and what it
leaves unchanged. -/

namespace Sys2Proof.Machine

/-! ## Runs -/

/-- A step that answers a next state. -/
def Goes (s : State) : Prop := ∃ t, step s = .next t

/-- A safe run of n steps: none of them faults or is refused. -/
def Safe (n : Nat) (s : State) : Prop := ∃ t, Host.Core.run { State, Fault, Refusal, step, reset := State.reset } n s = .next t

/-! ## Operands ready at issue -/

/-- What a fragment has read of its parent's scalar side is at hand (R190). -/
def Ctx.scalarSide (c : Ctx) : Bool :=
  match c.sp.home with
  | .wcore => true
  | .ncore f => f.snap.isSome

/-- A vector register is where the split reads it (R195). -/
def Ctx.hasV (c : Ctx) (r : BitVec 6) : Bool :=
  match c.sp.home with
  | .wcore => true
  | .ncore f => f.present.getLsbD r.toNat

/-- Every lane that a fragment has takes part in a write, or the register is there already (R197). -/
def Ctx.covers (c : Ctx) (P : Mask) (r : BitVec 6) : Bool :=
  match c.sp.home with
  | .wcore => true
  | .ncore f => f.present.getLsbD r.toNat || f.lanes &&& ~~~P == 0

/-- A source is FULL, at hand and not marked cancelled (R51, R172, R195). -/
def Ctx.readable (c : Ctx) (x : Src) : Bool :=
  c.srcState x == .full && (if x.vec then c.hasV x.r else !c.smark x.r && c.scalarSide)

/-- A destination can be written without a wait (R52, R169, R190, R197). -/
def Ctx.writable (c : Ctx) (P : Mask) (x : Src) : Bool := !c.dstWaits x && (!x.vec || c.covers P x.r)

/-- Every operand is ready; scal: the instruction reads the scalar side beside its sources. -/
def Ctx.ready (c : Ctx) (P : Mask) (srcs dsts : List Src) (scal : Bool) : Bool :=
  srcs.all c.readable && dsts.all (c.writable P) && (!scal || c.scalarSide)

/-- The cursor's split may issue. -/
def Issues (s : State) (c : Ctx) : Prop := issuer s = some c ∧ c.mayIssue = true

/-- A V-set instruction under guard g acts in some lane, finds a collector (R116) and its operands ready. -/
def VReady (s : State) (c : Ctx) (g : BitVec 3) (srcs dsts : List Src) : Prop :=
  Issues s c ∧ c.parts g ≠ 0 ∧ (c.sp.isLocal = true → c.collectors < 8) ∧
  c.ready (c.parts g) srcs dsts false = true

/-- A U-set instruction whose guard holds finds its operands ready. -/
def UReady (s : State) (c : Ctx) (q : BitVec 3) (neg scal : Bool) (srcs dsts : List Src) : Prop :=
  Issues s c ∧ (q = 7 ∨ c.scalarSide = true) ∧ c.qreg q = !neg ∧ c.ready 0 srcs dsts scal = true

/-! ## What stays -/

/-- Device memory, host memory, CSM and region scratchpads read as before. -/
def SameMemory (s t : State) : Prop :=
  (∀ a, Memory.read t.mem a = Memory.read s.mem a) ∧ (∀ a, Memory.read t.host a = Memory.read s.host a) ∧
  (∀ k a, Memory.read (t.core k).csm a = Memory.read (s.core k).csm a) ∧
  (∀ r a, (t.region r).rspByte a = (s.region r).rspByte a)

/-- Nothing but operand collectors and pipes of cores differs (R116). -/
def OnlyPipes (s t : State) : Prop :=
  t = { s with cores := t.cores } ∧ ∀ k, t.core k = { s.core k with pipe := (t.core k).pipe }

/-- A split without what exports its registers (R194, R198). -/
def Split.quiet (X : Split) : Split := X.modSlot fun f => { f with pending := 0, xfers := [] }

/-- A split without the registers of its slot. -/
def Split.rest (X : Split) : Split :=
  X.modSlot fun f => { f with v := [], vst := [], present := 0, dirty := 0, p := [], pDirty := 0 }

/-- A warp without its registers. -/
def Warp.rest (W : Warp) : Warp :=
  { W with v := [], vst := [], p := [], sc := Scal.reset, swrites := [], splits := W.splits.map Split.quiet }

/-- From c to c' only registers, collectors and the PC may differ; the PC goes n words on. -/
def Ctx.onward (c c' : Ctx) (n : Nat) : Prop :=
  c'.w = c.w ∧ OnlyPipes c.s c'.s ∧ c'.W.rest = c.W.rest ∧
  c'.sp.rest = { c.sp.rest with pc := c.sp.pc + BitVec.ofNat 32 (4 * n) }

/-- A consuming read of register r of a shared range (R169). -/
def Ctx.consumes (c : Ctx) (srcs : List Src) (r : BitVec 6) : Bool := srcs.any fun x => c.consuming x && x.r == r

/-- Vector register state as the split sees it. -/
def Ctx.vState (c : Ctx) (r : BitVec 6) : RegState := c.srcState ⟨true, r, true⟩

/-- In the lanes of P the registers of ds other than vz hold val and are FULL; every other register keeps its value,
and its state unless a consuming read empties it. -/
def Ctx.wroteV (c c' : Ctx) (srcs : List Src) (ds : List (BitVec 6)) (P : Mask) (val : BitVec 6 → Nat → Word) : Prop :=
  (∀ r l, l < 32 → c'.v r l = if r ∈ ds ∧ r ≠ 63 ∧ P.getLsbD l = true then val r l else c.v r l) ∧
  (∀ r, c'.vState r = if r ∈ ds ∧ r ≠ 63 then .full else if c.consumes srcs r then .empty else c.vState r)

/-- Lane predicates as before. -/
def Ctx.sameP (c c' : Ctx) : Prop := ∀ n, c'.pmask n = c.pmask n

/-- The scalar side as before, and no write to it on its way. -/
def Ctx.sameS (c c' : Ctx) : Prop := c'.W.sc = c.W.sc ∧ c'.W.swrites = c.W.swrites

/-- A vector instruction of n words that writes the registers ds and nothing else. -/
def Ctx.vEffect (c c' : Ctx) (n : Nat) (srcs : List Src) (ds : List (BitVec 6)) (P : Mask)
    (val : BitVec 6 → Nat → Word) : Prop :=
  c.onward c' n ∧ c.wroteV c' srcs ds P val ∧ c.sameP c' ∧ c.sameS c'

/-- Scalar register state as the split sees it. -/
def Ctx.sState (c : Ctx) (r : BitVec 6) : RegState := c.sstate r

/-- A write of the scalar registers of ds other than sz: at home each holds its value, is FULL and has no cancel mark;
from a fragment the writes go to the parent in order (R190). Nothing else on the scalar side changes. -/
def Ctx.wroteS (c c' : Ctx) (ds : List (BitVec 6)) (val : BitVec 6 → Word) : Prop :=
  match c.sp.home with
  | .wcore =>
    (∀ r, c'.sreg r = if r ∈ ds ∧ r ≠ 63 then val r else c.sreg r) ∧
    (∀ r, c'.sState r = if r ∈ ds ∧ r ≠ 63 then .full else c.sState r) ∧
    (∀ r, r ≠ 63 → c'.smark r = if r ∈ ds then false else c.smark r) ∧
    c'.W.sc = { c.W.sc with s := c'.W.sc.s, st := c'.W.sc.st, supS := c'.W.sc.supS, supSt := c'.W.sc.supSt,
                            cancel := c'.W.sc.cancel } ∧
    c'.W.swrites = c.W.swrites
  | .ncore _ =>
    c'.W.sc = c.W.sc ∧
    c'.W.swrites = c.W.swrites ++ (ds.filter fun r => r != 63).map fun r => .reg (scalarNo (c.bank r) r) (val r) .full

/-- A scalar instruction of n words that writes the registers ds and nothing else. -/
def Ctx.sEffect (c c' : Ctx) (n : Nat) (ds : List (BitVec 6)) (val : BitVec 6 → Word) : Prop :=
  c.onward c' n ∧ c.wroteS c' ds val ∧ c.sameP c' ∧ c.wroteV c' [] [] 0 fun _ _ => 0

/-- A write of uniform predicate n, qt being discarded: at home, or on its way to the parent (R190). -/
def Ctx.wroteQ (c c' : Ctx) (n : BitVec 3) (b : Bool) : Prop :=
  match c.sp.home with
  | .wcore =>
    (∀ m, c'.qreg m = if m = n ∧ m ≠ 7 then b else c.qreg m) ∧
    c'.W.sc = { c.W.sc with q := c'.W.sc.q, supQ := c'.W.sc.supQ } ∧ c'.W.swrites = c.W.swrites
  | .ncore _ => c'.W.sc = c.W.sc ∧ c'.W.swrites = c.W.swrites ++ if n = 7 then [] else [.q (predNo c.sp.sup n) b]

/-- Vector registers as before, but for shared sources that a consuming read empties. -/
def Ctx.sameV (c c' : Ctx) (srcs : List Src) : Prop := c.wroteV c' srcs [] 0 fun _ _ => 0

/-- An instruction of n words that writes one uniform predicate and nothing else. -/
def Ctx.qEffect (c c' : Ctx) (n : Nat) (srcs : List Src) (m : BitVec 3) (b : Bool) : Prop :=
  c.onward c' n ∧ c.wroteQ c' m b ∧ c.sameP c' ∧ c.sameV c' srcs

/-- In the lanes where sel holds, the lane predicate that it names, pt apart, takes val; every other lane of every
predicate is as before. -/
def Ctx.wroteP (c c' : Ctx) (sel : BitVec 3 → Nat → Bool) (val : Nat → Bool) : Prop :=
  ∀ m l, l < 32 → (c'.pmask m).getLsbD l = if m ≠ 7 ∧ sel m l = true then val l else (c.pmask m).getLsbD l

/-- An instruction of n words that writes lane predicate p in the lanes of P and nothing else. -/
def Ctx.pEffect (c c' : Ctx) (n : Nat) (srcs : List Src) (p : BitVec 3) (P : Mask) (val : Nat → Bool) : Prop :=
  c.onward c' n ∧ c.wroteP c' (fun m l => m == p && P.getLsbD l) val ∧ c.sameV c' srcs ∧ c.sameS c'

end Sys2Proof.Machine
end

