-- ==== Sys2Proof/Certificates/Slice0/Obligations.lean ====
section
/-! DEFINITION. The statements for the provers, with the tables of results that they compare the machine with. -/

namespace Sys2Proof.Claims

open Sys2Proof.Machine

/-- The word whose bit i is f i. -/
def ofBits (f : Nat → Bool) : Word :=
  BitVec.ofNat 32 ((List.range 32).foldl (fun z i => z + if f i then 2 ^ i else 0) 0)

/-- Whether a word read as FP32 is a NaN: exponent all ones and a fraction that is not zero (R92). -/
def isNan32 (a : Word) : Bool := a.extractLsb' 23 8 == 0xFF && a.extractLsb' 0 23 != 0

/-! ## Results of vector instructions -/

/-- R126: the integer instructions with two sources. -/
def intTwo : List ((R3 → Instr) × (Word → Word → Word)) :=
  [(.iadd, fun a b => BitVec.ofNat 32 (a.toNat + b.toNat)),
   (.isub, fun a b => BitVec.ofInt 32 (a.toNat - b.toNat)),
   (.imul, fun a b => BitVec.ofNat 32 (a.toNat * b.toNat)),
   (.imulh, fun a b => BitVec.ofInt 32 (a.toInt * b.toInt / 2 ^ 32)),
   (.imulhu, fun a b => BitVec.ofNat 32 (a.toNat * b.toNat / 2 ^ 32)),
   (.imin, fun a b => if a.toInt ≤ b.toInt then a else b),
   (.imax, fun a b => if a.toInt ≤ b.toInt then b else a),
   (.iminu, fun a b => if a.toNat ≤ b.toNat then a else b),
   (.imaxu, fun a b => if a.toNat ≤ b.toNat then b else a)] ++
  [(.and, fun a b => ofBits fun i => a.getLsbD i && b.getLsbD i),
   (.or, fun a b => ofBits fun i => a.getLsbD i || b.getLsbD i),
   (.xor, fun a b => ofBits fun i => a.getLsbD i ^^ b.getLsbD i),
   (.andn, fun a b => ofBits fun i => a.getLsbD i && !b.getLsbD i),
   (.shl, fun a b => if b.toNat ≤ 31 then BitVec.ofNat 32 (a.toNat * 2 ^ b.toNat) else 0),
   (.shr, fun a b => if b.toNat ≤ 31 then BitVec.ofNat 32 (a.toNat / 2 ^ b.toNat) else 0),
   (.sar, fun a b => BitVec.ofInt 32 (a.toInt / 2 ^ min b.toNat 31)),
   (.rol, fun a b => ofBits fun i => a.getLsbD ((i + 32 - b.toNat % 32) % 32))]

/-- R126: the integer instructions with one source. -/
def intOne : List ((R2 → Instr) × (Word → Word)) :=
  [(.iabs, fun a => BitVec.ofNat 32 a.toInt.natAbs),
   (.popc, fun a => BitVec.ofNat 32 ((List.range 32).filter fun i => a.getLsbD i).length),
   (.clz, fun a => BitVec.ofNat 32 ((List.range 32).takeWhile fun i => !a.getLsbD (31 - i)).length),
   (.brev, fun a => ofBits fun i => a.getLsbD (31 - i))]

/-- R129, R130, R136, R138: floating-point and packed instructions with two sources; the flag says that d is a source. -/
def fpTwo : List ((R3 → Instr) × Bool × (Word → Word → Word → Word)) :=
  [(.fadd, false, fun a b _ => to32 ((f32 a).add (f32 b))),
   (.fsub, false, fun a b _ => to32 ((f32 a).add (f32 b).neg)),
   (.fmul, false, fun a b _ => to32 ((f32 a).mul (f32 b))),
   (.fmar, true, fun a b d => to32 (((f32 d).mul (f32 a)).add (f32 b))),
   (.fmin, false, fun a b _ => fmin a b),
   (.fmax, false, fun a b _ => fmax a b),
   (.hadd2, false, fun a b _ => hadd2 a b),
   (.hmul2, false, fun a b _ => hmul2 a b),
   (.hmax2, false, fun a b _ => hmax2 a b),
   (.k4dec, false, fun a b _ => to32 (k4Value (a.extractLsb' (4 * (b.extractLsb' 8 3).toNat) 4).toNat (b.extractLsb' 0 8).toNat))]

/-- R131: the sign-bit instructions. -/
def signOne : List ((R2 → Instr) × (Word → Word)) :=
  [(.fabs, fun a => ofBits fun i => a.getLsbD i && i != 31),
   (.fneg, fun a => ofBits fun i => a.getLsbD i ^^ i == 31)]

/-- R140: bit-field extract by bits. -/
def extracted (a b c : Word) : Word :=
  let pos := b.toNat % 256
  let len := min (c.toNat % 256) (32 - pos)
  ofBits fun i => if i < len then a.getLsbD (pos + i) else c.getLsbD 8 && decide (0 < len) && a.getLsbD (pos + len - 1)

/-- R141: bit-field insert by bits. -/
def inserted (a b c : Word) : Word :=
  let pos := c.toNat % 256
  let len := c.toNat / 256 % 256
  ofBits fun i => if pos ≤ i ∧ i < pos + len then a.getLsbD (i - pos) else b.getLsbD i

/-- R139-R141: the instructions of format VF. -/
def vfThree : List ((F4 → Instr) × (Word → Word → Word → Word)) :=
  [(.imad, fun a b c => BitVec.ofNat 32 (a.toNat * b.toNat + c.toNat)),
   (.bfx, extracted),
   (.bfi, inserted),
   (.sel, fun a b c => if c ≠ 0 then a else b),
   (.ffma, fun a b c => to32 (((f32 a).mul (f32 b)).add (f32 c))),
   (.ffman, fun a b c => to32 ((f32 c).add ((f32 a).mul (f32 b)).neg)),
   (.hfma2, hfma2)]

/-- R64, R143: imm20 as the top of an FP32 pattern. -/
def immTop (i : BitVec 20) : Word := BitVec.ofNat 32 (i.toNat * 4096)
/-- R64, R143: imm20 sign-extended. -/
def immSigned (i : BitVec 20) : Word := BitVec.ofInt 32 i.toInt

/-- R143: the instructions of format VK; the flag says that d is read. -/
def vkTable : List ((K → Instr) × Bool × (Word → BitVec 20 → Word)) :=
  [(.faddk, true, fun d i => to32 ((f32 d).add (f32 (immTop i)))),
   (.fmulk, true, fun d i => to32 ((f32 d).mul (f32 (immTop i)))),
   (.fmovk, false, fun _ i => immTop i),
   (.iaddk, true, fun d i => BitVec.ofInt 32 (d.toInt + i.toInt)),
   (.imovk, false, fun _ i => immSigned i),
   (.andk, true, fun d i => d &&& immSigned i),
   (.ork, true, fun d i => d ||| immSigned i),
   (.xork, true, fun d i => d ^^^ immSigned i)]

/-- Sources of a two-source vector instruction. -/
def srcsR3 (f : R3) (readsD : Bool) : List Src :=
  group true f.a 1 f.wA ++ bSrcs f.b true ++ if readsD then group true f.d 1 true else []

/-- exec i at s completes: it answers the state that follows an instruction which made c' of its context, and every
memory reads as before. -/
def completes (i : Instr) (s : State) (uset : Bool) (P : Ctx → Prop) : Prop :=
  ∃ c', exec i s = .next (c'.finish uset) ∧ P c' ∧ SameMemory s (c'.finish uset)

/-! ## Results of scalar instructions and compares -/

/-- R145: the scalar instructions with two sources. -/
def scalTwo : List ((R3 → Instr) × (Word → Word → Word)) :=
  [(.sadd, fun a b => BitVec.ofNat 32 (a.toNat + b.toNat)),
   (.ssub, fun a b => BitVec.ofInt 32 (a.toNat - b.toNat)),
   (.smul, fun a b => BitVec.ofNat 32 (a.toNat * b.toNat)),
   (.smulh, fun a b => BitVec.ofInt 32 (a.toInt * b.toInt / 2 ^ 32)),
   (.sand, fun a b => ofBits fun i => a.getLsbD i && b.getLsbD i),
   (.sor, fun a b => ofBits fun i => a.getLsbD i || b.getLsbD i),
   (.sxor, fun a b => ofBits fun i => a.getLsbD i ^^ b.getLsbD i)] ++
  [(.sshl, fun a b => if b.toNat ≤ 31 then BitVec.ofNat 32 (a.toNat * 2 ^ b.toNat) else 0),
   (.sshr, fun a b => if b.toNat ≤ 31 then BitVec.ofNat 32 (a.toNat / 2 ^ b.toNat) else 0),
   (.ssar, fun a b => BitVec.ofInt 32 (a.toInt / 2 ^ min b.toNat 31)),
   (.smin, fun a b => if a.toInt ≤ b.toInt then a else b),
   (.smax, fun a b => if a.toInt ≤ b.toInt then b else a),
   (.sminu, fun a b => if a.toNat ≤ b.toNat then a else b),
   (.smaxu, fun a b => if a.toNat ≤ b.toNat then b else a)]

/-- R145: the scalar instructions with one source. -/
def scalOne : List ((R2 → Instr) × (Word → Word)) :=
  [(.spopc, fun a => BitVec.ofNat 32 ((List.range 32).filter fun i => a.getLsbD i).length),
   (.sclz, fun a => BitVec.ofNat 32 ((List.range 32).takeWhile fun i => !a.getLsbD (31 - i)).length)]

/-- R144: the instructions of format UK; the flag says that d is read. -/
def ukTable : List ((K → Instr) × Bool × (Word → BitVec 20 → Word)) :=
  [(.saddk, true, fun d i => BitVec.ofInt 32 (d.toInt + i.toInt)),
   (.smovk, false, fun _ i => immSigned i),
   (.sandk, true, fun d i => d &&& immSigned i),
   (.sork, true, fun d i => d ||| immSigned i),
   (.sxork, true, fun d i => d ^^^ immSigned i),
   (.smulk, true, fun d i => BitVec.ofInt 32 (d.toInt * i.toInt)),
   (.sshlk, true, fun d i => if 0 ≤ i.toInt ∧ i.toInt ≤ 31 then BitVec.ofNat 32 (d.toNat * 2 ^ i.toNat) else 0),
   (.sshrk, true, fun d i => if 0 ≤ i.toInt ∧ i.toInt ≤ 31 then BitVec.ofNat 32 (d.toNat / 2 ^ i.toNat) else 0)]

/-- R128: the integer conditions. -/
def intCondition (k : BitVec 3) (a b : Word) : Bool :=
  match k.toNat with
  | 0 => a.toNat = b.toNat
  | 1 => a.toNat ≠ b.toNat
  | 2 => a.toInt < b.toInt
  | 3 => a.toInt ≤ b.toInt
  | 4 => b.toInt < a.toInt
  | 5 => b.toInt ≤ a.toInt
  | 6 => a.toNat < b.toNat
  | _ => a.toNat ≤ b.toNat

/-- R149: the functions of two predicates, as the truth table of X, Y: FF, FT, TF, TT. -/
def predicateFn (k : BitVec 3) (x y : Bool) : Bool :=
  let rows := match k.toNat with
    | 0 => [false, false, false, true]
    | 1 => [false, true, true, true]
    | 2 => [false, true, true, false]
    | 3 => [false, false, true, false]
    | 4 => [true, false, true, true]
    | 5 => [true, true, true, false]
    | 6 => [true, false, false, false]
    | _ => [true, false, false, true]
  rows.getD (2 * x.toNat + y.toNat) false

/-! ## Cross-lane -/

/-- R160: what a lane gets from lane j of register a: zero and the OUTMASK flag where j is not valid. -/
def picked (c : Ctx) (a : BitVec 6) (j : Int) : Word × Bool :=
  if 0 ≤ j ∧ j ≤ 31 ∧ c.sp.mask.getLsbD j.toNat = true then (c.v a j.toNat, false) else (0, true)

/-- R162: the source lane of a shuffle. -/
def shuffles : List ((R3 → Instr) × (Nat → Nat → Int)) :=
  [(.shfli, fun _ b => b), (.shflu, fun l b => l - b), (.shfld, fun l b => l + b), (.shflx, fun l b => (l ^^^ b : Nat))]

/-- R163: the functions of VOTE. -/
def voted (m : BitVec 3) (P pred : Mask) : Bool :=
  let ls := (List.range 32).filter fun l => P.getLsbD l
  if m = 0 then ls.all fun l => pred.getLsbD l
  else if m = 1 then ls.any fun l => pred.getLsbD l
  else (ls.all fun l => pred.getLsbD l) || !(ls.any fun l => pred.getLsbD l)

/-- R165: the operands of a reduction, with the identity in the lanes that do not participate. -/
def operands (P : Mask) (x : Nat → Word) (e : Word) : List Word :=
  (List.range 32).map fun l => if P.getLsbD l then x l else e

/-- R166: one level of the tree. -/
def halved (xs : List Word) : List Word := (List.range (xs.length / 2)).map fun i => fadd (xs.getD (2 * i) 0) (xs.getD (2 * i + 1) 0)

/-- R165, R166: the reductions. -/
def reductions : List ((Red → Instr) × (Mask → (Nat → Word) → Word)) :=
  [(.redadd, fun P x => BitVec.ofNat 32 ((operands P x 0).map (·.toNat)).sum),
   (.redmin, fun P x => BitVec.ofInt 32 (((operands P x 0x7FFFFFFF).map (·.toInt)).foldl min 0x7FFFFFFF)),
   (.redmax, fun P x => BitVec.ofInt 32 (((operands P x 0x80000000).map (·.toInt)).foldl max (-0x80000000))),
   (.redfadd, fun P x => (halved (halved (halved (halved (halved (operands P x 0x80000000)))))).getD 0 0)]

/-! ## Memory instructions -/

/-- The instruction has gone n words on; nothing of its warp and split differs but registers. -/
def goneOn (c c' : Ctx) (n : Nat) : Prop :=
  c'.w = c.w ∧ c'.W.rest = c.W.rest ∧ c'.sp.rest = { c.sp.rest with pc := c.sp.pc + BitVec.ofNat 32 (4 * n) }

/-- No vector register changes its value; those of ds turn EMPTY, and shared sources that a consuming read empties
(R50, R169). -/
def emptied (c c' : Ctx) (srcs : List Src) (ds : List (BitVec 6)) : Prop :=
  (∀ r l, l < 32 → c'.v r l = c.v r l) ∧
  ∀ r, c'.vState r = if r ∈ ds ∨ c.consumes srcs r = true then .empty else c.vState r

/-- What the trace unit keeps of a block set aside (R375). -/
def untraced (B : Block) : Block :=
  { B with trace := [], tAlways := false, tAccum := false, tOverflow := false, tFlat := false }

/-- Access number s.fresh is new and is a; beside it only collectors, pipes and the trace of blocks differ. -/
def newAccess (s t : State) (a : Access) : Prop :=
  tfind t.accs s.fresh = some a ∧ (∀ k, k ≠ s.fresh → tfind t.accs k = tfind s.accs k) ∧
  t = { s with cores := t.cores, blocks := t.blocks, accs := t.accs, fresh := s.fresh + 1 } ∧
  (∀ k, t.core k = { s.core k with pipe := (t.core k).pipe }) ∧
  ∀ b, (tfind t.blocks b).map untraced = (tfind s.blocks b).map untraced

/-- The threads whose program order an access stands in (R14, R24): those of its lanes, or the split's for a scalar one. -/
def threadsIn (c : Ctx) (scalar : Bool) (lanes : List LaneAcc) : Mask :=
  if scalar = true then c.sp.mask else maskOf fun l => lanes.any fun x => x.lane == l

/-- The record of an access that c issues (R221, R224). -/
def recordOf (c : Ctx) (kind : AccKind) (scalar : Bool) (dst : List Nat) (lanes : List LaneAcc) : Access :=
  { warp := c.w, split := c.sp.id, uid := c.sp.uid, frag := !c.sp.isLocal, threads := threadsIn c scalar lanes, age := 0
    sup := c.sp.sup, pc := c.sp.pc, kind := kind, scalar := scalar
    dst := dst, lanes := lanes, subs := subsOf (lanes.filter fun x => !x.got), released := false, gone := none }

/-- Registers d to d + n - 1, or none for the zero name. -/
def regsFrom (d : BitVec 6) (n : Nat) : List (BitVec 6) :=
  if d = 63 then [] else (List.range n).map fun i => d + BitVec.ofNat 6 i

/-- The lanes of a vector access of some size: each at its address, with its data. -/
def lanesAt (c : Ctx) (g : BitVec 3) (size : Nat) (ea val val2 : Nat → Nat) : List LaneAcc :=
  (lanesOf (c.parts g)).map fun l =>
    { lane := l, ea := ea l, tgt := c.target (ea l) size, val := val l, val2 := val2 l, res := 0, denied := false,
      got := false }

/-- The one lane of a scalar access. -/
def laneAt (c : Ctx) (size ea val val2 : Nat) : List LaneAcc :=
  [{ lane := 0, ea := ea, tgt := c.target ea size, val := val, val2 := val2, res := 0, denied := false, got := false }]

/-- No lane's address meets a cause (R223, R38); write: of a store or atomic. -/
def clean (c : Ctx) (g : BitVec 3) (size : Nat) (ea : Nat → Nat) (write : Bool := false) : Prop :=
  ∀ l ∈ lanesOf (c.parts g), c.eaCauses (ea l) size write = []

/-- R227, R228, R230: vector loads: kind, size, destination registers, and whether a zero destination makes a hint. -/
def vectorLoads : List ((M → Instr) × AccKind × Nat × Nat × Bool) :=
  [(.ldbs, .load 1 true, 1, 1, true), (.ldbu, .load 1 false, 1, 1, true), (.ldhs, .load 2 true, 2, 1, true),
   (.ldhu, .load 2 false, 2, 1, true), (.ldw, .load 4 false, 4, 1, true), (.ldd, .load 8 false, 8, 2, true),
   (.ldq, .load 16 false, 16, 4, true), (.tldg, .tldg, 4, 2, true), (.ldp, .poll, 4, 1, false)]

/-- R227: vector stores: size and data registers. -/
def vectorStores : List ((M → Instr) × Nat × Nat) :=
  [(.stb, 1, 1), (.sth, 2, 1), (.stw, 4, 1), (.std, 8, 2), (.stq, 16, 4)]

/-- R232: vector atomics: number of the operation, and whether d names a pair. -/
def vectorAtomics : List ((MS → Instr) × Nat × Bool) :=
  [(.atadd, 0, false), (.atmin, 1, false), (.atmax, 2, false), (.atand, 3, false), (.ator, 4, false), (.atxor, 5, false),
   (.atxch, 6, false), (.atcas, 7, true), (.atfadd, 8, false)]

/-- The same context with another store queue (R207, R221). -/
def withQueue (c : Ctx) (q : List StoreE) : Ctx :=
  match c.sp.home with
  | .wcore => { c with W := { c.W with fifo := q } }
  | .ncore f => { c with sp := { c.sp with home := .ncore { f with queue := q } } }

/-- The entry of a store instruction (R221). -/
def entryOf (c : Ctx) (scalar : Bool) (size : Nat) (rel : Option Nat) (stlf : Bool) (lanes : List LaneAcc) : StoreE :=
  { size := size, rel := rel, stlf := stlf, lanes := lanes, pc := c.sp.pc, split := c.sp.id, sup := c.sp.sup,
    age := c.s.fresh, uid := c.sp.uid, threads := threadsIn c scalar lanes }

/-- R453: a scope that covers threads on another die or device: SYSTEM, or PARTITION of regions on several dies. -/
def reachesFar (s : State) (part scope : Nat) : Bool :=
  scope == 5 || (scope == 4 && part / 6 != (part + s.partRegions part - 1) / 6)

/-- State after the release side of an access at a scope (R314, R453): tokens of the warp's principal leave where the scope
reaches far. -/
def releasedState (c : Ctx) (scope : Nat) : State :=
  let r := (releaseOf c.s c.w c.W).1
  if reachesFar r (r.warpPart c.W) scope = true then r.sendTokens (r.warpPart c.W) c.W.sc.csr.princ else r

/-- A warp's context after a release: no write to an open tensor is pending (R314). -/
def releasedCtx (c : Ctx) : Ctx := { c with W := { c.W with openDirty := false } }

/-- The warp has observed a future: its floor is the open-write counter (R30, R314). -/
def observedBy (c : Ctx) : Ctx := { c with W := { c.W with floor := (c.s.part (c.s.warpPart c.W)).owc } }

/-- Scalar registers of ds turn EMPTY with their values kept: at home, or on the way to the parent (R50, R190). -/
def emptiedS (c c' : Ctx) (ds : List (BitVec 6)) : Prop :=
  match c.sp.home with
  | .wcore =>
    (∀ r, c'.sreg r = c.sreg r) ∧ (∀ r, c'.sState r = if r ∈ ds then .empty else c.sState r) ∧
    c'.W.sc = { c.W.sc with s := c'.W.sc.s, st := c'.W.sc.st, supS := c'.W.sc.supS, supSt := c'.W.sc.supSt,
                            cancel := c'.W.sc.cancel } ∧
    c'.W.swrites = c.W.swrites
  | .ncore _ =>
    c'.W.sc = c.W.sc ∧ c'.W.swrites = c.W.swrites ++ ds.map fun r => .reg (scalarNo (c.bank r) r) (c.sreg r) .empty

/-- The numbers of scalar registers as destinations: from 64 on those of the supervisor bank. -/
def scalarNos (c : Ctx) (ds : List (BitVec 6)) : List Nat := ds.map fun r => if c.bank r then 64 + r.toNat else r.toNat

/-- R233: scalar loads and stores: size and registers. -/
def scalarLoads : List ((M → Instr) × Nat × Nat) := [(.sldw, 4, 1), (.sldd, 8, 2), (.sldq, 16, 4)]
/-- R233: the scalar stores. -/
def scalarStores : List ((M → Instr) × Nat × Nat) := [(.sstw, 4, 1), (.sstd, 8, 2)]
/-- R234: scalar atomics. -/
def scalarAtomics : List ((MS → Instr) × Nat × Bool) := [(.satadd, 0, false), (.satcas, 7, true)]

/-- The words of scalar registers d to d + n - 1 as one number. -/
def scalarData (c : Ctx) (d : BitVec 6) (n : Nat) : Nat :=
  ((List.range n).map fun i => (if d = 63 then 0 else (c.sreg (d + BitVec.ofNat 6 i)).toNat) * 2 ^ (32 * i)).sum

/-- Word i of what a lane of a load returned (R227, R230). -/
def loadedWord (k : AccKind) (x : LaneAcc) (i : Nat) : Word :=
  match k with
  | .tldg => if i = 0 then (if x.denied then 0 else BitVec.ofNat 32 x.res) else (if x.denied then 1 else 0)
  | .load 1 true => BitVec.ofInt 32 (BitVec.ofNat 8 x.res).toInt
  | .load 2 true => BitVec.ofInt 32 (BitVec.ofNat 16 x.res).toInt
  | _ => BitVec.ofNat 32 (x.res / 2 ^ (32 * i))

/-- R232: the word that an atomic leaves; none: it writes nothing. -/
def atomicResult (op : Nat) (old x y : Word) : Option Word :=
  match op with
  | 0 => some (BitVec.ofNat 32 (old.toNat + x.toNat))
  | 1 => some (if x.toInt < old.toInt then x else old)
  | 2 => some (if old.toInt < x.toInt then x else old)
  | 3 => some (ofBits fun i => old.getLsbD i && x.getLsbD i)
  | 4 => some (ofBits fun i => old.getLsbD i || x.getLsbD i)
  | 5 => some (ofBits fun i => old.getLsbD i ^^ x.getLsbD i)
  | 6 => some x
  | 7 => if old = x then some y else none
  | _ => some (to32 ((f32 old).add (f32 x)))

/-! ## Control flow -/

/-- Only the issuing split differs: it is X. -/
def splitOnly (c c' : Ctx) (X : Split) : Prop := c'.s = c.s ∧ c'.w = c.w ∧ c'.W = c.W ∧ c'.sp = X

/-- R367: the address of the warp's area in the save pool. -/
def areaAt (c : Ctx) : Nat := (c.s.part (c.s.warpPart c.W)).lsavepa.toNat + 1024 * c.W.sc.csr.savebase.toNat

/-- R151, R368: the address in the split's spill area to which a push moves the entry that becomes the ninth from the top. -/
def spillAt (c : Ctx) : Nat := areaAt c + 0x2800 + 1792 * c.sp.id + 32 * (c.sp.stack.length - 8)

/-- The state of c' is that of c after a push: nothing changes but, where a ninth entry leaves the chip for a warp area that
lies in memory, its 32 bytes of the spill area (R151, R463). -/
def spilled (c c' : Ctx) : Prop :=
  c'.s = { c.s with mem := c'.s.mem } ∧
  ∀ a, Memory.read c'.s.mem a =
    match (if c.sp.isLocal = true ∧ paInside (areaAt c) 0x4400 = true then c.sp.stack[7]? else none) with
    | some e => if spillAt c ≤ a ∧ a < spillAt c + 32 then e.bytes.getD (a - spillAt c) 0 else Memory.read c.s.mem a
    | none => Memory.read c.s.mem a

/-- exec i at s answers the state after an instruction that pushes an entry. -/
def pushes (i : Instr) (s : State) (c : Ctx) (uset : Bool) (P : Ctx → Prop) : Prop :=
  ∃ c' t, exec i s = .next (c'.finish uset) ∧ P c' ∧ c'.w = c.w ∧ OnlyPipes c.s t ∧ spilled { c with s := t } c' ∧
    (c'.finish uset).mem = c'.s.mem ∧ (c'.finish uset).host = s.host ∧
    (∀ k a, Memory.read ((c'.finish uset).core k).csm a = Memory.read (s.core k).csm a) ∧
    ∀ r a, ((c'.finish uset).region r).rspByte a = (s.region r).rspByte a

/-- The offset n words from pc (R58). -/
def wordsFrom (pc : Word) (n : Int) : Word := BitVec.ofInt 32 ((pc.toNat : Int) + 4 * n)

/-- R53, R66: the guard in a word that has one: whether the word is of the V-set, the predicate's number, and the value for
which the instruction does nothing (R63). -/
def guardIn (w : Word) : Option (Bool × BitVec 3 × Bool) :=
  let op := (w.extractLsb' 24 8).toNat
  if op < 0x28 ∨ (0x30 ≤ op ∧ op < 0x5D) ∨ op = 0x5F then some (true, w.extractLsb' 21 3, false)
  else if op = 0xA0 ∨ op = 0xA2 then some (false, w.extractLsb' 21 3, w.getLsbD 20)
  else if 0x80 ≤ op ∧ op < 0xC0 ∧ op ≠ 0x92 ∧ op ≠ 0xB8 then some (false, w.extractLsb' 21 3, false)
  else none

/-- Lanes of a path of BRD (R157). -/
def takenLanes (c : Ctx) (f : BrdOps) : Mask :=
  maskOf fun l => c.sp.mask.getLsbD l && ((c.pmask f.p).getLsbD l != f.n)

/-- R157: where the lanes that take BRD go, where the others go, and the join point. -/
def brdTarget (c : Ctx) (f : BrdOps) : Word := wordsFrom c.sp.pc f.t.toInt
def brdNext (c : Ctx) : Word := c.sp.pc + 8
def brdJoin (c : Ctx) (f : BrdOps) : Word := wordsFrom c.sp.pc f.j.toInt

/-- R157: a target 1 to 16 words back is the first path; otherwise the lanes that fall through are. -/
def brdPaths (c : Ctx) (f : BrdOps) : (Word × Mask) × (Word × Mask) :=
  let t := (brdTarget c f, takenLanes c f)
  let n := (brdNext c, c.sp.mask &&& ~~~takenLanes c f)
  if -16 ≤ f.t.toInt ∧ f.t.toInt ≤ -1 then (t, n) else (n, t)

/-- The join entry that a division pushes (R151, R152). -/
def joinOf (c : Ctx) (j : Word) (defer : Option (Word × Mask)) (joins : Nat) : JoinE :=
  { id := c.W.nextJoin, j := j, mask := c.sp.mask, arrived := 0, fmt := c.sp.fmt, defer := defer, joins := joins }

/-- The issuing split on the first path (R152). -/
def firstPath (c : Ctx) (p : Word × Mask) (e : JoinE) : Split :=
  { c.sp with pc := p.1, mask := p.2, stack := .join e :: c.sp.stack }

/-- The lowest split id that is not in use (R150). -/
def lowestFree (c : Ctx) (k : Nat) : Prop :=
  k < 4 ∧ (∀ X ∈ c.W.splits, X.id ≠ k) ∧ ∀ i, i < k → ∃ X ∈ c.W.splits, X.id = i

/-! ## Traps, returns and CSRs -/

/-- The warp put back with its scalar side and the issuing split replaced. -/
def putBack (c : Ctx) (sc : Scal) (X : Split) : State :=
  c.s.putWarp c.w { c.W with sc := sc, splits := c.W.splits.map fun Y => if Y.id = X.id then X else Y }

/-- R175-R177: the state after a user-class cause of the issuing split has gone to the handler. -/
def userEntry (c : Ctx) (code : Nat) (pc : Word) (addr aux : Nat) : State :=
  let r := c.W.sc.csr
  let csr := { r with
    trapc := BitVec.ofNat 32 (code + c.sp.id % 4 * 256 + 2048), trappc := pc &&& 0xFFFFFFFC
    trapal := BitVec.ofNat 32 addr, trapah := BitVec.ofNat 32 (addr / 2 ^ 32), trapaux := BitVec.ofNat 32 aux }
  putBack c { c.W.sc with csr := csr }
    { c.sp with
      pc := r.trapv &&& 0xFFFFFFFC, ibuf := [], wait := .none, trapWait := none, cheld := false, cuse := none, stalled := false
      taken := [], kept := (c.sp.pc, c.sp.taken) :: c.sp.kept }

/-- A handler can take a user cause in the issuing split (R37, R177): no special function of the warp is out (R125). -/
def canTrap (c : Ctx) : Prop :=
  c.sp.sup = false ∧ c.sp.home = .wcore ∧ c.W.sc.csr.trapv &&& 0xFFFFFFFC ≠ 0 ∧ c.W.sc.csr.trapc.getLsbD 11 = false ∧
  (c.W.sc.csr.trapv &&& 0xFFFFFFFC).toNat < c.image.codeLen ∧
  ∀ e ∈ c.s.sfus, e.2.warp ≠ c.w

/-- R209: a fragment stops with its cause. -/
def fragmentStop (c : Ctx) (f : Slot) (code addr aux : Nat) : State :=
  putBack c c.W.sc { c.sp with home := .ncore { f with
    stage := .stopped code addr aux false, pulls := [], refused := none, snap := none, sreq := none } }

/-- R183: an access whose part k waited for its translation, after the handler's return: the part is performed again, or, where
the handler could not map the page, has failed with PROT 0x13. -/
def serviced (a : Access) (k : Nat) (unmap : Bool) : Access :=
  { a with subs := a.subs.mapIdx fun i y =>
      if i = k ∧ y.st = .xlate then
        (if unmap = true then { y with st := .done, fail := some (0x05, 0x13) } else { y with st := .waiting })
      else y }

/-- No LDLC waits at a PC for a split to return to it with what it had consumed (R231). -/
def noneKept (X : Split) (pc : Word) : Prop := ∀ tk rest, X.kept = (pc, tk) :: rest → tk = []

/-- A split of the supervisor handler has returned from it: it goes on at STRAPPC in user mode (R183). -/
def supReturn (c c' : Ctx) : Prop :=
  c'.s = c.s ∧ c'.w = c.w ∧ c'.W = { c.W with supNow := none } ∧
  c'.sp = { c.sp with pc := c.W.sc.csr.strappc &&& 0xFFFFFFFC, ibuf := [], sup := false, wait := .none, taken := []
                      kept := c.sp.kept.tail }

/-- R54-R56: CSRs that are read-only. -/
def csrReadOnly : List Nat :=
  [0x000, 0x001, 0x002, 0x003, 0x004, 0x005, 0x006, 0x007, 0x008, 0x009, 0x00A, 0x019, 0x01B, 0x01C, 0x01D, 0x020, 0x021, 0x030,
   0x143, 0x144, 0x145]

/-- R54-R56, R103: CSRs that software writes, with the bits that a write keeps. -/
def csrMasks : List (Nat × Word) :=
  [(0x010, 0x000FBFFF), (0x012, 0xFFFFFFFF), (0x013, 0x0001FFFF), (0x018, 0xFFFFFFFC), (0x01A, 0xFFFFFFFC),
   (0x022, 0xFFFFFFFF), (0x031, 0xF), (0x140, 0xFFFFFFFF), (0x142, 0xFFFFFFFC)]

/-! ## Engine operations -/

/-- R170: register d takes the handle of a new future, which is never zero, and turns FUTURE; nothing else on the scalar
side changes. -/
def futureWritten (c c' : Ctx) (d : BitVec 6) : Prop :=
  handleOf c.s.draws ≠ 0 ∧
  match c.sp.home with
  | .wcore =>
    (∀ r, c'.sreg r = if r = d ∧ r ≠ 63 then handleOf c.s.draws else c.sreg r) ∧
    (∀ r, c'.sState r = if r = d ∧ r ≠ 63 then .future else c.sState r) ∧
    c'.W.sc = { c.W.sc with s := c'.W.sc.s, st := c'.W.sc.st, supS := c'.W.sc.supS, supSt := c'.W.sc.supSt,
                            cancel := c'.W.sc.cancel } ∧
    c'.W.swrites = c.W.swrites
  | .ncore _ =>
    c'.W.sc = c.W.sc ∧
    c'.W.swrites = c.W.swrites ++ if d = 63 then [] else [.future (scalarNo (c.bank d) d) c.s.fresh (handleOf c.s.draws)]

/-- R30, R170: the operation that an engine instruction makes. -/
def opOf (c : Ctx) (kind : OpKind) (d : BitVec 6) : EngOp :=
  { kind := kind, warp := c.w, block := c.W.block, launch := ((tfind c.s.blocks c.W.block).map (·.launch)).getD 0
    core := c.W.core, split := c.sp.id, uid := c.sp.uid, slot := c.W.slot, frag := !c.sp.isLocal, sup := c.sp.sup, pc := c.sp.pc
    dst := if d = 63 then none else some (c.bank d, d.toNat), fmt := c.sp.fmt, princ := c.W.sc.csr.princ
    asid := c.s.warpAsid c.W, floor := c.W.floor, granted := false, cancelled := false, unitsDone := [], status := none
    detail := 0, faulted := false, count := 0, parked := false, stampOff := [], opened := false, rdata := [], out := []
    acked := [], csm := none, polSeen := [], touched := [], shown := 0, sent := [], mates := [] }

/-- R332: an operation with deadline fills takes a second open value, the tile-cache clock's measure of the deadline. -/
def drawsOf : OpKind → Nat
  | .tdead _ _ _ _ => 2
  | .osld _ _ _ dl => if dl = 0 then 1 else 2
  | _ => 1

/-- R30, R65, R170: the issue of an engine operation of one word: it is number s.fresh, its handle stands in d, and the
warp's earlier open writes count (R314). -/
def opIssued (c c' : Ctx) (kind : OpKind) (d : BitVec 6) : Prop :=
  c'.w = c.w ∧ goneOn (releasedCtx c) c' 1 ∧ futureWritten c c' d ∧ c.sameP c' ∧
  c'.s.ops = tset c.s.ops c.s.fresh (opOf c kind d) ∧ c'.s.fresh = c.s.fresh + 1 ∧ c'.s.draws = c.s.draws + drawsOf kind ∧
  c'.s.parts = (releaseOf c.s c.w c.W).1.parts ∧ c'.s.mem = c.s.mem ∧ c'.s.host = c.s.host

/-- The operands of an engine instruction are ready, and the earlier accesses of its split performed (R30, R51). -/
def EReady (s : State) (c : Ctx) (d : BitVec 6) (srcs : List Src) : Prop :=
  c.settled = true ∧ UReady s c 7 false false srcs (group false d 1 true)

/-- An engine instruction issues: it answers a next state in which its operation is made. -/
def issues (i : Instr) (s : State) (c : Ctx) (kind : OpKind) (d : BitVec 6) (P : Ctx → Prop) : Prop :=
  ∃ c', exec i s = .next (c'.finish true) ∧ opIssued c c' kind d ∧ P c'

/-- Sources of the engine formats (R65). -/
def e1 (a : BitVec 6) : List Src := group false a 1 true
def e2 (a : BitVec 6) : List Src := group false a 2 true

/-- No byte of any CSM changes, and no granule's FULL bit. -/
def sameCsm (s t : State) : Prop := ∀ k, (t.core k).csm = (s.core k).csm ∧ (t.core k).csmEmpty = (s.core k).csmEmpty

/-- The operation numbered s.fresh is last in the queue of a cluster that get names. -/
def queued (c c' : Ctx) (get : Cluster → List Nat) : Prop :=
  get (c'.s.cluster (coreCluster c.W.core)) = get (c.s.cluster (coreCluster c.W.core)) ++ [c.s.fresh]

/-- The granules of a CSM range of the issuer, EMPTY or not (R216). -/
def rangeEmpty (c c' : Ctx) (ref n : Nat) : Prop :=
  ∀ k a, c.s.csmOf c.W.block ref n = some (k, a) → ∀ g, a / 16 ≤ g → g < a / 16 + n / 16 → c'.s.csmFull k g = false

/-- The descriptor that a copy instruction reads in CSM. -/
def descAt (c : Ctx) (a : BitVec 6) : List Byte :=
  c.s.csmRead (c.csmAt (c.sreg a).toNat).1 (c.csmAt (c.sreg a).toNat).2 128

/-- The packed operand of an instruction of the matrix engine. -/
def packed (c : Ctx) (r : BitVec 6) : Nat := (c.sreg r).toNat

/-- R202: a fragment is recalled before the instruction. -/
def recalled (c : Ctx) (f : Slot) : State :=
  putBack c c.W.sc { c.sp with home := .ncore { f with stage := .recalling } }


/-- R142: the instructions with a constant; the flag says that d is read. -/
def constTable : List ((C3 → Instr) × Bool × (Word → Word → Word → Word)) :=
  [(.faddcb, false, fun a _ k => to32 ((f32 a).add (f32 k))), (.fmulcb, false, fun a _ k => to32 ((f32 a).mul (f32 k))),
   (.fmarcb, true, fun a d k => to32 (((f32 d).mul (f32 a)).add (f32 k)))]

/-- Only the constant cache's record of uses and the operand collectors differ (R121, R116). -/
def constRead (c c' : Ctx) : Prop :=
  c'.s = { c.s with cores := c'.s.cores, fresh := c.s.fresh + 1 } ∧
  ∀ k, c'.s.core k = { c.s.core k with pipe := (c'.s.core k).pipe, ccache := (c'.s.core k).ccache } ∧
    (c'.s.core k).ccache.map (fun x => { x with used := 0 }) = (c.s.core k).ccache.map fun x => { x with used := 0 }

/-- No accumulator slot of a list belongs to another context (R268). -/
def owned (c : Ctx) (slots : List Nat) : Prop :=
  c.sp.sup = true ∨ ∀ n ∈ slots, let x := tget 0 (c.s.cluster (coreCluster c.W.core)).accown n
    x.getLsbD 12 = true → x.toNat % 4096 = c.s.warpAsid c.W

/-- R268: a slot of the list that nobody owns takes the issuer's address space; the others keep their owner. -/
def claimed (c c' : Ctx) (slots : List Nat) : Prop :=
  ∀ n, let x := tget 0 (c.s.cluster (coreCluster c.W.core)).accown n
    tget 0 (c'.s.cluster (coreCluster c.W.core)).accown n =
      if c.sp.sup = false ∧ n ∈ slots ∧ x.getLsbD 12 = false then BitVec.ofNat 32 (2 ^ 12 + c.s.warpAsid c.W) else x

/-- An instruction of the matrix engine finds a free entry of the reservation table and its operands ready; its split is at
home (R202, R271). -/
def MReady (s : State) (c : Ctx) (d : BitVec 6) (srcs : List Src) : Prop :=
  EReady s c d srcs ∧ c.sp.home = .wcore ∧ (c.s.cluster (coreCluster c.W.core)).resv.length < 32

/-- It issues: the operation enters the reservation table and its slots are claimed. -/
def matIssues (i : Instr) (s : State) (c : Ctx) (kind : OpKind) (d : BitVec 6) (slots : List Nat) (P : Ctx → Prop) : Prop :=
  issues i s c kind d fun c' => queued c c' (·.resv) ∧ claimed c c' slots ∧ P c'

/-- The fills of an operation enter their region's queue (R332), each with the count of the tile-cache clock that the
deadline comes to: a free value, from the region's clock on. -/
def fillsQueued (c c' : Ctx) (tiles : List Nat) (deadline : Nat) : Prop :=
  let x := c.s.region (coreRegion c.W.core)
  (c'.s.region (coreRegion c.W.core)).dfq = (c.s.region (coreRegion c.W.core)).dfq ++
    tiles.map fun i => { op := c.s.fresh, idx := i, deadline := x.tclk + Config.tcCycles (c.s.draws + 1) deadline }

/-- The barrier at p takes the tag of a copy of swizzle swz, and nothing else of it changes (R253). -/
def tagged (c c' : Ctx) (p : Nat × Nat) (swz : Nat) : Prop :=
  let g := c.s.granule p.1 p.2
  let h := c'.s.granule p.1 p.2
  bits h 7 4 = (if bits g 7 4 = 0 ∨ bits g 7 4 = swz + 1 then swz + 1 else 15) ∧ bits h 127 8 = bits g 127 8 ∧
  bits h 3 0 = bits g 3 0

/-! ## Events -/

/-- A split of a warp, and its fragment's slot. -/
def fragAt (s : State) (w sp : Nat) (c : Ctx) (f : Slot) : Prop := splitCtx s w sp = some c ∧ c.sp.home = .ncore f

/-- The split put back with another slot. -/
def slotPut (c : Ctx) (f : Slot) : State := putBack c c.W.sc { c.sp with home := .ncore f }

/-- Only the instruction buffer of the split differs there, and it holds the words of a line of code (R72). -/
def buffered (c : Ctx) (t : State) (line : Nat) (ws : List Word) : Prop :=
  ∃ Y, ((tfind t.warps c.w).bind fun W => W.split c.sp.id) = some Y ∧ Y = { c.sp with ibuf := Y.ibuf } ∧
    ∀ i, i < 16 → c.codeBase ≤ line + 4 * i → line + 4 * i < c.codeBase + c.image.codeLen →
      tfind Y.ibuf (line + 4 * i - c.codeBase) = some (ws.getD i 0)

/-- Regions differ in nothing but their power state and clock (R434). -/
def onlyPower (s t : State) : Prop :=
  ∀ k, t.region k = { s.region k with pwr := (t.region k).pwr, gated := (t.region k).gated, pll := (t.region k).pll }

/-- A store's entry of warp w, W, has been accepted, where it is no release that reaches far (R453): global lanes are a new
access and nothing is performed; a lane of CSM is performed, and an STLF fills its granule (R221, R231). -/
def drained (s t : State) (w : Nat) (W : Warp) (frag : Bool) (e : StoreE) : Prop :=
  (∀ k, e.rel = some k → reachesFar s (s.warpPart W) k = false) →
  ((∀ x ∈ e.lanes, x.tgt = .glob) → e.lanes ≠ [] →
    t.mem = s.mem ∧ t.host = s.host ∧ (∀ k, t.core k = s.core k) ∧ t.regions = s.regions ∧ t.clusters = s.clusters ∧
    let a : Access :=
      { warp := w, split := e.split, uid := e.uid, frag := frag, threads := e.threads, age := e.age, sup := e.sup, pc := e.pc
        kind := .store e.size e.rel, scalar := false, dst := [], lanes := e.lanes, subs := subsOf e.lanes
        released := false, gone := none }
    t.accs = tset s.accs s.fresh a) ∧
  ∀ x core b, e.lanes = [x] → x.tgt = .csm core b →
    t.accs = s.accs ∧ t.mem = s.mem ∧ t.host = s.host ∧
    (∀ i, i < e.size → Memory.read (t.core core).csm (b + i) = BitVec.ofNat 8 (x.val / 256 ^ i)) ∧
    (∀ a, a < b ∨ b + e.size ≤ a → Memory.read (t.core core).csm a = Memory.read (s.core core).csm a) ∧
    (∀ k, k ≠ core → t.core k = s.core k) ∧
    ((t.core core).csmEmpty = if e.stlf = true then (s.core core).csmEmpty.filter (· != b / 16) else (s.core core).csmEmpty)

/-- An access with the results xs of some lanes, and its part k at a stage; nothing else of it differs. -/
def accWith (a : Access) (k : Nat) (xs : List LaneAcc) (st : SubSt) : Access :=
  { a with
    lanes := a.lanes.map fun x => (xs.find? fun y => y.lane = x.lane).getD x
    subs := a.subs.mapIdx fun i x => if i = k then { x with st := st } else x }

/-- A split stands at an instruction boundary, and the warp's user handler is free. -/
def atEase (c : Ctx) : Prop :=
  c.sp.wait = .none ∧ c.sp.service = false ∧ c.sp.trapWait = none ∧ c.sp.cuse = none ∧ c.W.halted = false ∧ c.W.split c.sp.id = some c.sp ∧
  canTrap c

/-- A split with its PC and mask as X has them goes on from there: it is not empty, and stands at no join of its own
(R153, R154). -/
def staysOn (c : Ctx) (X : Split) : Prop :=
  X.mask ≠ 0 ∧ ∀ own e, X.innermost = some (own, e) → ∀ Y ∈ c.W.splits, ∀ E, stackEntry Y.stack e = some E → X.pc ≠ E.j

/-- No scalar write of the warp's fragments is on its way but such as wait for their register (R191). -/
def writesLanded (s : State) (w : Nat) (W : Warp) : Prop := ∀ m, W.swrites.head? = some m → s.applySWrite w W.sc m = none

/-! ## The front end -/

/-- The operation of a child launch is the child's future; the child of a LAUNCH or REPRINT as it is made (R357-R359, R384). -/
def childOf (c : Ctx) (P : Launch) (f : E3) (burst reprint : Bool) : Launch :=
  newLaunch (c.s.nextLaunchId P.part) P.part P.vf (P.depth + 1) P.prio (c.s.fresh + 1)
    (some (c.W.block, ((tfind c.s.blocks c.W.block).map (·.launch)).getD 0, (c.sreg f.b).toNat)) (some c.s.fresh) burst reprint
    (some (c.sPair f.a).toNat)

/-- A lane advances in this step with packet x of VF v, which no BARRIER holds back (R399, R402). -/
def packetAt (s : State) (lane : Nat) (L : Lane) (v : Vf) (x : Pkt) : Prop :=
  tfind s.lanes lane = some L ∧ s.laneNext L = some (v, x) ∧ (tfind s.beginStep.lanes lane).map (·.due) = some true ∧
  x.barrier = false

/-- A packet completes at acceptance with a status and DETAIL (R398): HEAD moves past its units. -/
def acked (u : State) (lane : Nat) (L : Lane) (x : Pkt) (status detail : Nat) : Host.Outcome State Fault Refusal :=
  .next (((u.feEnd L.vf L.queue).pktStatus L.vf x status detail).pastUnits lane x.len)

/-- No request of the packet at the head of a lane's queue is under way (R430, R448). -/
def unasked (s : State) (L : Lane) : Prop := ∀ e ∈ s.feOps, ¬(e.2.vf = L.vf ∧ e.2.queue = L.queue)

/-- The record of a packet's requests, before the first. -/
def noRequests (L : Lane) : FeOp :=
  { vf := L.vf, queue := L.queue, out := [], acked := [], rdata := [], bad := none, got := none, ranges := none }

/-- A packet whose requests may leave the partition starts: it is number s.fresh among them. -/
def asking (s : State) (L : Lane) : State :=
  { s with feOps := tset s.feOps s.fresh (noRequests L), fresh := s.fresh + 1 }

/-- Runs of bytes written one after another, each at once (R400). -/
def written (s : State) (q : Req) (ws : List (Nat × List Byte)) (t : State) : Prop :=
  ∃ bs, ws.foldl (fun z w => match z with | .ok s _ => serveWrite s q w.1 w.2 | z => z) (Served.ok s []) = .ok t bs

/-- A host launch with its packet, before its descriptor is read (R400, R405). -/
def hostChild (s : State) (v : Vf) (L : Lane) (x : Pkt) (burst reprint : Bool) : State :=
  let l := s.fresh
  let s1 := s.addLaunch (newLaunch (s.nextLaunchId v.part) v.part L.vf 0 7 l none none burst reprint none)
  let y : Packet := { vf := L.vf, queue := L.queue, order := l, op := x.op, barrier := x.barrier, nowait := x.nowait,
                      cookie := x.cookie, staddr := x.staddr, body := [], launch := some l }
  { s1 with packets := tset s1.packets (l + 1) y, fresh := l + 2 }

/-- What a VF holds after an FLR (R408, R419, R445). -/
def cleared (v : Vf) : Vf :=
  let w := { v with ready := false, featAgreed := 0, dcs := [], parked := [], migReqs := [], mrqTail := v.mrqHead }
  { w with inuse := 0, borrowed := 0, frozen := false, freezing := false, replaying := false, remote := [] }

/-! ## The machine -/

/-- Device memory, host memory and every CSM slice list rising addresses and no zero byte. -/
def Canonical (s : State) : Prop :=
  Memory.wf s.mem = true ∧ Memory.wf s.host = true ∧ ∀ e ∈ s.cores, Memory.wf e.2.csm = true
end Sys2Proof.Claims

section Statements
open Sys2Proof Sys2Proof.Machine Sys2Proof.Claims

/-- R126, R122: each integer instruction with two sources writes its result in every lane where it acts. -/
def Sys2Proof.Claims.VectorIntegerResults : Prop :=
  ∀ e ∈ intTwo, ∀ (f : R3) (s : State) (c : Ctx),
    VReady s c f.g (srcsR3 f false) (group true f.d 1 true) →
    completes (e.1 f) s false fun c' =>
      c.vEffect c' (bWords f.b) (srcsR3 f false) [f.d] (c.parts f.g) fun _ l => e.2 (c.v f.a l) (c.vB f.b l)

/-- R126, R131, R133, R137: the instructions with one source. -/
def Sys2Proof.Claims.VectorUnaryResults : Prop :=
  (∀ e ∈ intOne ++ signOne, ∀ (f : R2) (s : State) (c : Ctx),
    VReady s c f.g (group true f.a 1 f.wA) (group true f.d 1 true) →
    completes (e.1 f) s false fun c' =>
      c.vEffect c' 1 (group true f.a 1 f.wA) [f.d] (c.parts f.g) fun _ l => e.2 (c.v f.a l)) ∧
  (∀ (f : RFrnd) (s : State) (c : Ctx),
    VReady s c f.g (group true f.a 1 f.wA) (group true f.d 1 true) →
    completes (.frnd f) s false fun c' =>
      c.vEffect c' 1 (group true f.a 1 f.wA) [f.d] (c.parts f.g) fun _ l => frnd f.m (c.v f.a l)) ∧
  (∀ (f : RCvt) (s : State) (c : Ctx),
    VReady s c f.g (group true f.a 1 f.wA) (group true f.d 1 true) →
    completes (.cvt f) s false fun c' =>
      c.vEffect c' 1 (group true f.a 1 f.wA) [f.d] (c.parts f.g) fun _ l =>
        cvt f.k.toNat (Rnd.ofBits (c.sp.fmt.extractLsb' 12 2)) (c.sp.fmt.getLsbD 15) (c.v f.a l))

/-- R122, R126, R131, R133, R137: the vector integer instructions, and those with one source. -/
def Obligations.IntegerAndUnaryResults : Prop := VectorIntegerResults ∧ VectorUnaryResults


/-- R129, R130, R136, R138: the floating-point instructions with two sources. -/
def Obligations.VectorFloatResults : Prop :=
  ∀ e ∈ fpTwo, ∀ (f : R3) (s : State) (c : Ctx),
    VReady s c f.g (srcsR3 f e.2.1) (group true f.d 1 true) →
    completes (e.1 f) s false fun c' =>
      c.vEffect c' (bWords f.b) (srcsR3 f e.2.1) [f.d] (c.parts f.g) fun _ l =>
        e.2.2 (c.v f.a l) (c.vB f.b l) (c.v f.d l)

/-- R139-R141, R143: the unguarded instructions of the formats VF and VK act in every lane of the split's mask. -/
def Obligations.VectorThreeSourceAndImmediate : Prop :=
  (∀ e ∈ vfThree, ∀ (f : F4) (s : State) (c : Ctx),
    VReady s c 7 (group true f.a 1 true ++ group true f.b 1 true ++ group true f.c 1 true) (group true f.d 1 true) →
    completes (e.1 f) s false fun c' =>
      c.vEffect c' 1 (group true f.a 1 true ++ group true f.b 1 true ++ group true f.c 1 true) [f.d] c.sp.mask
        fun _ l => e.2 (c.v f.a l) (c.v f.b l) (c.v f.c l)) ∧
  (∀ e ∈ vkTable, ∀ (f : K) (s : State) (c : Ctx),
    VReady s c 7 (if e.2.1 then group true f.d 1 true else []) (group true f.d 1 true) →
    completes (e.1 f) s false fun c' =>
      c.vEffect c' 1 (if e.2.1 then group true f.d 1 true else []) [f.d] c.sp.mask fun _ l => e.2.2 (c.v f.d l) f.i)

/-- R127: LEAW and LEAD add the scaled index to the pair and write both halves. -/
def Obligations.VectorAddressForms : Prop :=
  ∀ e ∈ [((.leaw : R3 → Instr), 4), (.lead, 8)], ∀ (f : R3) (s : State) (c : Ctx),
    VReady s c f.g (group true f.a 2 f.wA ++ bSrcs f.b true) (group true f.d 2 true) → pairOk f.d = true → pairOk f.a = true →
    completes (e.1 f) s false fun c' =>
      c.vEffect c' (bWords f.b) (group true f.a 2 f.wA ++ bSrcs f.b true) (if f.d = 63 then [] else [f.d, f.d + 1])
        (c.parts f.g) fun r l =>
          let x := BitVec.ofInt 64 ((c.vPair f.a l).toNat + (c.vB f.b l).toInt * e.2)
          if r = f.d then x.extractLsb' 0 32 else x.extractLsb' 32 32
/-- R145, R144, R123: the scalar results. -/
def Obligations.ScalarResults : Prop :=
  (∀ e ∈ scalTwo, ∀ (f : R3) (s : State) (c : Ctx),
    UReady s c f.g false false (group false f.a 1 f.wA ++ bSrcs f.b false) (group false f.d 1 true) →
    completes (e.1 f) s true fun c' => c.sEffect c' (bWords f.b) [f.d] fun _ => e.2 (c.sreg f.a) (c.sB f.b)) ∧
  (∀ e ∈ scalOne, ∀ (f : R2) (s : State) (c : Ctx),
    UReady s c f.g false false (group false f.a 1 f.wA) (group false f.d 1 true) →
    completes (e.1 f) s true fun c' => c.sEffect c' 1 [f.d] fun _ => e.2 (c.sreg f.a)) ∧
  (∀ e ∈ ukTable, ∀ (f : K) (s : State) (c : Ctx),
    UReady s c 7 false false (if e.2.1 then group false f.d 1 true else []) (group false f.d 1 true) →
    completes (e.1 f) s true fun c' => c.sEffect c' 1 [f.d] fun _ => e.2.2 (c.sreg f.d) f.i)

/-- R146, R147, R148, R149: SCMP, QLOP, SLEA and SSEL. -/
def Obligations.ScalarPredicateAndSelect : Prop :=
  (∀ (f : RCmp) (s : State) (c : Ctx),
    UReady s c f.g false false (group false f.a 1 f.wA ++ bSrcs f.b false) [] →
    completes (.scmp f) s true fun c' =>
      c.qEffect c' (bWords f.b) [] f.p (intCondition f.c (c.sreg f.a) (c.sB f.b))) ∧
  (∀ (f : PLop) (s : State) (c : Ctx), UReady s c f.g false true [] [] →
    completes (.qlop f) s true fun c' => c.qEffect c' 1 [] f.p (predicateFn f.f (c.qreg f.t) (c.qreg f.u))) ∧
  (∀ (f : R3) (s : State) (c : Ctx), pairOk f.d = true → pairOk f.a = true →
    UReady s c f.g false false (group false f.a 2 f.wA ++ bSrcs f.b false) (group false f.d 2 true) →
    completes (.slea f) s true fun c' =>
      c.sEffect c' (bWords f.b) (if f.d = 63 then [] else [f.d, f.d + 1]) fun r =>
        let x := BitVec.ofInt 64 ((c.sPair f.a).toNat + (c.sB f.b).toInt)
        if r = f.d then x.extractLsb' 0 32 else x.extractLsb' 32 32) ∧
  (∀ (f : R3) (s : State) (c : Ctx),
    UReady s c 7 false true (group false f.a 1 true ++ bSrcs (bWaits f.b) false) (group false f.d 1 true) →
    completes (.ssel f) s true fun c' =>
      c.sEffect c' (bWords f.b) [f.d] fun _ => if c.qreg f.g then c.sreg f.a else c.sB f.b)

/-- R128, R132, R163: ICMP, FCMP and PLOP write one lane predicate in the lanes where they act. -/
def Obligations.LanePredicateResults : Prop :=
  (∀ (f : RCmp) (s : State) (c : Ctx), VReady s c f.g (group true f.a 1 f.wA ++ bSrcs f.b true) [] →
    completes (.icmp f) s false (fun c' =>
      c.pEffect c' (bWords f.b) (group true f.a 1 f.wA ++ bSrcs f.b true) f.p (c.parts f.g) fun l =>
        intCondition f.c (c.v f.a l) (c.vB f.b l)) ∧
    completes (.fcmp f) s false (fun c' =>
      c.pEffect c' (bWords f.b) (group true f.a 1 f.wA ++ bSrcs f.b true) f.p (c.parts f.g) fun l =>
        fpCond f.c (c.v f.a l) (c.vB f.b l))) ∧
  (∀ (f : PLop) (s : State) (c : Ctx), VReady s c f.g [] [] →
    completes (.plop f) s false fun c' =>
      c.pEffect c' 1 [] f.p (c.parts f.g) fun l =>
        predicateFn f.f ((c.pmask f.t).getLsbD l) ((c.pmask f.u).getLsbD l))

/-- R160-R162: the shuffles give each lane the value of its source lane, and the OUTMASK flag to the predicate that its
selector names. -/
def Obligations.ShuffleResults : Prop :=
  ∀ e ∈ shuffles, ∀ (f : R3) (s : State) (c : Ctx),
    VReady s c f.g (group true f.a 1 f.wA ++ bSrcs f.b true) (group true f.d 1 true) →
    completes (e.1 f) s false fun c' =>
      let src := fun l => picked c f.a (e.2 l ((c.vB f.b l).toNat % 32))
      c.onward c' (bWords f.b) ∧
      c.wroteV c' (group true f.a 1 f.wA ++ bSrcs f.b true) [f.d] (c.parts f.g) (fun _ l => (src l).1) ∧
      c.wroteP c' (fun m l => (c.parts f.g).getLsbD l && (c.vB f.b l).extractLsb' 8 3 == m) (fun l => (src l).2) ∧
      c.sameS c'

/-- R163, R164: READLANE, BCAST, VOTE, BALLOT and CSRV answer a next state with their results; READLANE writes its scalar
register and the uniform predicate that its selector names, and nothing else. -/
def Obligations.CrossLaneResults : Prop :=
  (∀ (f : R3) (s : State) (c : Ctx),
    VReady s c f.g (group true f.a 1 f.wA ++ bSrcs f.b true) (group false f.d 1 true) →
    completes (.readlane f) s false fun c' =>
      let l0 := (lanesOf (c.parts f.g)).headD 0
      let r := picked c f.a ((c.vB f.b l0).toNat % 32)
      let n := (c.vB f.b l0).extractLsb' 8 3
      c.onward c' (bWords f.b) ∧ c.sameP c' ∧ c.sameV c' (group true f.a 1 f.wA ++ bSrcs f.b true) ∧
      (c.sp.home = .wcore →
        (∀ q, c'.sreg q = if q = f.d ∧ q ≠ 63 then r.1 else c.sreg q) ∧
        (∀ q, c'.sState q = if q = f.d ∧ q ≠ 63 then .full else c.sState q) ∧
        (∀ q, q ≠ 63 → c'.smark q = if q = f.d then false else c.smark q) ∧
        (∀ m, c'.qreg m = if m = n ∧ m ≠ 7 then r.2 else c.qreg m) ∧ c'.W.swrites = c.W.swrites ∧
        c'.W.sc = { c.W.sc with s := c'.W.sc.s, st := c'.W.sc.st, supS := c'.W.sc.supS, supSt := c'.W.sc.supSt,
                                cancel := c'.W.sc.cancel, q := c'.W.sc.q, supQ := c'.W.sc.supQ }) ∧
      (c.sp.home ≠ .wcore → c'.W.sc = c.W.sc ∧ c'.W.swrites = c.W.swrites ++
        (if f.d = 63 then [] else [.reg (scalarNo (c.bank f.d) f.d) r.1 .full]) ++
        if n = 7 then [] else [.q (predNo c.sp.sup n) r.2])) ∧
  (∀ (f : R2) (s : State) (c : Ctx), VReady s c f.g (group false f.a 1 f.wA) (group true f.d 1 true) →
    completes (.bcast f) s false fun c' =>
      c.vEffect c' 1 (group false f.a 1 f.wA) [f.d] (c.parts f.g) fun _ _ => c.sreg f.a) ∧
  (∀ (f : Vote) (s : State) (c : Ctx), f.m ≤ 2 → VReady s c f.g [] [] →
    completes (.vote f) s false fun c' => c.qEffect c' 1 [] f.p (voted f.m (c.parts f.g) (c.pmask f.t))) ∧
  (∀ (f : Ballot) (s : State) (c : Ctx), VReady s c f.g [] (group false f.d 1 true) →
    completes (.ballot f) s false fun c' =>
      c.sEffect c' 1 [f.d] fun _ => ofBits fun l => (c.parts f.g).getLsbD l && (c.pmask f.t).getLsbD l) ∧
  (∀ (f : CsrV) (s : State) (c : Ctx), csrvOk f.b = true → VReady s c f.g [] (group true f.d 1 true) →
    completes (.csrv f) s false fun c' =>
      c.vEffect c' 1 [] [f.d] (c.parts f.g) fun _ l =>
        let bd := ((s.warpLaunch c.W).map (·.desc.bd)).getD (1, 1, 1)
        let t := 32 * c.W.idx + l
        BitVec.ofNat 32 (match f.b.toNat with
          | 0 => l
          | 1 => t % max 1 bd.1
          | 2 => t / max 1 bd.1 % max 1 bd.2.1
          | 3 => t / (max 1 bd.1 * max 1 bd.2.1)
          | _ => c.sp.id))

/-- R165-R167, R202: a reduction recalls a fragment first; it is computed at issue and lands in its sq register when it completes, which steps SEQ; SQRD
reads the value once SEQ is the number it names. -/
def Obligations.ReductionResults : Prop :=
  (∀ e ∈ reductions, ∀ (f : Red) (s : State) (c : Ctx), c.sp.home = .wcore → VReady s c f.g (group true f.a 1 f.wA) [] →
    ∃ c', exec (e.1 f) s = .next (c'.finish false) ∧ SameMemory s (c'.finish false) ∧
      c'.w = c.w ∧ OnlyPipes c.s c'.s ∧ c'.sp = { c.sp with pc := c.sp.pc + 4 } ∧
      c'.W.rest = { c.W.rest with reds := c.W.reds ++ [(f.n.toNat, e.2 (c.parts f.g) (c.v f.a))] } ∧
      c.sameP c' ∧ c.sameS c' ∧ c.sameV c' (group true f.a 1 f.wA)) ∧
  (∀ e ∈ reductions, ∀ (f : Red) (s : State) (c : Ctx) (q : Slot), Issues s c → c.sp.home = .ncore q →
    exec (e.1 f) s = .next (recalled c q)) ∧
  (∀ (s : State) (w n : Nat) (W : Warp) (v : Word), tfind s.warps w = some W → W.shr = none →
    W.reds.find? (fun e => e.1 == n) = some (n, v) →
    ∃ t W', exec (.reductionComplete w n) s = .next t ∧ t = { s with warps := t.warps } ∧
      (∀ k, tfind t.warps k = if k = w then some W' else tfind s.warps k) ∧
      tget ⟨0, 0⟩ W'.sc.sq n = ⟨v, (tget ⟨0, 0⟩ W.sc.sq n).seq + 1⟩ ∧
      (∀ k, k ≠ n → tget ⟨0, 0⟩ W'.sc.sq k = tget ⟨0, 0⟩ W.sc.sq k) ∧
      W' = { W with reds := W.reds.erase (n, v), sc := { W.sc with sq := W'.sc.sq } }) ∧
  (∀ (f : SqRdOps) (s : State) (c : Ctx), UReady s c f.g false true (bSrcs f.b false) (group false f.d 1 true) →
    (tget ⟨0, 0⟩ c.scal.sq f.n.toNat).seq = (c.sB f.b).extractLsb' 0 16 →
    completes (.sqrd f) s true fun c' =>
      c.sEffect c' (bWords f.b) [f.d] fun _ => (tget ⟨0, 0⟩ c.scal.sq f.n.toNat).value)


/-- R223, R224, R227, R228, R230: a vector load records its lanes, empties its destination and goes on; LDP makes a
local split the youngest. -/
def Sys2Proof.Claims.VectorLoadIssue : Prop :=
  ∀ e ∈ vectorLoads, ∀ (f : M) (s : State) (c : Ctx) (lanes : List LaneAcc),
    (f.d = 63 → e.2.2.2.2 = false) → (f.d = 63 ∨ f.d.toNat + e.2.2.2.1 ≤ 63) →
    VReady s c f.g (group true f.a 2 f.w) (group true f.d e.2.2.2.1 true) →
    clean c f.g e.2.2.1 (c.vEa f.a f.o e.2.2.1) →
    (e.2.1 = .tldg → ∀ l ∈ lanesOf (c.parts f.g), c.vEa f.a f.o 4 l < physBase) →
    forwardAll c.queue e.2.2.1 (lanesAt c f.g e.2.2.1 (c.vEa f.a f.o e.2.2.1) (fun _ => 0) (fun _ => 0)) = some lanes →
    completes (e.1 f) s false fun c' =>
      let b : Ctx := if e.2.1 = .poll ∧ c.sp.isLocal = true then
        { c with W := { c.W with nextAge := c.W.nextAge + 1 }, sp := { c.sp with age := c.W.nextAge } } else c
      newAccess c.s c'.s (recordOf c e.2.1 false ((regsFrom f.d e.2.2.2.1).map (·.toNat)) lanes) ∧
      goneOn b c' 1 ∧ emptied c c' (group true f.a 2 f.w) (regsFrom f.d e.2.2.2.1) ∧ c.sameP c' ∧ c.sameS c'

/-- R70: a load with a zero destination is a hint: it writes no register, raises nothing, and counts in HINTDROP once
if some lane is dropped. -/
def Sys2Proof.Claims.LoadHintsComplete : Prop :=
  (∀ e ∈ vectorLoads, e.2.2.2.2 = true → ∀ (f : M) (s : State) (c : Ctx), f.d = 63 → c.sp.home = .wcore →
    VReady s c f.g (group true f.a 2 f.w) [] →
    completes (e.1 f) s false fun c' =>
      let bad := fun l => !(c.eaCauses (c.vEa f.a f.o e.2.2.1 l) e.2.2.1).isEmpty ||
        (e.2.1 == .tldg && decide (physBase ≤ c.vEa f.a f.o 4 l))
      let dropped : Word := if (lanesOf (c.parts f.g)).any bad = true then 1 else 0
      c'.W.sc = { c.W.sc with csr := { c.W.sc.csr with hintdrop := c.W.sc.csr.hintdrop + dropped } } ∧
      c'.w = c.w ∧ (∀ r l, l < 32 → c'.v r l = c.v r l) ∧ c.sameP c' ∧ c'.W.swrites = c.W.swrites ∧
      c'.sp = { c.sp with pc := c.sp.pc + 4 }) ∧
  ∀ e ∈ scalarLoads, ∀ (f : M) (s : State) (c : Ctx), f.d = 63 → c.sp.home = .wcore →
    UReady s c f.g false false (group false f.a 2 f.w) [] →
    completes (e.1 f) s true fun c' =>
      let dropped : Word := if c.eaCauses (c.sEa f.a f.o e.2.1) e.2.1 = [] then 0 else 1
      c'.W.sc = { c.W.sc with csr := { c.W.sc.csr with hintdrop := c.W.sc.csr.hintdrop + dropped } } ∧
      c'.w = c.w ∧ c.sameV c' [] ∧ c.sameP c' ∧ c'.W.swrites = c.W.swrites ∧ c'.sp = { c.sp with pc := c.sp.pc + 4 }

/-- R221-R224, R227, R228, R230, R70: vector loads issue, and those that are hints complete. -/
def Obligations.VectorLoads : Prop := VectorLoadIssue ∧ LoadHintsComplete


/-- R221, R223, R227: a vector store enters one entry with every lane's address and data in the queue. -/
def Obligations.VectorStoreIssue : Prop :=
  ∀ e ∈ vectorStores, ∀ (f : M) (s : State) (c : Ctx), (f.d = 63 ∨ f.d.toNat + e.2.2 ≤ 63) →
    VReady s c f.g (group true f.a 2 f.w ++ group true f.d e.2.2 f.w) [] →
    clean c f.g e.2.1 (c.vEa f.a f.o e.2.1) true → c.queue.length < 16 →
    completes (e.1 f) s false fun c' =>
      let data := fun l => ((List.range e.2.2).map fun i =>
        (if f.d = 63 then 0 else (c.v (f.d + BitVec.ofNat 6 i) l).toNat) * 2 ^ (32 * i)).sum % 2 ^ (8 * e.2.1)
      let x := entryOf c false e.2.1 none false (lanesAt c f.g e.2.1 (c.vEa f.a f.o e.2.1) data fun _ => 0)
      (withQueue c (c.queue ++ [x])).onward c' 1 ∧
      c.sameV c' (group true f.a 2 f.w ++ group true f.d e.2.2 f.w) ∧ c.sameP c' ∧ c.sameS c'

/-- R222, R229, R232, R314: LDACQ, STREL and the vector atomics issue with the store queue drained; an atomic and a
release make the warp's earlier open writes count. -/
def Obligations.VectorOrderedIssue : Prop :=
  (∀ (f : MS) (s : State) (c : Ctx), VReady s c f.g (group true f.a 2 f.w) (group true f.d 1 true) →
    clean c f.g 4 (c.vEa f.a 0 4) → c.queue = [] →
    completes (.ldacq f) s false fun c' =>
      newAccess c.s c'.s (recordOf c (.acq f.s.toNat) false ((regsFrom f.d 1).map (·.toNat))
        (lanesAt c f.g 4 (c.vEa f.a 0 4) (fun _ => 0) fun _ => 0)) ∧
      goneOn c c' 1 ∧ emptied c c' (group true f.a 2 f.w) (regsFrom f.d 1) ∧ c.sameP c' ∧ c.sameS c') ∧
  (∀ (f : MS) (s : State) (c : Ctx), VReady s c f.g (group true f.a 2 f.w ++ group true f.d 1 f.w) [] →
    clean c f.g 4 (c.vEa f.a 0 4) true → c.queue = [] →
    completes (.strel f) s false fun c' =>
      let x := entryOf c false 4 (some f.s.toNat) false (lanesAt c f.g 4 (c.vEa f.a 0 4) (fun l => (c.v f.d l).toNat) fun _ => 0)
      OnlyPipes (releaseOf c.s c.w c.W).1 c'.s ∧ goneOn (withQueue (releasedCtx c) [x]) c' 1 ∧
      c.sameV c' (group true f.a 2 f.w ++ group true f.d 1 f.w) ∧ c.sameP c' ∧ c.sameS c') ∧
  (∀ e ∈ vectorAtomics, ∀ (f : MS) (s : State) (c : Ctx),
    let n := if e.2.2 then 2 else 1
    (f.d = 63 ∨ f.d.toNat + n ≤ 63) →
    VReady s c f.g (group true f.a 2 f.w ++ group true f.d n true) (group true f.d 1 true) →
    clean c f.g 4 (c.vEa f.a 0 4) true → c.queue = [] →
    completes (e.1 f) s false fun c' =>
      ∃ t, OnlyPipes c.s t ∧
      newAccess (releasedState { c with s := t } f.s.toNat) c'.s (recordOf c (.atom e.2.1 f.s.toNat) false
        ((regsFrom f.d 1).map (·.toNat)) (lanesAt c f.g 4 (c.vEa f.a 0 4) (fun l => (c.v f.d l).toNat) fun l =>
          if e.2.2 = true ∧ f.d ≠ 63 then (c.v (f.d + 1) l).toNat else 0)) ∧
      goneOn (releasedCtx c) c' 1 ∧ emptied c c' (group true f.a 2 f.w ++ group true f.d n true) (regsFrom f.d 1) ∧
      c.sameP c' ∧ c.sameS c')

/-- R231: LDLF reads FULL granules; LDLC also sets them EMPTY, lanes of one granule one after the other: the lowest of each
takes it, and the instruction waits with what they took; STLF enters a
store whose granule turns FULL when the entry leaves. -/
def Obligations.GranuleForms : Prop :=
  (∀ (f : M) (s : State) (c : Ctx), (f.d = 63 ∨ f.d.toNat + 4 ≤ 63) →
    VReady s c f.g (group true f.a 1 f.w) (group true f.d 4 true) → clean c f.g 16 (c.directEa f.a f.o) →
    c.directReady ((lanesOf (c.parts f.g)).map (c.directEa f.a f.o)) = true →
    (∀ l ∈ lanesOf (c.parts f.g), c.s.csmFull (c.directAt f.a f.o l).1 ((c.directAt f.a f.o l).2 / 16) = true) →
    completes (.ldlf f) s false fun c' =>
      c.vEffect c' 1 (group true f.a 1 f.w) (regsFrom f.d 4) (c.parts f.g) fun r l =>
        BitVec.ofNat 32 (leNat (c.s.csmRead (c.directAt f.a f.o l).1 ((c.directAt f.a f.o l).2 + 4 * (r - f.d).toNat) 4))) ∧
  (∀ (f : M) (s : State) (c : Ctx), (f.d = 63 ∨ f.d.toNat + 4 ≤ 63) →
    VReady s c f.g (group true f.a 1 f.w) (group true f.d 4 true) → clean c f.g 16 (c.directEa f.a f.o) →
    c.directReady ((lanesOf (c.parts f.g)).map (c.directEa f.a f.o)) = true → c.sp.taken = [] →
    (∀ l ∈ lanesOf (c.parts f.g), c.s.csmFull (c.directAt f.a f.o l).1 ((c.directAt f.a f.o l).2 / 16) = true) →
    (∀ l ∈ lanesOf (c.parts f.g), ∀ k ∈ lanesOf (c.parts f.g), c.directAt f.a f.o l = c.directAt f.a f.o k → l = k) →
    completes (.ldlc f) s false fun c' =>
      goneOn c c' 1 ∧
      c.wroteV c' (group true f.a 1 f.w) (regsFrom f.d 4) (c.parts f.g) (fun r l =>
        BitVec.ofNat 32 (leNat (c.s.csmRead (c.directAt f.a f.o l).1 ((c.directAt f.a f.o l).2 + 4 * (r - f.d).toNat) 4))) ∧
      c.sameP c' ∧ c.sameS c' ∧ c'.s = { c.s with cores := c'.s.cores } ∧
      (∀ k, c'.s.core k = { c.s.core k with pipe := (c'.s.core k).pipe, csmEmpty := (c'.s.core k).csmEmpty }) ∧
      ∀ k g, c'.s.csmFull k g = (c.s.csmFull k g && !(lanesOf (c.parts f.g)).any fun l =>
        (c.directAt f.a f.o l).1 == k && (c.directAt f.a f.o l).2 / 16 == g)) ∧
  (∀ (f : M) (s : State) (c : Ctx), (f.d = 63 ∨ f.d.toNat + 4 ≤ 63) →
    VReady s c f.g (group true f.a 1 f.w) (group true f.d 4 true) → clean c f.g 16 (c.directEa f.a f.o) →
    c.directReady ((lanesOf (c.parts f.g)).map (c.directEa f.a f.o)) = true → c.sp.taken = [] →
    (∀ l ∈ lanesOf (c.parts f.g), c.s.csmFull (c.directAt f.a f.o l).1 ((c.directAt f.a f.o l).2 / 16) = true) →
    (∃ l ∈ lanesOf (c.parts f.g), ∃ k ∈ lanesOf (c.parts f.g), k < l ∧ c.directAt f.a f.o l = c.directAt f.a f.o k) →
    ∃ t tk, exec (.ldlc f) s = .next { c with s := t, sp := { c.sp with taken := tk } }.put ∧
      t = { c.s with cores := t.cores } ∧ (∀ k, t.core k = { c.s.core k with csmEmpty := (t.core k).csmEmpty }) ∧
      (∀ k g, t.csmFull k g = (c.s.csmFull k g && !(lanesOf (c.parts f.g)).any fun l =>
        (c.directAt f.a f.o l).1 == k && (c.directAt f.a f.o l).2 / 16 == g)) ∧
      ∀ l, tfind tk l = if l ∈ lanesOf (c.parts f.g) ∧
          ∀ k ∈ lanesOf (c.parts f.g), k < l → c.directAt f.a f.o l ≠ c.directAt f.a f.o k then
        some (c.s.csmRead (c.directAt f.a f.o l).1 (c.directAt f.a f.o l).2 16) else none) ∧
  (∀ (f : M) (s : State) (c : Ctx), (f.d = 63 ∨ f.d.toNat + 4 ≤ 63) →
    VReady s c f.g (group true f.a 1 f.w ++ group true f.d 4 f.w) [] → clean c f.g 16 (c.directEa f.a f.o) →
    c.queue.length < 16 →
    completes (.stlf f) s false fun c' =>
      let data := fun l => ((List.range 4).map fun i =>
        (if f.d = 63 then 0 else (c.v (f.d + BitVec.ofNat 6 i) l).toNat) * 2 ^ (32 * i)).sum
      (withQueue c (c.queue ++ [entryOf c false 16 none true (lanesAt c f.g 16 (c.directEa f.a f.o) data fun _ => 0)])).onward c' 1 ∧
      c.sameV c' (group true f.a 1 f.w ++ group true f.d 4 f.w) ∧ c.sameP c' ∧ c.sameS c')

/-- R134, R50: FRCP to FTANH answer a next state: the destination is EMPTY and the operands are with the SFU; SFU_RESULT
writes the lanes it issued for and fills the register, at the warp with the peer's copy of a shared one (R168), or in its
fragment's slot (its value is R135's, with a free value within the bound, log 5). -/
def Obligations.SpecialFunctions : Prop :=
  (∀ e ∈ [((.frcp : R2 → Instr), 0), (.frsq, 1), (.fsqrt, 2), (.fexp2, 3), (.flog2, 4), (.fsin, 5), (.fcos, 6), (.ftanh, 7)],
    ∀ (f : R2) (s : State) (c : Ctx), VReady s c f.g (group true f.a 1 f.wA) (group true f.d 1 true) →
    completes (e.1 f) s false fun c' =>
      let o : SfuOp :=
        { warp := c.w, split := c.sp.id, frag := !c.sp.isLocal, fn := e.2, d := f.d.toNat, lanes := c.parts f.g
          args := (List.range 32).map (c.v f.a) }
      goneOn c c' 1 ∧ emptied c c' (group true f.a 1 f.wA) (regsFrom f.d 1) ∧ c.sameP c' ∧ c.sameS c' ∧
      (∀ k, c'.s.core k = { c.s.core k with pipe := (c'.s.core k).pipe }) ∧
      c'.s = { c.s with cores := c'.s.cores, fresh := c.s.fresh + 1, sfus := tset c.s.sfus c.s.fresh o }) ∧
  (∀ (n : Nat) (s : State) (o : SfuOp) (W : Warp), tfind s.sfus n = some o → tfind s.warps o.warp = some W →
    o.frag = false →
    ∃ t W', exec (.sfuResult n) s = .next t ∧ t = { s with sfus := tdel s.sfus n, warps := t.warps } ∧
      tfind t.sfus n = none ∧ tfind t.warps o.warp = some W' ∧
      (∀ k, k ≠ o.warp → (∀ x, W.shr = some x → k ≠ x.2.2) → tfind t.warps k = tfind s.warps k) ∧
      (∀ first m k P, W.shr = some (first, m, k) → k ≠ o.warp → tfind s.warps k = some P →
        ∃ P', tfind t.warps k = some P' ∧ (∀ r, first ≤ r → r < first + m →
            P'.vlanes r = W'.vlanes r ∧ P'.vstate r = W'.vstate r) ∧
          ∀ r, r < first ∨ first + m ≤ r → P'.vlanes r = P.vlanes r ∧ P'.vstate r = P.vstate r) ∧
      (∀ l, l < 32 → laneOf (W'.vlanes o.d) l =
        if o.lanes.getLsbD l = true then sfuResult o.fn (laneOf o.args l) else laneOf (W.vlanes o.d) l) ∧
      W'.vstate o.d = .full ∧ (∀ r, r ≠ o.d → W'.vlanes r = W.vlanes r ∧ W'.vstate r = W.vstate r) ∧
      W' = { W with v := W'.v, vst := W'.vst }) ∧
  ∀ (n : Nat) (s : State) (o : SfuOp) (W : Warp) (X : Split) (f : Slot), tfind s.sfus n = some o →
    tfind s.warps o.warp = some W → o.frag = true → W.split o.split = some X → X.home = .ncore f → W.shr = none →
    let c : Ctx := { s := { s with sfus := tdel s.sfus n }, w := o.warp, W := W, sp := X }
    ∃ f', exec (.sfuResult n) s = .next (slotPut c f') ∧
      f' = { f with present := f'.present, dirty := f'.dirty, v := f'.v, vst := f'.vst } ∧
      (∀ i, i < 64 → f'.present.getLsbD i = (f.present.getLsbD i || i == o.d)) ∧
      (∀ i, i < 64 → f'.dirty.getLsbD i = (f.dirty.getLsbD i || i == o.d)) ∧
      (∀ l, l < 32 → laneOf (tget [] f'.v o.d) l =
        if o.lanes.getLsbD l = true then sfuResult o.fn (laneOf o.args l) else laneOf (tget [] f.v o.d) l) ∧
      tget .full f'.vst o.d = .full ∧
      ∀ r, r ≠ o.d → tget [] f'.v r = tget [] f.v r ∧ tget .full f'.vst r = tget .full f.vst r

/-- R224, R227, R230: a load whose parts are settled without a cause writes the lanes it loaded, each register with its
word, and fills the registers; lanes at CSM, the region scratchpad or the windows read now, for which a sleeping region wakes
(R434). -/
def Obligations.LoadResults : Prop :=
  ∀ (n : Nat) (s : State) (a : Access) (W : Warp),
    tfind s.accs n = some a → tfind s.warps a.warp = some W → W.shr = none → a.frag = false → a.scalar = false →
    (a.kind = .poll ∨ a.kind = .tldg ∨ ∃ size signed, a.kind = .load size signed) →
    a.dst.Nodup → (a.lanes.map (·.lane)).Nodup → (∀ x ∈ a.lanes, x.lane < 32) →
    (∀ y ∈ a.subs, y.st = .done ∧ y.fail = none) → (a.localLeft = true → s.afterLoads n a = false) →
    ∃ t W', exec (.longLatencyResult n) s = .next t ∧
      t = { s with accs := tdel s.accs n, warps := t.warps, regions := t.regions } ∧ onlyPower s t ∧
      (∀ k, tfind t.warps k = if k = a.warp then some W' else tfind s.warps k) ∧
      W' = { W with v := W'.v, vst := W'.vst } ∧
      (∀ i r, a.dst[i]? = some r → W'.vstate r = .full ∧ ∀ x ∈ a.lanes,
        let res := if x.got = true ∨ x.tgt = .glob then x.res else s.localRead (s.warpPart W) x.tgt a.kind.size
        laneOf (W'.vlanes r) x.lane = loadedWord a.kind { x with res := res } i) ∧
      (∀ r l, l < 32 → r ∉ a.dst ∨ (∀ x ∈ a.lanes, x.lane ≠ l) → laneOf (W'.vlanes r) l = laneOf (W.vlanes r) l) ∧
      ∀ r, r ∉ a.dst → W'.vstate r = W.vstate r

/-- R232, R50: an atomic on a CSM word returns the old word and leaves what its operation gives; a failed
compare-and-swap leaves the word. -/
def Obligations.AtomicOnCsm : Prop :=
  ∀ (n op : Nat) (s : State) (a : Access) (x : LaneAcc) (W : Warp) (r core b : Nat),
    tfind s.accs n = some a → tfind s.warps a.warp = some W → W.shr = none → a.frag = false → a.scalar = false →
    a.kind = .atom op 1 → a.lanes = [x] → a.subs = [] → x.tgt = .csm core b → x.got = false → x.lane < 32 → a.dst = [r] →
    op ≤ 8 → s.afterLoads n a = false →
    let old := BitVec.ofNat 32 (leNat (s.csmRead core b 4))
    ∃ t W', exec (.longLatencyResult n) s = .next t ∧ tfind t.accs n = none ∧ tfind t.warps a.warp = some W' ∧
      laneOf (W'.vlanes r) x.lane = old ∧ W'.vstate r = .full ∧
      BitVec.ofNat 32 (leNat (t.csmRead core b 4)) =
        (atomicResult op old (BitVec.ofNat 32 x.val) (BitVec.ofNat 32 x.val2)).getD old ∧
      (∀ a', a' < b ∨ b + 4 ≤ a' → Memory.read (t.core core).csm a' = Memory.read (s.core core).csm a') ∧
      (∀ k, k ≠ core → (t.core k).csm = (s.core k).csm) ∧ t.mem = s.mem ∧ t.host = s.host

/-- R222: a load lane takes its bytes from the youngest older store that shares a byte with it, if that store holds all of
them, and otherwise waits. -/
def Obligations.StoreForwarding : Prop :=
  ∀ (size : Nat) (x : LaneAcc) (q : List StoreE),
    let shares := fun (e : StoreE) (y : LaneAcc) => y.ea < x.ea + size ∧ x.ea < y.ea + e.size
    ((∀ e ∈ q, ∀ y ∈ e.lanes, ¬shares e y) → forwardOne size x q = some x) ∧
    ∀ (younger older : List StoreE) (e : StoreE) (y : LaneAcc) (before after : List LaneAcc),
      q = younger ++ e :: older → (∀ e' ∈ younger, ∀ y' ∈ e'.lanes, ¬shares e' y') →
      e.lanes = before ++ y :: after → shares e y → (∀ y' ∈ after, ¬shares e y') →
      forwardOne size x q = if y.ea ≤ x.ea ∧ x.ea + size ≤ y.ea + e.size then
        some { x with res := y.val / 2 ^ (8 * (x.ea - y.ea)) % 2 ^ (8 * size), got := true } else none

/-- R221, R207, R25, R231: the oldest entry leaves the FIFO, or the queue of a fragment's slot, once no older load of its stream
is outstanding (a release: no older access of the warp); its CSM lanes are performed, and global lanes become an access. -/
def Obligations.StoreDrain : Prop :=
  (∀ (s : State) (w : Nat) (W : Warp) (e : StoreE) (rest : List StoreE),
    tfind s.warps w = some W → W.shr = none → W.fifo = e :: rest → s.storeHeld w none e = false →
    (∀ x ∈ e.lanes, ∀ o, x.tgt ≠ .ctrl o) →
    ∃ t W', exec (.storeFifoDrain w none) s = .next t ∧ (∀ k, tfind t.warps k = if k = w then some W' else tfind s.warps k) ∧
      W' = { W with fifo := rest, splits := W'.splits } ∧ ((∀ X ∈ W.splits, X.isLocal = true) → W'.splits = W.splits) ∧
      drained s t w W false e) ∧
  ∀ (s : State) (w i : Nat) (c : Ctx) (f : Slot) (e : StoreE) (rest : List StoreE),
    fragAt s w i c f → c.W.shr = none → f.queue = e :: rest → s.storeHeld w (some i) e = false →
    (∀ x ∈ e.lanes, ∀ o, x.tgt ≠ .ctrl o) →
    ∃ t, exec (.storeFifoDrain w (some i)) s = .next t ∧ t.warps = (slotPut c { f with queue := rest }).warps ∧ drained s t w c.W true e

/-- R233, R234, R237: the scalar loads, atomics and WAITV record their access and empty their destination (WAITV keeps
its registers and waits for the word); the scalar stores enter the queue. -/
def Obligations.ScalarMemoryIssue : Prop :=
  (∀ e ∈ scalarLoads, ∀ (f : M) (s : State) (c : Ctx) (lanes : List LaneAcc), f.d.toNat + e.2.2 ≤ 63 →
    UReady s c f.g false false (group false f.a 2 f.w) (group false f.d e.2.2 true) →
    c.eaCauses (c.sEa f.a f.o e.2.1) e.2.1 = [] →
    forwardAll c.queue e.2.1 (laneAt c e.2.1 (c.sEa f.a f.o e.2.1) 0 0) = some lanes →
    completes (e.1 f) s true fun c' =>
      newAccess c.s c'.s (recordOf c (.load e.2.1 false) true (scalarNos c (regsFrom f.d e.2.2)) lanes) ∧
      goneOn c c' 1 ∧ emptiedS c c' (regsFrom f.d e.2.2) ∧ c.sameP c' ∧ c.sameV c' []) ∧
  (∀ (f : MS) (s : State) (c : Ctx), UReady s c f.g false false (group false f.a 2 f.w) (group false f.d 1 true) →
    c.eaCauses (c.sEa f.a 0 4) 4 = [] → c.queue = [] →
    completes (.sldacq f) s true fun c' =>
      newAccess c.s c'.s (recordOf c (.acq f.s.toNat) true (scalarNos c (regsFrom f.d 1)) (laneAt c 4 (c.sEa f.a 0 4) 0 0)) ∧
      goneOn c c' 1 ∧ emptiedS c c' (regsFrom f.d 1) ∧ c.sameP c' ∧ c.sameV c' []) ∧
  (∀ e ∈ scalarAtomics, ∀ (f : MS) (s : State) (c : Ctx),
    let n := if e.2.2 then 2 else 1
    UReady s c f.g false false (group false f.a 2 f.w ++ group false f.d n true) (group false f.d 1 true) →
    c.eaCauses (c.sEa f.a 0 4) 4 true = [] → c.queue = [] →
    completes (e.1 f) s true fun c' =>
      newAccess (releasedState c f.s.toNat) c'.s (recordOf c (.atom e.2.1 f.s.toNat) true (scalarNos c (regsFrom f.d 1))
        (laneAt c 4 (c.sEa f.a 0 4) (c.sreg f.d).toNat (if e.2.2 = true ∧ f.d ≠ 63 then (c.sreg (f.d + 1)).toNat else 0))) ∧
      goneOn (releasedCtx c) c' 1 ∧ emptiedS c c' (regsFrom f.d 1) ∧ c.sameP c' ∧ c.sameV c' []) ∧
  (∀ (f : MS) (s : State) (c : Ctx),
    UReady s c f.g false false (group false f.a 2 f.w ++ group false f.d 1 true) (group false f.d 1 true) →
    c.eaCauses (c.sEa f.a 0 4) 4 = [] → c.queue = [] →
    completes (.waitv f) s true fun c' =>
      newAccess c.s c'.s (recordOf c (.waitv f.s.toNat) true (scalarNos c (regsFrom f.d 1))
        (laneAt c 4 (c.sEa f.a 0 4) (c.sreg f.d).toNat 0)) ∧
      c'.w = c.w ∧ c'.W = c.W ∧ c'.sp = { c.sp with wait := .waitvLoad c.s.fresh }) ∧
  (∀ e ∈ scalarStores, ∀ (f : M) (s : State) (c : Ctx),
    UReady s c f.g false false (group false f.a 2 f.w ++ group false f.d e.2.2 f.w) [] →
    c.eaCauses (c.sEa f.a f.o e.2.1) e.2.1 true = [] → c.queue.length < 16 →
    completes (e.1 f) s true fun c' =>
      let x := entryOf c true e.2.1 none false (laneAt c e.2.1 (c.sEa f.a f.o e.2.1) (scalarData c f.d e.2.2) 0)
      (withQueue c (c.queue ++ [x])).onward c' 1 ∧ c.sameV c' [] ∧ c.sameP c' ∧ c.sameS c') ∧
  (∀ (f : MS) (s : State) (c : Ctx),
    UReady s c f.g false false (group false f.a 2 f.w ++ group false f.d 1 f.w) [] →
    c.eaCauses (c.sEa f.a 0 4) 4 true = [] → c.queue = [] →
    completes (.sstrel f) s true fun c' =>
      let x := entryOf c true 4 (some f.s.toNat) false (laneAt c 4 (c.sEa f.a 0 4) (scalarData c f.d 1) 0)
      OnlyPipes (releaseOf c.s c.w c.W).1 c'.s ∧ goneOn (withQueue (releasedCtx c) [x]) c' 1 ∧
      c.sameV c' [] ∧ c.sameP c' ∧ c.sameS c')

/-- R53, R66: an instruction of a split at home whose guard holds in no lane, or whose uniform guard does not hold, only
advances the PC past its words. -/
def Obligations.GuardFalseDoesNothing : Prop :=
  ∀ (i : Instr) (k : Code) (v : Bool) (g : BitVec 3) (off : Bool) (s : State) (c : Ctx),
    encode i = some k → guardIn k.word = some (v, g, off) → Issues s c → c.sp.home = .wcore →
    (if v = true then c.parts g = 0 else c.qreg g = off) →
    exec i s = .next ((c.advance (if k.lit.isSome = true then 2 else 1)).finish !v)

/-- R58, R151, R159: BRA, JMP, CALL, CALLR, RET and LOOP; a push moves the entry that no longer fits the chip's eight to the
spill area. -/
def Obligations.UniformBranches : Prop :=
  (∀ (f : UB) (s : State) (c : Ctx), UReady s c f.g f.n false [] [] → c.pcCauses (wordsFrom c.sp.pc f.o.toInt) = [] →
    completes (.bra f) s true (fun c' => splitOnly c c' { c.sp with pc := wordsFrom c.sp.pc f.o.toInt }) ∧
    (c.sp.stack.length < (if c.sp.isLocal = true then 64 else 8) →
      pushes (.call f) s c true fun c' =>
        c'.W = c.W ∧ c'.sp = { c.sp with pc := wordsFrom c.sp.pc f.o.toInt, stack := .call (c.sp.pc + 4) :: c.sp.stack })) ∧
  (∀ (f : R1) (s : State) (c : Ctx), UReady s c f.g false false (group false f.a 1 f.wA) [] → c.pcCauses (c.sreg f.a) = [] →
    completes (.jmp f) s true (fun c' => splitOnly c c' { c.sp with pc := c.sreg f.a }) ∧
    (c.sp.stack.length < (if c.sp.isLocal = true then 64 else 8) →
      pushes (.callr f) s c true fun c' =>
        c'.W = c.W ∧ c'.sp = { c.sp with pc := c.sreg f.a, stack := .call (c.sp.pc + 4) :: c.sp.stack })) ∧
  (∀ (f : G) (s : State) (c : Ctx) (r : Word) (rest : List StackE), UReady s c f.g false false [] [] →
    c.sp.stack = .call r :: rest → (c.sp.sup = true → c.sp.supBase < c.sp.stack.length) → c.pcCauses r = [] →
    completes (.ret f) s true fun c' => splitOnly c c' { c.sp with pc := r, stack := rest }) ∧
  (∀ (f : LoopOps) (s : State) (c : Ctx), UReady s c f.g false false (group false f.d 1 true) [] →
    let v := BitVec.ofInt 32 ((c.sreg f.d).toNat - 1)
    (v = 0 ∨ c.pcCauses (wordsFrom c.sp.pc f.o.toInt) = []) →
    completes (.loop f) s true fun c' =>
      c'.s = c.s ∧ c'.w = c.w ∧ c'.W.rest = c.W.rest ∧ c.wroteS c' [f.d] (fun _ => v) ∧
      c'.sp = { c.sp with pc := if v = 0 then c.sp.pc + 8 else wordsFrom c.sp.pc f.o.toInt })

/-- R150-R153, R157, R192-R194: BRD with one path; with two, the second path becomes a split, a fragment, or, without a
free split id or in a fragment, a deferred path of the join entry; a local one that starts at the join has arrived. -/
def Obligations.DivergentBranch : Prop :=
  ∀ (f : BrdOps) (s : State) (c : Ctx), VReady s c 7 [] [] → c.pcCauses (brdTarget c f) = [] → c.pcCauses (brdJoin c f) = [] →
    let T := takenLanes c f
    let first := (brdPaths c f).1
    let second := (brdPaths c f).2
    (T = c.sp.mask → completes (.brd f) s false fun c' =>
      OnlyPipes c.s c'.s ∧ c'.w = c.w ∧ c'.W = c.W ∧ c'.sp = { c.sp with pc := brdTarget c f }) ∧
    (T = 0 → completes (.brd f) s false fun c' =>
      OnlyPipes c.s c'.s ∧ c'.w = c.w ∧ c'.W = c.W ∧ c'.sp = { c.sp with pc := brdNext c }) ∧
    (T ≠ 0 → T ≠ c.sp.mask → c.sp.stack.length < (if c.sp.isLocal = true then 64 else 8) →
      (c.sp.isLocal = false ∨ (∀ k, ¬lowestFree c k) → pushes (.brd f) s c false fun c' =>
        c'.W = { c.W with nextJoin := c.W.nextJoin + 1 } ∧
        c'.sp = firstPath c first (joinOf c (brdJoin c f) (some second) 0)) ∧
      ∀ k, c.sp.isLocal = true → lowestFree c k →
        ((f.x = false ∨ c.W.sc.csr.exthr.toNat < laneCount second.2 ∨ c.freeSlot = none) →
          (second.1 ≠ brdJoin c f → pushes (.brd f) s c false fun c' =>
            c'.sp = firstPath c first (joinOf c (brdJoin c f) none 0) ∧
            c'.W = { c.W with nextJoin := c.W.nextJoin + 1, nextAge := c.W.nextAge + 1
                              splits := c.W.splits ++ [c.newSplit k second.1 second.2 c.W.nextJoin .wcore] }) ∧
          (second.1 = brdJoin c f → pushes (.brd f) s c false fun c' =>
            c'.sp = firstPath c first { joinOf c (brdJoin c f) none 0 with arrived := second.2 } ∧
            c'.W = { c.W with nextJoin := c.W.nextJoin + 1, nextAge := c.W.nextAge + 1 })) ∧
        ∀ n i, f.x = true → laneCount second.2 ≤ c.W.sc.csr.exthr.toNat → c.freeSlot = some (n, i) →
          ∃ c' t, exec (.brd f) s = .next (c'.finish false) ∧
            c'.w = c.w ∧ c'.sp = firstPath c first (joinOf c (brdJoin c f) none 1) ∧
            c'.W = { c.W with nextJoin := c.W.nextJoin + 1, nextAge := c.W.nextAge + 1
                              splits := c.W.splits ++
                                [c.newSplit k second.1 second.2 c.W.nextJoin (.ncore (c.newSlot n i second.2))] } ∧
            t = { c.s with cores := t.cores } ∧ spilled { c with s := t } c' ∧
            ∀ q, t.core q = { c.s.core q with
              pipe := (t.core q).pipe, nslots := if q = n then i :: (c.s.core q).nslots else (c.s.core q).nslots })

/-- R158: JMPV sends the lanes whose target is the lowest lane's there; the others stay at the JMPV as a second path. -/
def Obligations.LaneJumps : Prop :=
  ∀ (f : JmpV) (s : State) (c : Ctx), VReady s c 7 (group true f.a 1 f.wA ++ bSrcs f.b true) [] →
    (∀ x ∈ group true f.a 1 f.wA ++ bSrcs f.b true, c.consuming x = false) →
    let l0 := (lanesOf c.sp.mask).headD 0
    let M := maskOf fun l => c.sp.mask.getLsbD l && (c.v f.a l == c.v f.a l0)
    c.pcCauses (c.v f.a l0) = [] → c.pcCauses (c.vB f.b l0) = [] →
    (M = c.sp.mask → completes (.jmpv f) s false fun c' =>
      OnlyPipes c.s c'.s ∧ c'.w = c.w ∧ c'.W = c.W ∧ c'.sp = { c.sp with pc := c.v f.a l0 }) ∧
    (M ≠ c.sp.mask → c.sp.stack.length < (if c.sp.isLocal = true then 64 else 8) →
      let second := (c.sp.pc, c.sp.mask &&& ~~~M)
      (c.sp.isLocal = false ∨ (∀ k, ¬lowestFree c k) → pushes (.jmpv f) s c false fun c' =>
        c'.W = { c.W with nextJoin := c.W.nextJoin + 1 } ∧
        c'.sp = firstPath c (c.v f.a l0, M) (joinOf c (c.vB f.b l0) (some second) 0)) ∧
      ∀ k, c.sp.isLocal = true → lowestFree c k →
        (c.sp.pc ≠ c.vB f.b l0 → pushes (.jmpv f) s c false fun c' =>
          c'.sp = firstPath c (c.v f.a l0, M) (joinOf c (c.vB f.b l0) none 0) ∧
          c'.W = { c.W with nextJoin := c.W.nextJoin + 1, nextAge := c.W.nextAge + 1
                            splits := c.W.splits ++ [c.newSplit k second.1 second.2 c.W.nextJoin .wcore] }) ∧
        (c.sp.pc = c.vB f.b l0 → pushes (.jmpv f) s c false fun c' =>
          c'.sp = firstPath c (c.v f.a l0, M) { joinOf c (c.vB f.b l0) none 0 with arrived := second.2 } ∧
          c'.W = { c.W with nextJoin := c.W.nextJoin + 1, nextAge := c.W.nextAge + 1 }))

/-- R153: a split whose PC comes to the J of the innermost join that it owns takes up the deferred path; without one it
waits, or, once every lane has arrived or exited and no fragment is out, goes on at J with the whole mask. -/
def Obligations.JoinArrival : Prop :=
  ∀ (c : Ctx) (e : JoinE) (rest : List StackE) (uset : Bool),
    c.W.split c.sp.id = some c.sp → c.W.splits = [c.sp] → c.sp.stack = .join e :: rest →
    (∀ e', .join e' ∈ rest → e'.id ≠ e.id) → c.sp.sup = false → c.sp.wait = .none →
    c.sp.service = false → c.sp.mask ≠ 0 → c.sp.pc = e.j → c.sp.isLocal = true → c.W.shr = none →
    let W' := tfind (c.finish uset).warps c.w
    (∀ pc m, e.defer = some (pc, m) → m ≠ 0 → pc ≠ e.j →
      ∃ X, (W'.bind fun W => W.split c.sp.id) = some X ∧ X.pc = pc ∧ X.mask = m ∧ X.fmt = e.fmt ∧
        X.stack = .join { e with arrived := e.arrived ||| c.sp.mask, defer := none } :: rest) ∧
    (e.defer = none → (e.joins ≠ 0 ∨ (e.arrived ||| c.sp.mask ||| c.W.exited) &&& e.mask ≠ e.mask) →
      ∃ X, (W'.bind fun W => W.split c.sp.id) = some X ∧ X.wait = .atJoin e.id ∧ X.pc = e.j ∧
        X.stack = .join { e with arrived := e.arrived ||| c.sp.mask } :: rest) ∧
    (e.defer = none → e.joins = 0 → (e.arrived ||| c.sp.mask ||| c.W.exited) &&& e.mask = e.mask → rest = [] →
      c.sp.link = none → e.mask &&& ~~~c.W.exited ≠ 0 →
      ∃ X, (W'.bind fun W => W.split c.sp.id) = some X ∧ X.wait = .none ∧ X.pc = e.j ∧ X.stack = [] ∧
        X.mask = e.mask &&& ~~~c.W.exited ∧ X.fmt = e.fmt)

/-- R154, R159, R184, R237, R363: NOP, SLEEP, EXIT and YIELD, and the waits that end; a WAITV that wakes withdraws the WAIT
stop of its group. -/
def Obligations.IdleAndExit : Prop :=
  (∀ (f : G) (s : State) (c : Ctx), UReady s c f.g false false [] [] →
    completes (.nop f) s true (fun c' => splitOnly c c' { c.sp with pc := c.sp.pc + 4 }) ∧
    (((tfind c.s.blocks c.W.block).bind (·.stop) = none ∨ c.sp.sup = true) →
      completes (.yield f) s true fun c' => splitOnly c c' { c.sp with pc := c.sp.pc + 4 }) ∧
    ∃ t W', exec (.exit f) s = .next t ∧ tfind t.warps c.w = some W' ∧ W'.exited = c.W.exited ||| c.sp.mask ∧
      SameMemory s t ∧ (c.sp.stack = [] → c.sp.link = none → W'.split c.sp.id = none)) ∧
  (∀ (f : SleepOps) (s : State) (c : Ctx), UReady s c f.g false false (bSrcs f.b false) [] →
    completes (.sleep f) s true fun c' =>
      splitOnly c c' { c.sp with pc := c.sp.pc + BitVec.ofNat 32 (4 * bWords f.b),
                                 wait := .sleep (max 1 (min (c.sB f.b).toNat (2 ^ 24))) }) ∧
  ∀ (w i n ea v : Nat) (s : State) (c : Ctx), splitCtx s w i = some c → c.sp.id = i →
    let awake := s.putWarp w { c.W with splits := c.W.splits.map fun Y => if Y.id = i then { c.sp with wait := .none } else Y }
    (c.sp.wait = .sleep n → c.sp.innermost = none → c.sp.mask ≠ 0 →
      ∃ t, exec (.sleepExpire w i) s = .next t ∧ t = awake) ∧
    (c.sp.wait = .waitvSleep ea v → ∃ t, exec (.waitvWake w i) s = .next t ∧ t = { awake with blocks := t.blocks } ∧
      ∀ b, tfind t.blocks b = (tfind s.blocks b).map fun B =>
        if b ∈ s.members c.W.block ∧ B.saved = false ∧ B.stop = some .waitWord then { B with stop := none } else B)

/-- R175, R177, R179, R185, R69: TRAP, BKPT outside debug and a word without a meaning enter the user handler. -/
def Sys2Proof.Claims.UserTrapEntry : Prop :=
  (∀ (f : TrapOps) (s : State) (c : Ctx), UReady s c f.g false false (group false f.a 1 f.wA) [] →
    (canTrap c → exec (.trap f) s = .next (userEntry c f.b.toNat (c.sp.pc + 4) 0 (c.sreg f.a).toNat)) ∧
    ∀ q, c.sp.sup = false → c.sp.home = .ncore q →
      exec (.trap f) s = .next (fragmentStop c q f.b.toNat 0 (c.sreg f.a).toNat)) ∧
  (∀ (f : G) (s : State) (c : Ctx), UReady s c f.g false false [] [] → canTrap c →
    (s.part (s.warpPart c.W)).dbgctl.getLsbD 0 = false →
    exec (.bkpt f) s = .next (userEntry c 0x0E (c.sp.pc + 4) 0 0)) ∧
  ∀ (w : Word) (s : State) (c : Ctx), Issues s c → canTrap c → fetched s = .illegal w →
    exec (.illegalEncoding w) s = .next (userEntry c 0x01 c.sp.pc 0 0)

/-- R37, R39, R355: without a handler, or in it, a user cause ends the launch with the cause as its status. -/
def Sys2Proof.Claims.UserCauseWithoutHandler : Prop :=
  ∀ (f : TrapOps) (s : State) (c : Ctx) (B : Block) (L : Launch), UReady s c f.g false false (group false f.a 1 f.wA) [] →
    c.sp.sup = false → c.sp.home = .wcore →
    (c.W.sc.csr.trapv &&& 0xFFFFFFFC = 0 ∨ c.W.sc.csr.trapc.getLsbD 11 = true) → f.b.toNat ≠ 0x0C →
    tfind s.blocks c.W.block = some B → tfind s.launches B.launch = some L → L.phase.live = true →
    ∃ t, exec (.trap f) s = .next t ∧ (∀ b, tfind t.blocks b ≠ none → (tfind t.blocks b).map (·.launch) ≠ some B.launch) ∧
      ∃ L', tfind t.launches B.launch = some L' ∧ L'.phase = .ending ∧ L'.status = some f.b.toNat ∧
        L'.causePc = c.sp.pc.toNat ∧ L'.causeBlk = some B.lin

/-- R37, R39, R175-R177: a user-class cause goes to the handler or ends the launch. -/
def Obligations.UserTraps : Prop := UserTrapEntry ∧ UserCauseWithoutHandler


/-- R178, R183, R231: ERET from the user handler, back at an LDLC with what it had consumed, and from the supervisor handler
after a cause of an instruction or of an access, which goes on or fails with PROT 0x13; in user mode outside the handler it
raises PROT with reason 0x04. -/
def Obligations.HandlerReturn : Prop :=
  ∀ (f : G) (s : State) (c : Ctx), UReady s c f.g false false [] [] →
    let csr := c.W.sc.csr
    (c.sp.sup = false → c.sp.home = .wcore → csr.trapc.getLsbD 11 = true → c.sp.id = bits csr.trapc.toNat 9 8 →
      c.sp.trapWait = none → noneKept c.sp (csr.trappc &&& 0xFFFFFFFC) →
      completes (.eret f) s true fun c' =>
        c'.s = c.s ∧ c'.w = c.w ∧ c'.W.splits = c.W.splits.map (fun X => { X with usrChild := false }) ∧
        c'.sp = { c.sp with pc := csr.trappc &&& 0xFFFFFFFC, ibuf := [], wait := .none, usrChild := false, taken := []
                            kept := c.sp.kept.tail } ∧
        c'.W.sc = { c.W.sc with csr := { csr with trapc := c'.W.sc.csr.trapc } } ∧
        ∀ i, i < 32 → c'.W.sc.csr.trapc.getLsbD i = (csr.trapc.getLsbD i && i != 11)) ∧
    (c.sp.sup = false → (c.sp.isLocal = false ∨ csr.trapc.getLsbD 11 = false ∨ c.sp.id ≠ bits csr.trapc.toNat 9 8) →
      exec (.eret f) s = .next (c.raise 0x05 0x04)) ∧
    (∀ tk rest, c.sp.sup = false → c.sp.home = .wcore → csr.trapc.getLsbD 11 = true → c.sp.id = bits csr.trapc.toNat 9 8 →
      c.sp.trapWait = none → c.sp.kept = (csr.trappc &&& 0xFFFFFFFC, tk) :: rest → c.sp.innermost = none → c.sp.mask ≠ 0 →
      c.W.split c.sp.id = some c.sp →
      ∃ t X, exec (.eret f) s = .next t ∧ ((tfind t.warps c.w).bind fun W => W.split c.sp.id) = some X ∧
        X.taken = tk ∧ X.kept = rest ∧ X.pc = csr.trappc &&& 0xFFFFFFFC) ∧
    ∀ z, c.sp.sup = true → c.W.supNow = some z → z.frag = false → c.sp.service = false → c.sp.savedWait = .none →
      c.sp.stack = [] → c.sp.link = none → c.sp.mask ≠ 0 → c.W.shr = none → c.W.split c.sp.id = some c.sp →
      noneKept c.sp (csr.strappc &&& 0xFFFFFFFC) →
      (z.kind = 2 → csr.strapc.getLsbD 12 = false → completes (.eret f) s true (supReturn c)) ∧
      (z.kind = 0 → ∃ c' t, exec (.eret f) s = .next t ∧ supReturn c c' ∧
        t = { c'.finish true with accs := t.accs } ∧
        ∀ n, tfind t.accs n = if n = z.ref then (tfind s.accs n).map fun a => serviced a z.sub (csr.strapc.getLsbD 12)
          else tfind s.accs n)

/-- R180-R182, R465: the oldest held supervisor-class cause enters the supervisor handler in its handling split, or, without a
local split, in a service split; what else the warp, memory and the other warps hold stays. -/
def Obligations.SupervisorEntry : Prop :=
  ∀ (s : State) (w : Nat) (W : Warp) (X : Split) (z : SupCause) (rest : List SupCause) (B : Block) (before : List Split) (age : Nat),
    tfind s.warps w = some W → W.supQ = z :: rest → W.supNow = none → W.halted = false →
    tfind s.blocks W.block = some B → B.saved = false → W.shr = none → X.cuse = none →
    (W.handling z = some X ∧ W.split X.id = some X ∧ before = W.splits ∧ age = W.nextAge ∨
      W.handling z = none ∧ X = W.serviceSplit ∧ before = W.splits ++ [X] ∧ age = W.nextAge + 1) →
    ∃ t W' Y, exec (.supervisorTrapEntry w) s = .next t ∧ t = { s with warps := tset s.warps w W', ops := t.ops } ∧
      Y = { X with pc := 0, ibuf := [], sup := true, supBase := X.stack.length, savedWait := X.wait, wait := .none,
                   cheld := false, stalled := false, taken := [], kept := (X.pc, X.taken) :: X.kept } ∧
      W' = { W with supNow := some z, supQ := rest, nextAge := age, sc := W'.sc
                    splits := before.map fun Z => if Z.id = X.id then Y else Z } ∧
      W'.sc = { W.sc with supS := [], supSt := [], supQ := 0, cancel := W'.sc.cancel, csr := W'.sc.csr } ∧
      (∀ i, i < 128 → W'.sc.cancel.getLsbD i = (W.sc.cancel.getLsbD i && decide (i < 64))) ∧
      W'.sc.csr = { W.sc.csr with
        strapc := BitVec.ofNat 32 (z.cause + z.split % 4 * 256 + (if z.frag then 1024 else 0) +
          (if W.sc.csr.trapc.getLsbD 11 then 2048 else 0))
        strappc := X.pc &&& 0xFFFFFFFC, strapal := BitVec.ofNat 32 z.addr, strapah := BitVec.ofNat 32 (z.addr / 2 ^ 32)
        strapaux := BitVec.ofNat 32 z.aux } ∧
      ∀ n, tfind t.ops n = (tfind s.ops n).map fun o =>
        if o.warp = w ∧ o.dst.map Prod.fst = some true then { o with dst := none } else o

/-- R54-R57, R103, R173, R174, R202: CSRR, CSRW and SETFMT in a split at home; a read-only CSR keeps its value; CSRW of GANGA
and GANGB recalls a fragment first. -/
def Sys2Proof.Claims.CsrAccess : Prop :=
  (∀ (f : UC) (s : State) (c : Ctx), c.sp.home = .wcore → csrOk f.i = true → (0x100 ≤ f.i.toNat → c.sp.sup = true) →
    (UReady s c f.g false false [] (group false f.d 1 true) →
      (f.i ≠ 0x020 → completes (.csrr f) s true fun c' => c.sEffect c' 1 [f.d] fun _ => c.csrRead f.i.toNat) ∧
      (f.i = 0x020 → completes (.csrr f) s true fun c' =>
        let cyc := (c.s.core c.W.core).cycle
        c'.s = c.s ∧ c'.w = c.w ∧ c'.sp = { c.sp with pc := c.sp.pc + 4 } ∧
        (∀ r, c'.sreg r = if r = f.d ∧ r ≠ 63 then cyc.extractLsb' 0 32 else c.sreg r) ∧
        c'.W.sc.csr = { c.W.sc.csr with cycleh := cyc.extractLsb' 32 32 })) ∧
    (UReady s c f.g false false (group false f.d 1 true) [] → c.accownBusy f.i.toNat = false →
      (f.i = 0x018 → c.sp.sup = true ∨ c.W.sc.csr.trapc.getLsbD 11 = false) →
      completes (.csrw f) s true fun c' =>
        c'.w = c.w ∧ c'.sp.pc = c.sp.pc + 4 ∧ (∀ r, c'.sreg r = c.sreg r ∧ c'.sState r = c.sState r) ∧
        c'.s = { c.s with clusters := c'.s.clusters } ∧
        (∀ j, j ≠ f.i.toNat → c'.csrRead j = c.csrRead j) ∧
        (∀ e ∈ csrMasks, e.1 = f.i.toNat → c'.csrRead e.1 = c.sreg f.d &&& e.2) ∧
        (f.i = 0x011 → (c'.csrRead 0x011).toNat = min 4 ((c.sreg f.d).toNat % 8)) ∧
        (f.i = 0x141 → ∀ k, k < 32 → (c'.csrRead 0x141).getLsbD k =
          if k = 12 then (c.sreg f.d).getLsbD 12 else (c.csrRead 0x141).getLsbD k) ∧
        (0x100 ≤ f.i.toNat → f.i.toNat < 0x140 → c'.csrRead f.i.toNat = c.sreg f.d &&& 0x1FFF) ∧
        (f.i.toNat ∈ csrReadOnly → c'.csrRead f.i.toNat = c.csrRead f.i.toNat))) ∧
  (∀ (f : UC) (s : State) (c : Ctx) (q : Slot), Issues s c → c.sp.home = .ncore q → f.i = 0x012 ∨ f.i = 0x013 →
    exec (.csrw f) s = .next (recalled c q)) ∧
  ∀ (f : SetFmtOps) (s : State) (c : Ctx), c.sp.home = .wcore →
    UReady s c f.g false false (bSrcs f.b false) (group false f.d 1 true) →
    completes (.setfmt f) s true fun c' =>
      c'.s = c.s ∧ c'.w = c.w ∧ c.wroteS c' [f.d] (fun _ => c.sp.fmt) ∧ c'.W.rest = c.W.rest ∧
      c'.sp = { c.sp with pc := c.sp.pc + BitVec.ofNat 32 (4 * bWords f.b), fmt := c.sB f.b &&& 0x000FBFFF }

/-- R54, R39: a CSR of the supervisor is out of reach in user mode: CSRR and CSRW of it raise PROT with reason 0x08, as a
write of TRAPV in the user handler does. -/
def Sys2Proof.Claims.CsrPrivilege : Prop :=
  ∀ (f : UC) (s : State) (c : Ctx), c.sp.sup = false → c.sp.home = .wcore →
    (0x100 ≤ f.i.toNat → UReady s c f.g false false [] (group false f.d 1 true) →
      exec (.csrr f) s = .next (c.raise 0x05 0x08)) ∧
    ((0x100 ≤ f.i.toNat ∨ (f.i = 0x018 ∧ c.W.sc.csr.trapc.getLsbD 11 = true)) →
      UReady s c f.g false false (group false f.d 1 true) [] → exec (.csrw f) s = .next (c.raise 0x05 0x08))

/-- R54-R57, R103, R174, R181: reads and writes of CSRs, and the causes of those that are not allowed. -/
def Obligations.CsrInstructions : Prop := CsrAccess ∧ CsrPrivilege


/-- R51, R52, R122, R172: a source without wait that is not FULL raises REG_EMPTY with its number, one marked cancelled
raises FUTURE_CANCELLED, whatever the destination's state; a source with wait, or behind sources that are FULL the
destination, that is not FULL holds the instruction. -/
def Obligations.SourceAndDestinationRules : Prop :=
  ∀ (f : R3) (r : BitVec 6) (s : State) (c : Ctx), Issues s c → c.sp.home = .wcore → c.qreg f.g = true →
    f.b = .lit 0 → r = f.a → r ≠ 63 →
    (c.sstate r ≠ .full → f.wA = true → c.smark r = false → exec (.sadd f) s = .next s) ∧
    (c.sstate f.d ≠ .full → c.sstate r = .full → c.smark r = false → exec (.sadd f) s = .next s) ∧
    (f.wA = false → c.smark r = false → c.sstate r ≠ .full →
      exec (.sadd f) s = .next (c.raise 0x02 (64 + r.toNat))) ∧
    (c.smark r = true → exec (.sadd f) s = .next (c.raise 0x10 (64 + r.toNat)))

/-- R206, R238, R239, R314: barrier instructions mark the split's lanes; the waiting forms wait for the phase. Where BAR, BARA
or CBARA finds some of its lanes marked, the others arrive and these wait for the completion to arrive then. The completion
of the barrier is judged on the state that follows. -/
def Sys2Proof.Claims.BarrierArrival : Prop :=
  ∀ e ∈ [((.bar : G → Instr), false, true, false), (.bara, false, false, false), (.barw, false, true, true),
         (.cbara, true, false, false), (.cbarw, true, true, true)],
    ∀ (f : G) (s : State) (c : Ctx), UReady s c f.g false false [] [] → c.settled = true →
      let marked := c.W.marks e.2.1 &&& c.sp.mask
      (e.2.2.2 = true ∨ marked = 0 ∨ marked ≠ c.sp.mask) → c.sp.home = .wcore →
      let marks := c.W.marks e.2.1 ||| c.sp.mask
      let ph := s.barPhase c.W.block e.2.1
      let X := if e.2.2.2 = false ∧ marked ≠ 0 then { c.sp with wait := .barRest e.2.1 e.2.2.1 ph marked }
               else if e.2.2.1 = true then { c.sp with wait := barWait e.2.1 e.2.2.2 ph }
               else { c.sp with pc := c.sp.pc + 4 }
      ∃ c' : Ctx, exec (e.1 f) s = .next ((c'.finish true).barCheck c.W.block e.2.1) ∧
        c'.s = (releaseOf c.s c.w c.W).1 ∧ c'.w = c.w ∧ c'.sp = X ∧
        c'.W = { c.W with openDirty := false, barArr := if e.2.1 = true then c.W.barArr else marks
                          cbarArr := if e.2.1 = true then marks else c.W.cbarArr }

/-- R238, R239: a barrier whose every participant has arrived or exited completes: marks clear, the phase advances; one that
lacks a participant stays. Lanes that waited to arrive again are marked for the next phase. -/
def Sys2Proof.Claims.BarrierCompletion : Prop :=
  ∀ (s : State) (b : Nat) (B : Block) (w : Nat) (W : Warp), tfind s.blocks b = some B → B.warps = [w] →
    tfind s.warps w = some W → W.barArr ≠ 0 →
    ((W.barArr ||| W.exited) &&& W.covered ≠ W.covered → s.barCheck b false = s) ∧
    ((W.barArr ||| W.exited) &&& W.covered = W.covered → W.restOf false B.barPhase = 0 → ∃ W' B', tfind (s.barCheck b false).warps w = some W' ∧
      W'.barArr = 0 ∧ W'.cbarArr = W.cbarArr ∧ W'.v = W.v ∧ W'.sc.s = W.sc.s ∧
      tfind (s.barCheck b false).blocks b = some B' ∧ B' = { B with barPhase := B.barPhase + 1 } ∧
      ∀ X ∈ W.splits, W.splits = [X] → X.isLocal = true → X.wait = .bar B.barPhase → X.savedWait = .none →
        X.trapWait = none → X.innermost = none →
        X.mask ≠ 0 → X.service = false → W'.splits = [{ X with wait := .none, pc := X.pc + 4 }]) ∧
    ∀ (X : Split) (rest : Mask), (W.barArr ||| W.exited) &&& W.covered = W.covered → W.splits = [X] → X.isLocal = true →
      X.wait = .barRest false true B.barPhase rest → X.savedWait = .none → X.trapWait = none → rest ≠ 0 →
      rest &&& W.exited = 0 → (rest ||| W.exited) &&& W.covered ≠ W.covered →
      ∃ W', tfind (s.barCheck b false).warps w = some W' ∧ W'.barArr = rest ∧
        W'.splits = [{ X with wait := .bar (B.barPhase + 1) }]

/-- R238-R240: threads arrive at barriers, and barriers complete. -/
def Obligations.Barriers : Prop := BarrierArrival ∧ BarrierCompletion


/-- R27, R241, R314, R220: a fence goes on once the accesses that it orders are performed; its release side counts open
writes, its acquire side raises the warp's floor and, from REGION scope on, empties the cluster's L1. -/
def Sys2Proof.Claims.Fences : Prop :=
  ∀ e ∈ [((.fenceAcq : Sc → Instr), false, true, false), (.fenceRel, true, false, false), (.fenceAr, true, true, false),
         (.fenceEng, true, true, true)],
    ∀ (f : Sc) (s : State) (c : Ctx), UReady s c 7 false false [] [] → c.settled = true → (e.2.2.2 = true → ∀ o ∈ s.ops, o.2.warp ≠ c.w) →
      completes (e.1 f) s true fun c' =>
        let rel := if e.2.1 = true then (releaseOf c.s c.w c.W).1 else c.s
        c'.w = c.w ∧ c'.sp = { c.sp with pc := c.sp.pc + 4 } ∧ c'.W.sc = c.W.sc ∧ c'.W.v = c.W.v ∧ c'.W.vst = c.W.vst ∧
        c'.W.openDirty = (if e.2.1 = true then false else c.W.openDirty) ∧
        c'.W.floor = (if e.2.2.1 = true then (rel.part (s.warpPart c.W)).owc else c.W.floor) ∧
        c'.s.parts = rel.parts ∧ c'.s.accs = rel.accs ∧
        ∀ k, (c'.s.cluster k).l1 = if e.2.2.1 = true ∧ 3 ≤ f.s.toNat ∧ k = coreCluster c.W.core then [] else (s.cluster k).l1

/-- R242-R246: TBINIT, TBARV and TBWAIT on the granule that the reference names. -/
def Sys2Proof.Claims.TransactionBarriers : Prop :=
  (∀ (f : TbOps) (s : State) (c : Ctx), UReady s c f.g false false (group false f.a 1 f.wA ++ bSrcs f.b false) [] →
    c.refCauses (c.sreg f.a).toNat 16 16 = [] →
    let p := c.csmAt (c.sreg f.a).toNat
    let n := (c.sB f.b).toNat % 2 ^ 20
    (n ≠ 0 → ∃ c' : Ctx, exec (.tbinit f) s = .next (c'.finish true) ∧ c'.w = c.w ∧ c'.W = c.W ∧
      c'.sp = { c.sp with pc := c.sp.pc + BitVec.ofNat 32 (4 * bWords f.b) } ∧
      c'.s = { c.s with cores := c'.s.cores } ∧ c'.s.granule p.1 p.2 = n * 2 ^ 64 + n * 2 ^ 8 ∧
      ∀ k a, k ≠ p.1 ∨ a < p.2 ∨ p.2 + 16 ≤ a → Memory.read (c'.s.core k).csm a = Memory.read (c.s.core k).csm a) ∧
    (tbBad (c.s.granule p.1 p.2) = false → bits (c.s.granule p.1 p.2) 3 0 ≠ (c.sB f.b).toNat % 16 →
      completes (.tbwait f) s true fun c' =>
        c'.w = c.w ∧ c'.sp = { c.sp with pc := c.sp.pc + BitVec.ofNat 32 (4 * bWords f.b) } ∧
        c'.W = { c.W with floor := (c.s.part (c.s.warpPart c.W)).owc })) ∧
  ∀ (f : R3) (s : State) (c : Ctx),
    UReady s c f.g false false (group false f.a 1 f.wA ++ bSrcs f.b false) (group false f.d 1 true) →
    c.refCauses (c.sreg f.a).toNat 16 16 = [] →
    let p := c.csmAt (c.sreg f.a).toNat
    let g := c.s.granule p.1 p.2
    let sectors := tbSectors g + (c.sB f.b).toInt
    tbBad g = false → bits g 27 8 ≠ 0 → -0x800000 ≤ (c.sB f.b).toInt → (c.sB f.b).toInt ≤ 0x7FFFFF →
    -0x800000 ≤ sectors → sectors ≤ 0x7FFFFF →
    ∃ c' : Ctx, exec (.tbarv f) s = .next (c'.finish true) ∧ goneOn c c' (bWords f.b) ∧ c.sameP c' ∧ c.sameV c' [] ∧
      c.wroteS c' [f.d] (fun _ => BitVec.ofNat 32 (bits g 3 0)) ∧
      c'.s = { c.s with cores := c'.s.cores } ∧
      let h := c'.s.granule p.1 p.2
      (bits g 27 8 = 1 ∧ sectors = 0 → bits h 27 8 = bits g 83 64 ∧ tbSectors h = 0 ∧ bits h 3 0 = (bits g 3 0 + 1) % 16) ∧
      (¬(bits g 27 8 = 1 ∧ sectors = 0) → bits h 27 8 + 1 = bits g 27 8 ∧ tbSectors h = sectors ∧ bits h 3 0 = bits g 3 0) ∧
      bits h 83 64 = bits g 83 64 ∧ bits h 7 4 = bits g 7 4

/-- R27, R241, R242-R247: fences, and the barriers in CSM granules. -/
def Obligations.FencesAndTransactions : Prop := Fences ∧ TransactionBarriers


/-- R30, R171, R172, R314: FTEST, FMOVE, FCANCEL and FWAIT in a split at home outside the supervisor handler; a future seen to
be FULL is observed. -/
def Obligations.FutureInstructions : Prop :=
  (∀ (f : FTestOps) (s : State) (c : Ctx), UReady s c f.g false true [] [] → c.sp.home = .wcore → c.sp.sup = false →
    completes (.ftest f) s true (fun c' =>
      (if c.sstate f.a = .full then observedBy c else c).qEffect c' 1 [] f.p (c.sstate f.a == .full)) ∧
    completes (.fcancel f) s true fun c' =>
      goneOn c c' 1 ∧ c.sameP c' ∧ c.sameV c' [] ∧ c'.W.swrites = c.W.swrites ∧
      c'.W.sc = { c.W.sc with q := c'.W.sc.q, cancel := c'.W.sc.cancel } ∧
      (∀ m, c'.qreg m = if m = f.p ∧ m ≠ 7 then c.sstate f.a == .future else c.qreg m) ∧
      (∀ r, c'.sreg r = c.sreg r ∧ c'.sState r = c.sState r) ∧
      (∀ r, r ≠ 63 → c'.smark r = (c.smark r || (r == f.a && c.sstate f.a == .future))) ∧
      (c.sstate f.a ≠ .future → c'.s = c.s) ∧
      (c.sstate f.a = .future → ∀ n, tfind c'.s.ops n = (tfind c.s.ops n).map fun o =>
        if o.warp = c.w ∧ o.dst = some (false, f.a.toNat) then { o with cancelled := true } else o)) ∧
  ∀ (f : FMoveOps) (s : State) (c : Ctx), c.sp.home = .wcore → c.sp.sup = false → f.d ≠ 63 → f.a ≠ 63 →
    (f.d ≠ f.a → UReady s c f.g false true [] (group false f.d 1 true) → completes (.fmove f) s true fun c' =>
      goneOn c c' 1 ∧ c.sameP c' ∧ c.sameV c' [] ∧ c'.W.swrites = c.W.swrites ∧
      c'.W.sc = { c.W.sc with s := c'.W.sc.s, st := c'.W.sc.st, cancel := c'.W.sc.cancel } ∧
      (∀ r, c'.sreg r = if r = f.d then c.sreg f.a else c.sreg r) ∧
      (∀ r, c'.sState r = if r = f.d then c.sstate f.a else if r = f.a then .full else c.sState r) ∧
      (∀ r, r ≠ 63 → c'.smark r = if r = f.d then c.smark f.a else if r = f.a then false else c.smark r) ∧
      (c.sstate f.a ≠ .full → ∀ n, tfind c'.s.ops n = (tfind c.s.ops n).map fun o =>
        if o.warp = c.w ∧ o.dst = some (false, f.a.toNat) then { o with dst := some (false, f.d.toNat) } else o)) ∧
    (UReady s c f.g false true [] (group false f.d 1 true) → c.sstate f.a = .full → completes (.fwait f) s true fun c' =>
      c'.s = c.s ∧ goneOn (observedBy c) c' 1 ∧ c.sameP c' ∧ c.sameV c' [] ∧ c'.W.swrites = c.W.swrites ∧
      c'.W.sc = { c.W.sc with s := c'.W.sc.s, st := c'.W.sc.st, cancel := c'.W.sc.cancel } ∧
      (∀ r, c'.sreg r = if r = f.d then c.sreg f.a else c.sreg r) ∧ (∀ r, c'.sState r = if r = f.d then .full else c.sState r) ∧
      ∀ r, r ≠ 63 → c'.smark r = if r = f.d ∨ r = f.a then false else c.smark r)

/-- R168, R202: SHRMAP waits for its peer's; both then go on and share the range, with the registers of the lower-numbered warp,
be it the one that waited or the other; SHRMAP vz ends the mapping, after which both hold the current values of the range; a
fragment is recalled first. -/
def Obligations.SharedRanges : Prop :=
  (∀ (g : BitVec 3) (wA : Bool) (fst a : BitVec 6) (cnt : BitVec 4) (s : State) (c : Ctx) (pw : Nat) (P : Warp),
    UReady s c g false false (group false a 1 wA) [] → c.sp.home = .wcore → fst.toNat + cnt.toNat + 1 ≤ 63 →
    s.blockWarp c.W.block ((c.sreg a).toNat % 32) = some pw → pw ≠ c.w → tfind s.warps pw = some P →
    c.W.shr = none → P.shr = none →
    (∀ r, c.W.shrReq = some r → r.count ≠ 0) →
    (P.shrLive = none →
      let r : ShrReq := { first := fst.toNat, count := cnt.toNat + 1, peer := P.idx, split := c.sp.id, pc := c.sp.pc }
      exec (.shrmap (.map g wA fst a cnt)) s = .next { c with W := { c.W with shrReq := some r } }.put) ∧
    (∀ r Y, P.shrLive = some r → r.first = fst.toNat → r.count = cnt.toNat + 1 → r.peer = c.W.idx → P.idx < c.W.idx →
      P.split r.split = some Y → Y.innermost = none → Y.mask ≠ 0 →
      (∀ X ∈ c.W.splits, X.isLocal = true) →
      ∃ t W', exec (.shrmap (.map g wA fst a cnt)) s = .next t ∧ tfind t.warps c.w = some W' ∧
        W'.shr = some (fst.toNat, cnt.toNat + 1, pw) ∧
        tfind t.warps pw = some { P with
          shr := some (fst.toNat, cnt.toNat + 1, c.w), shrReq := none
          splits := P.splits.map fun Z => if Z.id = Y.id then { Y with pc := Y.pc + 4 } else Z } ∧
        (∀ r, W'.vlanes r = if fst.toNat ≤ r ∧ r < fst.toNat + cnt.toNat + 1 then P.vlanes r else c.W.vlanes r) ∧
        ∀ r, W'.vstate r = if fst.toNat ≤ r ∧ r < fst.toNat + cnt.toNat + 1 then P.vstate r else c.W.vstate r) ∧
    (∀ r Y, P.shrLive = some r → r.first = fst.toNat → r.count = cnt.toNat + 1 → r.peer = c.W.idx → c.W.idx < P.idx →
      P.split r.split = some Y → Y.isLocal = true → Y.innermost = none → Y.mask ≠ 0 →
      ∃ t W' P' Y', exec (.shrmap (.map g wA fst a cnt)) s = .next t ∧ tfind t.warps c.w = some W' ∧
        W'.shr = some (fst.toNat, cnt.toNat + 1, pw) ∧ (∀ r, W'.vlanes r = c.W.vlanes r ∧ W'.vstate r = c.W.vstate r) ∧
        tfind t.warps pw = some P' ∧ P'.shr = some (fst.toNat, cnt.toNat + 1, c.w) ∧ P'.split r.split = some Y' ∧
        Y'.pc = Y.pc + 4 ∧
        (∀ r, P'.vlanes r = if fst.toNat ≤ r ∧ r < fst.toNat + cnt.toNat + 1 then c.W.vlanes r else P.vlanes r) ∧
        ∀ r, P'.vstate r = if fst.toNat ≤ r ∧ r < fst.toNat + cnt.toNat + 1 then c.W.vstate r else P.vstate r)) ∧
  (∀ (g : BitVec 3) (s : State) (c : Ctx) (f n pw : Nat) (P : Warp), UReady s c g false false [] [] → c.sp.home = .wcore →
    c.W.shr = some (f, n, pw) → pw ≠ c.w → tfind s.warps pw = some P →
    ∃ t W' P', exec (.shrmap (.unmap g)) s = .next t ∧ tfind t.warps c.w = some W' ∧ W'.shr = none ∧
      tfind t.warps pw = some P' ∧ P'.shr = none ∧ (∀ r, W'.vlanes r = c.W.vlanes r ∧ W'.vstate r = c.W.vstate r) ∧
      (∀ r, f ≤ r → r < f + n → P'.vlanes r = c.W.vlanes r ∧ P'.vstate r = c.W.vstate r) ∧
      ∀ r, r < f ∨ f + n ≤ r → P'.vlanes r = P.vlanes r ∧ P'.vstate r = P.vstate r) ∧
  ∀ (x : Shr) (s : State) (c : Ctx) (f : Slot), Issues s c → c.sp.home = .ncore f → exec (.shrmap x) s = .next (recalled c f)

/-- R121, R142, R235, R236: the constant instructions read the selected bank's word from the core's constant cache; one that
missed keeps its lanes, operands and bank, and goes on with them once its word is there; CBSET
binds a bank for the warp and drops the user lines of the range. -/
def Obligations.ConstantOperands : Prop :=
  (∀ e ∈ constTable, ∀ (f : C3) (s : State) (c : Ctx) (x : Word),
    let srcs := group true f.a 1 f.wA ++ if e.2.1 then group true f.d 1 true else []
    VReady s c f.g srcs (group true f.d 1 true) → c.sp.cuse = none → c.bankComing = false → c.bankCauses f.k.toNat = [] →
    c.constWord (c.constAddr f.k.toNat).1 = some x →
    completes (e.1 f) s false fun c' =>
      goneOn c c' 1 ∧ c.wroteV c' srcs [f.d] (c.parts f.g) (fun _ l => e.2.2 (c.v f.a l) (c.v f.d l) x) ∧ c.sameP c' ∧
      c.sameS c' ∧ constRead c c') ∧
  (∀ e ∈ constTable, ∀ (f : C3) (s : State) (c : Ctx) (u : ConstUse) (x : Word),
    Issues s c → c.sp.cuse = some u → c.constWord u.addr = some x → c.ready 0 [] (group true f.d 1 true) false = true →
    completes (e.1 f) s false fun c' =>
      goneOn c c' 1 ∧ c.wroteV c' [] [f.d] u.lanes (fun _ l => e.2.2 (laneOf u.a l) (laneOf u.d l) x) ∧ c.sameP c' ∧
      c.sameS c' ∧ constRead c c') ∧
  (∀ (f : CMov) (s : State) (c : Ctx), VReady s c f.g [] (group true f.d 1 true) → c.sp.cuse = none → c.bankComing = false →
    c.bankCauses f.k.toNat = [] →
    let a := c.constAddr f.k.toNat
    (∀ x, c.constWord a.1 = some x → completes (.movcb f) s false fun c' =>
      goneOn c c' 1 ∧ c.wroteV c' [] [f.d] (c.parts f.g) (fun _ _ => x) ∧ c.sameP c' ∧ c.sameS c' ∧ constRead c c') ∧
    (c.constWord a.1 = none → exec (.movcb f) s = .next { c with sp := { c.sp with
        cuse := some { addr := a.1, set := a.2.2, lanes := c.parts f.g, a := [], d := c.vlanes f.d }
        cwant := some (a.1, a.2.2), cheld := c.sp.isLocal } }.put)) ∧
  (∀ (f : M) (s : State) (c : Ctx) (x : Word), UReady s c f.g false false (group false f.a 1 f.w) (group false f.d 1 true) →
    let k := (c.sreg f.a).toNat + f.o.toNat
    c.bankComing = false → c.bankCauses k = [] → c.constWord (c.constAddr k).1 = some x →
    completes (.sldcb f) s true fun c' =>
      goneOn c c' 1 ∧ c.wroteS c' [f.d] (fun _ => x) ∧ c.sameP c' ∧ c.sameV c' [] ∧ constRead c c') ∧
  ∀ (f : CbSet) (s : State) (c : Ctx), UReady s c f.g false false (group false f.a 2 f.w) [] → c.settled = true →
    f.n.toNat < c.userImage.cbCount → let a := (c.sPair f.a).toNat
    a % 1024 = 0 → a < 2 ^ 56 → completes (.cbset f) s true fun c' =>
      c'.w = c.w ∧ c'.sp = { c.sp with pc := c.sp.pc + 4 } ∧ c'.W = { c.W with cbset := c'.W.cbset } ∧
      (∀ m, tget 0 c'.W.cbset m = if m = f.n.toNat then a else tget 0 c.W.cbset m) ∧
      c'.s = { c.s with cores := c'.s.cores } ∧
      ∀ k, c'.s.core k = { c.s.core k with ccache := (c'.s.core k).ccache } ∧
        ∀ x, x ∈ (c'.s.core k).ccache ↔ x ∈ (c.s.core k).ccache ∧
          ¬(k = c.W.core ∧ a ≠ 0 ∧ x.sup = false ∧ x.asid = c.s.warpAsid c.W ∧ a ≤ x.addr ∧ x.addr < a + 1024)

/-- R248-R256, R216, R253: COPY, COPYX, COPYL and FILLZ whose checks pass make their operation, whose destination granules
are EMPTY from issue; a barrier takes the copy's tag. -/
def Obligations.CopyInstructions : Prop :=
  (∀ e ∈ [((.copy : E2 → Instr), 0), (.copyx, 1), (.copyl, 2)], ∀ (f : E2) (s : State) (c : Ctx),
    EReady s c f.d (e1 f.a) → c.copyCauses e.2 (c.sreg f.a).toNat = [] →
    (c.s.cluster (coreCluster c.W.core)).copyQ.length < 32 →
    let d := copyDesc (descAt c f.a)
    let t := c.copyTensor (descAt c f.a)
    issues (e.1 f) s c (.copy d t) f.d fun c' =>
      queued c c' (·.copyQ) ∧ (d.tb = none → ∀ k, (c'.s.core k).csm = (c.s.core k).csm) ∧
      (∀ r, d.tb = some r → tagged c c' (c.csmAt r) d.swz) ∧
      (d.dir ≠ 1 → rangeEmpty c c' d.csmRef (copyExtent d t)) ∧
      (d.dir = 1 → ∀ k, (c'.s.core k).csmEmpty = (c.s.core k).csmEmpty)) ∧
  ∀ (f : E4) (s : State) (c : Ctx), EReady s c f.d (e1 f.a ++ e1 f.b ++ e1 f.c) →
    let ref := (c.sreg f.a).toNat
    let n := (c.sreg f.b).toNat
    let tb := if c.sreg f.c = 0xFFFFFFFF then none else some (c.sreg f.c).toNat
    ref % 16 = 0 → n % 16 = 0 → 16 ≤ n → n ≤ 262144 → (c.csmPlace ref n).isSome = true →
    (∀ r, tb = some r → r % 16 = 0 ∧ (c.csmPlace r 16).isSome = true ∧ tbBad (c.s.granule (c.csmAt r).1 (c.csmAt r).2) = false) →
    (c.s.cluster (coreCluster c.W.core)).copyQ.length < 32 →
    issues (.fillz f) s c (.fillz ref n tb) f.d fun c' =>
      queued c c' (·.copyQ) ∧ rangeEmpty c c' ref n ∧ ∀ k, (c'.s.core k).csm = (c.s.core k).csm

/-- R271, R279-R289, R264, R268: the matrix-engine instructions whose checks pass enter the reservation table, claim their
slots and hand out a future. -/
def Obligations.MatrixInstructions : Prop :=
  (∀ (f : E4) (s : State) (c : Ctx), MReady s c f.d (e2 f.a ++ e1 f.b ++ e1 f.c) →
    let h := (c.sPair f.a).toNat
    let p := packed c f.c
    let g := c.gang.filterMap id
    c.mmaCauses (c.sreg f.a).toNat (h / 2 ^ 32) (packed c f.b) p = [] →
    (g = [] ∨ (c.s.cluster (coreCluster c.W.core)).latches = []) →
    let x := if packG p then c.handle h else none
    let h' := match x with | some (t, i) => t.id + i * 2 ^ 20 | none => h
    let m : MmaOps := { aLo := h' % 2 ^ 32, aHi := h' / 2 ^ 32, bref := packed c f.b, packed := p, gang := g }
    matIssues (.mma f) s c (.mma m (x.map (·.1))) f.d [packSlot p] fun c' =>
      (c'.s.cluster (coreCluster c.W.core)).latches =
        if g = [] then (c.s.cluster (coreCluster c.W.core)).latches else [{ members := g, ops := [(c.w, c.s.fresh)] }]) ∧
  (∀ (f : EDC) (s : State) (c : Ctx), MReady s c f.d (e1 f.c) →
    let p := packed c f.c
    let slots := (List.range (bits p 13 8 + 1)).map (bits p 5 0 + ·)
    p < 2 ^ 14 → bits p 7 6 = 0 → bits p 5 0 + bits p 13 8 + 1 ≤ 64 → fmtBad c.sp.fmt = false → owned c slots →
    matIssues (.mmaz f) s c (.mmaz (bits p 5 0) (bits p 13 8 + 1)) f.d slots fun _ => True) ∧
  (∀ (f : EDAC) (s : State) (c : Ctx), MReady s c f.d (e1 f.a ++ e1 f.c) →
    let p := packed c f.c
    packed c f.a < 2 ^ 24 → p < 2 ^ 13 → bits p 7 6 = 0 → bits p 11 8 ≤ 8 → owned c [bits p 5 0] →
    matIssues (.topkr f) s c (.topkr (packed c f.a) (bits p 5 0) (bits p 11 8) (bits p 12 12)) f.d [bits p 5 0] fun _ => True) ∧
  (∀ (f : E4) (s : State) (c : Ctx), MReady s c f.d (e1 f.a ++ e1 f.b ++ e1 f.c) →
    let ref := packed c f.a
    let p := packed c f.c
    let len := accrdLen c.sp.fmt p
    ref % 16 = 0 → p < 2 ^ 18 → bits p 15 13 = 0 → (c.csmPlace ref len).isSome = true → owned c [bits p 5 0] →
    (bits p 7 7 = 1 → packSwz p = 0) →
    (bits p 7 7 = 0 → outBad c.sp.fmt = false ∧ (packSwz p ≠ 0 → ref % 1024 = 0 ∧ len % 1024 = 0)) →
    matIssues (.accrd f) s c (.accrd ref (c.sreg f.b) p) f.d [bits p 5 0] fun _ => True) ∧
  (∀ (f : EDAC) (s : State) (c : Ctx), MReady s c f.d (e2 f.a ++ e1 f.c) →
    let va := (c.sPair f.a).toNat
    let p := packed c f.c
    let open_ := fun (write : Bool) => va + slotImageLen ≤ physBase ∨
      c.sp.sup = true ∧ physInside va slotImageLen = true ∧ c.physCauses (va - physBase) slotImageLen write = []
    va % 256 = 0 → p < 64 → owned c [p] →
    (open_ true → matIssues (.accst f) s c (.accst va p) f.d [p] (fun _ => True)) ∧
    (open_ false → matIssues (.accld f) s c (.accld va p) f.d [p] fun _ => True)) ∧
  ∀ (f : E4) (s : State) (c : Ctx), MReady s c f.d (e2 f.a ++ e1 f.b ++ e1 f.c) →
    let va := (c.sPair f.a).toNat
    let p := packed c f.b
    let n := bits p 15 8 + 1
    let dl := packed c f.c
    p < 2 ^ 16 → bits p 7 0 + n ≤ 256 → va + 32768 * n ≤ physBase → va % 256 = 0 →
    (dl ≠ 0 → (c.s.region (coreRegion c.W.core)).dfq.length + n ≤ 256) →
    matIssues (.osld f) s c (.osld va (bits p 7 0) n dl) f.d [] fun c' =>
      fillsQueued c c' (if dl = 0 then [] else List.range n) dl

/-- R323-R329: the tile-cache instructions whose operands name valid tiles enter their cluster's queue with the tensor
captured. -/
def Obligations.TileInstructions : Prop :=
  (∀ (f : E2) (s : State) (c : Ctx) (t : Tensor) (i : Nat), EReady s c f.d (e2 f.a) →
    c.handle (c.sPair f.a).toNat = some (t, i) →
    issues (.tlook f) s c (.tlook t i) f.d fun c' => queued c c' (·.tileQ) ∧ sameCsm c.s c'.s) ∧
  (∀ (f : E3) (s : State) (c : Ctx) (t : Tensor) (i : Nat), EReady s c f.d (e2 f.a ++ e1 f.b) →
    c.handle (c.sPair f.a).toNat = some (t, i) → let b := packed c f.b
    (b < 2 ^ 24 → b < 2 ^ (2 * t.rank) →
      issues (.tpref f) s c (.tpref t (neighbours t i b)) f.d fun c' => queued c c' (·.tileQ) ∧ sameCsm c.s c'.s) ∧
    ((b = 0 → i = 0 ∧ t.id ≠ 0) →
      issues (.twb f) s c (.twb t i b) f.d fun c' => queued c c' (·.tileQ) ∧ sameCsm c.s c'.s)) ∧
  (∀ (f : E4) (s : State) (c : Ctx) (t : Tensor) (i : Nat), EReady s c f.d (e2 f.a ++ e1 f.b ++ e1 f.c) →
    c.handle (c.sPair f.a).toNat = some (t, i) →
    let b := packed c f.b
    let p := packed c f.c
    let h := bits p 3 0
    let dims := bits p 19 8
    let n := (List.range b).filter fun k => i + k < t.tiles
    (b % 128 = 0 → bits p 7 4 = 0 → bits p 31 20 = 0 → h ≤ 4 → dims < 2 ^ t.rank → t.format ≠ 5 →
      (∀ k x, t.text[k]? = some x → pteBit dims k = true → h ≤ x) →
      (t.swizzle ≠ 0 → b % 1024 = 0 ∧ haloExtent t h dims % 1024 = 0) → (c.csmPlace b (haloExtent t h dims)).isSome = true →
      issues (.thalo f) s c (.thalo t i b h dims) f.d fun c' =>
        queued c c' (·.tileQ) ∧ rangeEmpty c c' b (haloExtent t h dims)) ∧
    (0 < b → b ≤ 64 → 0 < p → p < 2 ^ 31 → (c.s.region (coreRegion c.W.core)).dfq.length + n.length ≤ 256 →
      issues (.tdead f) s c (.tdead t i b p) f.d fun c' => queued c c' (·.tileQ) ∧ fillsQueued c c' n p)) ∧
  (∀ (f : EDAC) (s : State) (c : Ctx) (t : Tensor), EReady s c f.d (e1 f.a ++ e1 f.c) → let a := packed c f.a
    a ≠ 0 → a < 2 ^ 20 → c.tensor a = some t → packed c f.c < 2 →
    issues (.tinv f) s c (.tinv t (packed c f.c == 1)) f.d fun c' => queued c c' (·.tileQ) ∧ sameCsm c.s c'.s) ∧
  ∀ (f : E4) (s : State) (c : Ctx) (t : Tensor) (v : Vf), EReady s c f.d (e1 f.a ++ e1 f.b ++ e1 f.c) →
    let a := packed c f.a
    let b := packed c f.b
    let r := packed c f.c
    a ≠ 0 → a < 2 ^ 20 → b ≠ 0 → b < 2 ^ 20 → c.tensor a = some t → c.vf = some v →
    v.badId b = false →
    (r ≠ 0xFFFFFFFF → c.refCauses r 96 16 = [] → viewTarget c.s (c.s.warpPart c.W) v b = true →
      specFits t (c.viewSpec r) = true →
      issues (.tview f) s c (.tview t b (some (c.viewSpec r))) f.d fun c' => queued c c' (·.tileQ) ∧ sameCsm c.s c'.s) ∧
    (r = 0xFFFFFFFF → viewTarget c.s (c.s.warpPart c.W) v b = true →
      issues (.tview f) s c (.tview t b none) f.d fun c' => queued c c' (·.tileQ) ∧ sameCsm c.s c'.s)

/-- R341, R342, R377, R389-R392: MCAST to one block, TRACEX, WQPUSH, WQPOP and WQWAIT. -/
def Obligations.MulticastTraceAndQueues : Prop :=
  (∀ (f : E4) (s : State) (c : Ctx) (t : Tensor) (i : Nat) (B : Block), EReady s c f.d (e2 f.a ++ e1 f.b ++ e1 f.c) →
    c.handle (c.sPair f.a).toNat = some (t, i) → c.mcastBlocks (c.sreg f.b) = [some B] →
    let v := packed c f.c
    let n := bits v 31 28 + 1
    let tb := (B.core, B.base + 16 * bits v 24 11)
    let dst := (B.core, B.base + 128 * bits v 10 0)
    i + n ≤ t.tiles → bits v 27 26 = 0 → 128 * bits v 10 0 + n * t.tileStride ≤ B.size →
    (bits v 25 25 = 0 → 16 * bits v 24 11 + 16 ≤ B.size ∧ tbBad (c.s.granule tb.1 tb.2) = false) →
    issues (.mcast f) s c (.mcast t i n [dst] (if bits v 25 25 = 1 then none else some [tb])) f.d fun c' =>
      queued c c' (·.tileQ) ∧
      (∀ g, dst.2 / 16 ≤ g → g < dst.2 / 16 + n * t.tileStride / 16 → c'.s.csmFull B.core g = false) ∧
      (bits v 25 25 = 0 → tagged c c' tb 0) ∧ (bits v 25 25 = 1 → ∀ k, (c'.s.core k).csm = (c.s.core k).csm)) ∧
  (∀ (f : E4) (s : State) (c : Ctx), EReady s c f.d (e2 f.a ++ e1 f.b ++ e1 f.c) → let k := packed c f.c
    (3 ≤ k → k < 6 → issues (.tracex f) s c (.tracex k none 0 0) f.d fun c' => sameCsm c.s c'.s) ∧
    ∀ t i, k < 3 → packed c f.b ≠ 0 → packed c f.b < 2 ^ 24 → c.handle (c.sPair f.a).toNat = some (t, i) →
      issues (.tracex f) s c (.tracex k (some t) i (packed c f.b)) f.d fun c' => sameCsm c.s c'.s) ∧
  (∀ (f : E3) (s : State) (c : Ctx) (q : WorkQ), c.feature 1 = true → EReady s c f.d (e1 f.a ++ e1 f.b) →
    packed c f.a < 64 → c.wqAt f.a = some q → c.refCauses (packed c f.b) 64 16 = [] →
    issues (.wqpush f) s c (.wqpush (packed c f.a) (packed c f.b)) f.d (fun c' => sameCsm c.s c'.s) ∧
    issues (.wqpop f) s c (.wqpop (packed c f.a) (packed c f.b)) f.d fun c' =>
      rangeEmpty c c' (packed c f.b) 64 ∧ (∀ k, (c'.s.core k).csm = (c.s.core k).csm)) ∧
  ∀ (f : E2) (s : State) (c : Ctx) (q : WorkQ), c.feature 1 = true →
    UReady s c 7 false false (e1 f.a) (group false f.d 1 true) → packed c f.a < 64 → c.wqAt f.a = some q →
    (q.head ≠ q.tail ∧ q.head ≤ q.tail ∨ q.closed = true → completes (.wqwait f) s true fun c' =>
      c.sEffect c' 1 [f.d] fun _ => BitVec.ofNat 32 (min (q.tail - q.head) 65535 + if q.closed = true then 2 ^ 31 else 0)) ∧
    (q.head = q.tail → q.closed = false → ∃ c' : Ctx, exec (.wqwait f) s = .next ((c'.finish true).waitSuspend c.W.block) ∧
      c'.w = c.w ∧ c'.W = c.W ∧ c'.sp = { c.sp with wait := .wqwait (packed c f.a) (c.bank f.d, f.d.toNat) } ∧
      c'.s = c.s.setWq (c.s.warpPart c.W) (packed c f.a) { q with sleepers := q.sleepers ++ [(c.w, c.sp.id)] })

/-- R202, R357, R362: JOIN arrives at the join point; the matrix-engine instructions, LAUNCH, REPRINT and JOIN recall a
fragment first; without their feature the queue instructions and REPRINT are illegal (R384, R389). -/
def Obligations.JoinRecallAndFeatures : Prop :=
  (∀ (f : E2) (s : State) (c : Ctx) (B : Block), UReady s c 7 false false (e1 f.a) (group false f.d 1 true) →
    c.sp.home = .wcore → c.settled = true → tfind c.s.blocks c.W.block = some B →
    ∃ c' : Ctx, exec (.join f) s = .next ((c'.finish true).joinCheck c.W.block) ∧ c'.w = c.w ∧
      c'.W = (releasedCtx c).W ∧ c'.sp = { c.sp with wait := .joinPoint f.d.toNat } ∧
      c'.s = { (releaseOf c.s c.w c.W).1 with blocks := c'.s.blocks } ∧
      ∀ b, tfind c'.s.blocks b = if b = c.W.block then some { B with
          joinMask := B.joinMask ||| c.sreg f.a, joinArr := tset B.joinArr c.w (tget 0 B.joinArr c.w ||| c.sp.mask) }
        else tfind c.s.blocks b) ∧
  (∀ (s : State) (c : Ctx) (q : Slot), Issues s c → c.sp.home = .ncore q →
    (∀ f : E4, exec (.mma f) s = .next (recalled c q) ∧ exec (.accrd f) s = .next (recalled c q) ∧
      exec (.osld f) s = .next (recalled c q)) ∧
    (∀ f : EDAC, exec (.topkr f) s = .next (recalled c q) ∧ exec (.accst f) s = .next (recalled c q) ∧
      exec (.accld f) s = .next (recalled c q)) ∧
    (∀ f : EDC, exec (.mmaz f) s = .next (recalled c q)) ∧ (∀ f : E2, exec (.join f) s = .next (recalled c q)) ∧
    ∀ f : E3, exec (.launch f) s = .next (recalled c q) ∧
      (c.feature 0 = true → exec (.reprint f) s = .next (recalled c q))) ∧
  ∀ (s : State) (c : Ctx), Issues s c →
    (c.feature 1 = false → ∀ (f : E3) (g : E2), exec (.wqpush f) s = .next (c.raise 0x01 0) ∧
      exec (.wqpop f) s = .next (c.raise 0x01 0) ∧ exec (.wqwait g) s = .next (c.raise 0x01 0)) ∧
    (c.feature 0 = false → ∀ f : E3, exec (.reprint f) s = .next (c.raise 0x01 0))

/-- R116-R119, R72, R121, R155, R225, R278: what happens in a core beside the issue of instructions. -/
def Obligations.CoreEvents : Prop :=
  (∀ (k n : Nat) (s : State) (e : PipeE), (s.core k).pipe[n]? = some e → e.dispatched = false →
    (∀ y ∈ (s.core k).pipe.take n, y.warp = e.warp →
      (∀ r ∈ e.srcs, r ∉ y.dst) ∧ (y.split = e.split → y.dispatched = true)) →
    (∀ i x, i < n → (s.core k).pipe[i]? = some x → x.dispatched = false → ∃ y ∈ (s.core k).pipe.take i, y.warp = x.warp ∧
      ((∃ r ∈ x.srcs, r ∈ y.dst) ∨ y.split = x.split ∧ y.dispatched = false)) →
    let now := if e.dst = [] then (s.core k).pipe.eraseIdx n else (s.core k).pipe.set n { e with dispatched := true }
    exec (.collectorDispatch k n) s = .next (s.setCore k { s.core k with pipe := now })) ∧
  (∀ (k n : Nat) (s : State) (e : PipeE), (s.core k).pipe[n]? = some e → e.dispatched = true →
    let now := (s.core k).pipe.eraseIdx n
    exec (.resultWriteback k n) s = .next (s.setCore k { s.core k with pipe := now })) ∧
  (∀ (w sp word set : Nat) (s s1 : State) (c : Ctx) (bs : List Byte), splitCtx s w sp = some c →
    c.sp.cwant = some (word, set) → c.W.shr = none → c.readImage .read (word / 64 * 64) 64 = .ok s1 bs →
    ∃ t x rest, exec (.constantFill w sp) s = .next t ∧ (t.core c.W.core).ccache = x :: rest ∧
      x.addr = word / 64 * 64 ∧ x.words = wordsOf bs ∧ x.set = set ∧ x.sup = c.sp.sup ∧ x.asid = s.warpAsid c.W ∧
      ((tfind t.warps w).bind fun W => W.split sp) = some { c.sp with cwant := none }) ∧
  (∀ (n : Nat) (s : State) (c : Ctx), Issues s c → fetched s = .need n → c.W.shr = none →
    let a := c.codeBase + c.sp.pc.toNat + 4 * (n - 1)
    let line := a / 64 * 64
    let hit := (s.core c.W.core).icache.find? fun x =>
      x.sup = c.sp.sup && (x.sup || x.asid = s.warpAsid c.W) && x.addr = line
    (∀ x, hit = some x → ∃ t, exec (.instructionFetch n) s = .next t ∧ buffered c t line x.words) ∧
    (hit = none → c.sp.sup = true → paInside line 64 = true → let ws := wordsOf (Memory.readN s.mem line 64)
      ∃ t x rest, exec (.instructionFetch n) s = .next t ∧ buffered c t line ws ∧ (t.core c.W.core).icache = x :: rest ∧
        x.addr = line ∧ x.words = ws ∧ x.sup = true)) ∧
  (∀ (w : Nat) (s : State) (W : Warp) (X : Split), tfind s.warps w = some W → W.shr = none → W.halted = false →
    oldest (W.locals.filter Split.atJoin) = some X → W.split X.id = some X →
    (∀ Y ∈ W.splits, ownWait Y.wait = true ∧ Y.sup = false) → canTrap { s := s, w := w, W := W, sp := X } →
    ∃ t W' Y, exec (.rejoinDeadlockDetect w) s = .next t ∧ tfind t.warps w = some W' ∧ W'.split X.id = some Y ∧
      Y.pc = W.sc.csr.trapv &&& 0xFFFFFFFC ∧ Y.wait = .none ∧ Y.mask = X.mask ∧ Y.stack = X.stack ∧
      W'.sc.csr.trapc = BitVec.ofNat 32 (0x0A + X.id % 4 * 256 + 2048) ∧ W'.sc.csr.trappc = X.pc &&& 0xFFFFFFFC ∧
      W'.v = W.v ∧ W'.sc.s = W.sc.s ∧
      ∀ i, i < 4 → W'.sc.csr.trapaux.getLsbD i = W.locals.any fun Y => Y.atJoin && Y.id == i) ∧
  ∀ (w : Nat) (s : State) (W : Warp) (X : Split) (z : DefCause), tfind s.warps w = some W → W.receiver z = some X →
    let c : Ctx := { s := s, w := w, W := W, sp := X }
    let aux := z.aux.getD (2 ^ 31 + bits z.pc.toNat 23 2 * 2 ^ 8 + z.reason)
    atEase c →
    (W.defQ = [z] → let c' : Ctx := { c with W := { W with defQ := [] } }
      exec (.deferredCauseRaise w) s = .next (userEntry c' z.cause X.pc z.addr aux)) ∧
    (W.engQ = [z] → let c' : Ctx := { c with W := { W with engQ := [] } }
      exec (.deferredEngineCause w) s = .next (userEntry c' z.cause X.pc z.addr aux))

/-- R190, R193-R199, R203, R204, R206, R209, R211: the messages between a warp and its fragments. -/
def Obligations.FragmentMessages : Prop :=
  ∀ (w sp : Nat) (s : State) (c : Ctx) (f : Slot), fragAt s w sp c f → c.W.shr = none →
    (f.stage = .exporting → f.older = 0 →
      (staysOn c c.sp → exec (.exportMsg w sp) s = .next (slotPut c { f with stage := .running })) ∧
      ∀ e, c.sp.link = some e → c.sp.stack = [] → c.sp.sup = false → c.sp.wait = .none → c.sp.service = false →
        c.sp.mask ≠ 0 → (∀ Y ∈ c.W.splits, ∀ E, stackEntry Y.stack e = some E → E.j = c.sp.pc ∧ E.joins ≠ 0) →
        (∃ Y ∈ c.W.splits, Y.id ≠ sp ∧ (stackEntry Y.stack e).isSome = true) →
        exec (.exportMsg w sp) s = .next (slotPut c { f with stage := .rejoining })) ∧
    (∀ r wait, tfind f.pulls r = some wait → f.pending.getLsbD r = true →
      (c.W.vstate r = .full → let x : Xfer := { pushed := false, vals := c.W.vlanes r }
        ∃ f', exec (.pullreq w sp r) s = .next (slotPut c f') ∧
          f' = { f with pulls := tdel f.pulls r, pending := f'.pending, xfers := tset f.xfers r x } ∧
          ∀ i, i < 64 → f'.pending.getLsbD i = (f.pending.getLsbD i && i != r)) ∧
      (c.W.vstate r ≠ .full → wait = false →
        exec (.pullreq w sp r) s = .next (slotPut c { f with pulls := tdel f.pulls r, refused := some r }))) ∧
    (∀ r x, tfind f.xfers r = some x → r < 63 → f.present.getLsbD r = false →
      ∃ f', exec (if x.pushed = true then .overpush w sp r else .pulldata w sp r) s = .next (slotPut c f') ∧
        f' = { f with xfers := tdel f.xfers r, present := f'.present, v := f'.v } ∧
        (∀ i, i < 64 → f'.present.getLsbD i = (f.present.getLsbD i || i == r)) ∧
        (∀ q, q ≠ r → tget [] f'.v q = tget [] f.v q) ∧
        ∀ l, l < 32 → laneOf (tget [] f'.v r) l = if f.lanes.getLsbD l = true then laneOf x.vals l else 0) ∧
    (f.quiet = true → f.returning = true →
      (∀ r, r < 63 → f.dirty.getLsbD r = true → c.W.vstate r = .full →
        ∃ t W' f', exec (.backpush w sp r) s = .next t ∧ tfind t.warps w = some W' ∧
          ((W'.split sp).bind (·.slot?)) = some f' ∧ f'.dirty.getLsbD r = false ∧ W'.vstate r = .full ∧ W'.sc = c.W.sc ∧
          (∀ l, l < 32 → laneOf (W'.vlanes r) l =
            if f.lanes.getLsbD l = true then laneOf (tget [] f.v r) l else laneOf (c.W.vlanes r) l) ∧
          ∀ q, q ≠ r → W'.vlanes q = c.W.vlanes q ∧ W'.vstate q = c.W.vstate q) ∧
      ∃ t W' f', exec (.backpush w sp 64) s = .next t ∧ tfind t.warps w = some W' ∧
        ((W'.split sp).bind (·.slot?)) = some f' ∧ f' = { f with pDirty := 0 } ∧
        ∀ n l, n < 7 → l < 32 → (tget 0 W'.p n).getLsbD l =
          if f.pDirty.getLsbD n = true ∧ f.lanes.getLsbD l = true then (tget 0 f.p n).getLsbD l else (tget 0 c.W.p n).getLsbD l) ∧
    (∀ rs, f.sreq = some rs → c.W.swrites = [] → (∀ e ∈ rs, c.W.sc.answers e.1 e.2 = true) →
      exec (.sread w sp) s = .next (slotPut c { f with sreq := none, snap := some c.W.sc })) ∧
    (∀ cl m, f.barReq = some (cl, m) → f.queue = [] → writesLanded s w c.W →
      let marks := c.W.marks cl ||| (m &&& ~~~c.W.exited)
      let W := { c.W with barArr := if cl = true then c.W.barArr else marks, cbarArr := if cl = true then marks else c.W.cbarArr }
      let d : Ctx := { c with W := W }
      exec (.bararr w sp) s = .next ((slotPut d { f with barReq := none }).barCheck c.W.block cl)) ∧
    (∀ ph, c.sp.wait = .bar ph → s.barPhase c.W.block false ≠ ph → staysOn c { c.sp with pc := c.sp.pc + 4 } →
      exec (.barrierCompletionMessage w sp) s = .next (putBack c c.W.sc { c.sp with wait := .none, pc := c.sp.pc + 4 })) ∧
    (∀ cl ph rest, c.sp.wait = .barRest cl false ph rest → s.barPhase c.W.block cl ≠ ph → f.barReq = none →
      staysOn c { c.sp with pc := c.sp.pc + 4 } → exec (.barrierCompletionMessage w sp) s =
        .next (putBack c c.W.sc { c.sp with wait := .none, pc := c.sp.pc + 4,
                                            home := .ncore { f with barReq := some (cl, rest) } })) ∧
    (f.stage = .running → c.sp.wait ≠ .service → f.barReq = none → (tfind s.blocks c.W.block).bind (·.stop) ≠ none →
      exec (.fragmentRecall w sp) s = .next (slotPut c
        { f with stage := .recalling, sreq := none, snap := none, pulls := [], refused := none })) ∧
    (c.handedBack f = true →
      (∀ e o E k, f.stage = .rejoining → c.sp.link = some e → c.W.entry e = some (o, E) → o ≠ sp → E.joins = k + 2 →
        ∃ t W', exec (.joindec w sp) s = .next t ∧ tfind t.warps w = some W' ∧ W'.split sp = none ∧
          f.slot ∉ (t.core f.ncore).nslots ∧
          W'.entry e = some (o, { E with joins := k + 1, arrived := E.arrived ||| (c.sp.mask &&& ~~~c.W.exited) })) ∧
      (f.stage = .recalling → c.sp.wait = .none → c.sp.stack = [] → c.sp.mask ≠ 0 → c.sp.service = false →
        (c.sp.link = none ∨ ∃ e o E, c.sp.link = some e ∧ c.W.entry e = some (o, E) ∧ o ≠ sp ∧ 2 ≤ E.joins ∧ c.sp.pc ≠ E.j) →
        ∃ t W' Y, exec (.joindec w sp) s = .next t ∧ tfind t.warps w = some W' ∧ W'.split sp = some Y ∧
          Y = { c.sp with home := .wcore, age := c.W.nextAge } ∧ f.slot ∉ (t.core f.ncore).nslots)) ∧
    (∀ code addr aux, f.stage = .stopped code addr aux false → c.W.sc.csr.trapv &&& 0xFFFFFFFC ≠ 0 →
      c.W.sc.csr.trapc.getLsbD 11 = false → f.barReq = none → writesLanded s w c.W →
      exec (.cause w sp) s = .next (slotPut c { f with stage := .stopped code addr aux true })) ∧
    (∀ code addr aux, f.stage = .stopped code addr aux true → c.W.firstCause = some sp → c.sp.link = none →
      c.sp.wait = .none → f.quiet = true → f.dirty = 0 → f.pDirty = 0 → c.W.swrites = [] → c.W.halted = false →
      c.sp.sup = false → c.W.sc.csr.trapv &&& 0xFFFFFFFC ≠ 0 → c.W.sc.csr.trapc.getLsbD 11 = false →
      (c.W.sc.csr.trapv &&& 0xFFFFFFFC).toNat < c.image.codeLen → s.deliverNow w c.W = true →
      (∀ a ∈ s.accs, a.2.warp = w → a.2.frag = true → a.2.split ≠ sp) → (∀ e ∈ s.sfus, e.2.warp ≠ w) →
      ∃ t W' Y, exec (.fragmentCauseDelivery w) s = .next t ∧ tfind t.warps w = some W' ∧ W'.split sp = some Y ∧
        Y.isLocal = true ∧ Y.mask = c.sp.mask ∧ Y.pc = c.W.sc.csr.trapv &&& 0xFFFFFFFC ∧
        W'.sc.csr.trapc = BitVec.ofNat 32 (code + sp % 4 * 256 + 1024 + 2048) ∧
        W'.sc.csr.trappc = c.sp.pc &&& 0xFFFFFFFC ∧ W'.sc.csr.trapaux = BitVec.ofNat 32 aux)  ∧
    ∀ r v st rest, r < 63 → c.W.swrites = .reg r v st :: rest → tget .full c.W.sc.st r = .full →
      ∃ t W', exec (.swrite w) s = .next t ∧ tfind t.warps w = some W' ∧ W'.swrites = rest ∧ tget 0 W'.sc.s r = v ∧
        tget .full W'.sc.st r = st ∧ W'.v = c.W.v ∧ ∀ q, q ≠ r → tget 0 W'.sc.s q = tget 0 c.W.sc.s q

/-- R170, R253, R257, R272, R274, R294, R296, R322, R326, R330, R332, R342, R390-R392, R264, R286: the progress and the
completion of engine operations; the last clause says what a completion does. -/
def Obligations.EngineEvents : Prop :=
  (∀ (n : Nat) (s : State) (o : EngOp), tfind s.ops n = some o →
    let ci := coreCluster o.core
    let cl := s.cluster ci
    let live := o.status = none ∧ o.cancelled = false ∧ o.faulted = false
    (∀ u ref len core a, live → o.kind = .fillz ref len none → u < ceilDiv len 128 → u ∉ o.unitsDone → len % 16 = 0 → a % 16 = 0 →
      s.csmOf o.block ref len = some (core, a) →
      ∃ t, exec (.copyUnitDelivered n u) s = .next t ∧
        tfind t.ops n = some { o with granted := true, unitsDone := u :: o.unitsDone } ∧
        ∀ i, let here := a + 128 * u ≤ i ∧ i < a + min len (128 * u + 128)
          (Memory.read (t.core core).csm i = if here then 0 else Memory.read (s.core core).csm i) ∧
          (here → t.csmFull core (i / 16) = true)) ∧
    (∀ x, o.status = none → o.kind.side = some x → (∀ u, u < x.units → u ∈ o.unitsDone) →
      exec (.copyOpComplete n) s = .next ((s.presentCopy o).finishOp n 0 0 o.unitsDone.length)) ∧
    (∀ t first k dests i d u s1 bs p, live → o.granted = true → o.kind = .mcast t first k dests none → dests[i]? = some d →
      u < k * t.tileStride / 128 → let e := i * (k * t.tileStride / 128) + u
      e ∉ o.unitsDone → let per := t.tileStride / 128
      let x := tileOf o.asid t (first + u / per)
      (tfind o.sent u = some bs ∧ s1 = s ∨ tfind o.sent u = none ∧
        ∃ r, s.sector n o x (u % per * 128) (min 128 (x.bytes - u % per * 128)) = .inl r ∧ bs = r.2 ∧
          s1 = r.1.modOp n fun y => { y with sent := tset o.sent u r.2 }) → tfind s1.ops n = some p →
      ∃ t' p', exec (.mcastSectorSend n e) s = .next t' ∧ tfind t'.ops n = some p' ∧ p'.unitsDone = e :: p.unitsDone ∧
        p' = { p with unitsDone := p'.unitsDone, touched := p'.touched, shown := p'.shown } ∧
        ∀ j, j < bs.length → j < 128 → Memory.read (t'.core d.1).csm (d.2 + 128 * u + j) = bs.getD j 0) ∧
    (live → cl.tileQ.find? (fun k => match tfind s.ops k with | some x => !x.granted | none => false) = some n →
      (∀ t i, o.kind = .tlook t i → ∃ t', exec (.tileOpGrant n) s = .next t' ∧
        t' = { s with ops := t'.ops } ∧ tfind t'.ops n = some { o with granted := true }) ∧
      ∀ t d v, o.kind = .tinv t d → t.id = t.root → pteBit t.flags 1 = true → s.opVf o = some v →
        (o.asid, t.id) ∉ (s.part (s.opReq o).part).sweeps →
        ∃ t', exec (.tileOpGrant n) s = .next t' ∧
          (∀ a, Memory.read t'.mem a =
            if a = v.desc t.id + 0x0E then Memory.read s.mem a + 1 else Memory.read s.mem a) ∧
          (o.asid, t.id) ∈ (t'.part (s.opReq o).part).sweeps ∧ tfind t'.ops n = some { o with granted := true }) ∧
    (o.granted = true →
      (∀ t i, o.kind = .tlook t i →
        exec (.tileOpComplete n) s = .next (s.finishOp n 2 (o.status.getD 0) (s.look o (tileOf o.asid t i)))) ∧
      (∀ t i k d, o.kind = .tdead t i k d → live → (∀ r ∈ s.regions, ∀ f ∈ r.2.dfq, f.op ≠ n) →
        exec (.tileOpComplete n) s = .next (s.finishOp n 2 0 o.unitsDone.length)) ∧
      ∀ t d, o.kind = .tinv t d → ∃ t', exec (.tinvSweepDone n) s = .next t' ∧ tfind t'.ops n = none) ∧
    (o.granted = false → o.cancelled = true → o.status = none → ∀ t i, o.kind = .tlook t i →
      exec (.tileOpComplete n) s = .next (s.finishOp n 2 0x20 0)) ∧
    (∀ first k, o.kind = .mmaz first k → live →
      (o.granted = false → o.parked = false → cl.resv = [n] → cl.shadows.length ≤ 2 →
        ∃ t, exec (.reservationGrant n) s = .next t ∧ tfind t.ops n =
          some { o with granted := true, mates := if o.count = 2 then o.mates else [n] }) ∧
      (o.granted = true → s.firstOfSlots cl n o = true → (∀ k ∈ o.mates, k = n) → ∃ t, exec (.matrixOpComplete n) s = .next t ∧
        tfind t.ops n = none ∧ (∀ i, i < k → t.slot ci (first + i) = AccSlot.reset) ∧
        ∀ i, i < first ∨ first + k ≤ i → t.slot ci i = s.slot ci i)) ∧
    (∀ va page k d s1 bs, o.kind = .osld va page k d → live → o.granted = true → o.count < k →
      (∀ r ∈ s.regions, ∀ f ∈ r.2.dfq, f.op = n → f.idx ≠ o.count) →
      State.readFlat n o s (flatParts (va + 32768 * o.count) 32768) [] = .ok s1 bs → tfind s1.ops n = some o →
      ∃ t, exec (.osldPageLoaded n) s = .next t ∧ tfind t.ops n = some { o with count := o.count + 1 } ∧
        tfind (t.cluster ci).pages (page + o.count) = some { valid := true, asid := o.asid } ∧
        Memory.readN (t.cluster ci).osData (32768 * (page + o.count)) bs.length = bs) ∧
    (∀ m t z slot img p, o.kind = .mma m (some t) → live → o.granted = true → s.fetchA n o m (some t) = .wait z →
      tfind z.ops n = some p → p.faulted = true → ((z.cluster ci).shadows.find? fun x => x.1 = n) = some (n, slot, img) →
      ∃ t', exec (.aFetchXlateFault n) s = .next t' ∧ t'.slot ci slot = img ∧
        (∀ x ∈ (t'.cluster ci).shadows, x.1 ≠ n) ∧ (tfind t'.ops n).map (·.granted) = some false) ∧
    let p := (s.opReq o).part
    (∀ qn ref q, o.kind = .wqpush qn ref → s.wq p qn = some q → live → s.locked q.pusher (wqUser n) = false →
      (2 ^ q.log2n ≤ q.tail - q.head → exec (.wqOpComplete n) s = .next (s.finishOp n 3 0x2A 0)) ∧
      ∀ c s1 bs, q.tail - q.head < 2 ^ q.log2n → s.csmOf o.block ref 64 = some c →
        let a := q.ring + 64 * (q.tail % 2 ^ q.log2n)
        s.opWrite n o (flatTile o.asid (a / 4096)) (a % 4096) (s.csmRead c.1 c.2 64) = .ok s1 bs →
        exec (.wqOpComplete n) s = .next (((s1.setWq p qn { q with tail := q.tail + 1, pusher := none }).wake p qn 1).finishOp n 3 0 0)) ∧
    (∀ qn ref q, o.kind = .wqpop qn ref → s.wq p qn = some q → live → s.locked q.popper (wqUser n) = false →
      (q.tail ≤ q.head → exec (.wqOpComplete n) s =
        .next ((s.popLand o ref none).finishOp n 3 (if q.closed = true then 0x2C else 0x2B) 0)) ∧
      ∀ s1 bs, q.head < q.tail → let a := q.ring + 64 * (q.head % 2 ^ q.log2n)
        s.opRead n o (flatTile o.asid (a / 4096)) (a % 4096) 64 = .ok s1 bs →
        exec (.wqOpComplete n) s =
          .next (((s1.setWq p qn { q with head := q.head + 1, popper := none }).popLand o ref (some bs)).finishOp n 3 0 0)) ∧
    (∀ k t i len, o.kind = .tracex k t i len →
      exec (.wqOpComplete n) s = .next ((s.traceX o k t i len).finishOp n 3 0 0))) ∧
  (∀ (r k : Nat) (s : State) (f : DFill) (o : EngOp), (s.region r).dfq[k]? = some f → tfind s.ops f.op = some o → o.status = none →
    (s.fillLate r f = true → ∃ t, exec (.deadlineFillCancel r k) s = .next t ∧ (t.region r).dfq = (s.region r).dfq.eraseIdx k ∧
      tfind t.ops f.op = some { o with status := some 0x21 }) ∧
    ∀ s1, earliest (s.region r).dfq = some f → o.cancelled = false → o.faulted = false → s.mayFill f.op o = true →
      s.fillLate r f = false → let p := s.fillPart f
      1024 * s.fillSectors f ≤ (s.part p).dfTokens →
      State.fillAll f.op o s (o.fillTiles f.idx) = .inl s1 → tfind s1.ops f.op = some o →
      ∃ t, exec (.deadlineFillStart r) s = .next t ∧ (t.region r).dfq = (s1.region r).dfq.filter (· != f) ∧
        (t.part p).dfTokens = (s1.part p).dfTokens - 1024 * s.fillSectors f ∧
        tfind t.ops f.op = some { o with unitsDone := f.idx :: o.unitsDone, granted := o.granted || o.kind.isTile }) ∧
  (∀ (ci k : Nat) (s : State) (l : Latch), (s.cluster ci).latches[k]? = some l → l.ops.length < l.members.length →
    ∃ t, exec (.gangLatchTimeout ci k) s = .next t ∧ (t.cluster ci).latches = (s.cluster ci).latches.eraseIdx k ∧
      ∀ e ∈ l.ops, ∀ o, tfind s.ops e.2 = some o → o.status = none → (tfind t.ops e.2).map (·.status) = some (some 0x11)) ∧
  ∀ (s : State) (n unit st detail : Nat) (o : EngOp), tfind s.ops n = some o →
    let t := s.finishOp n unit st detail
    tfind t.ops n = none ∧ (∀ k, k ≠ n → tfind t.ops k = tfind s.ops k) ∧
    ∀ W r, tfind s.warps o.warp = some W → o.dst = some (false, r) → r < 63 →
      let v := BitVec.ofNat 32 (detail % 2 ^ 20 * 2 ^ 12 + unit * 2 ^ 8 + st)
      (∀ h, .future r n h ∈ W.swrites → ∃ W', tfind t.warps o.warp = some W' ∧ W'.sc = W.sc ∧ W'.v = W.v ∧
        W'.swrites = W.swrites.map fun m => match m with
          | .future x k h => if k = n ∧ x = r then .reg x v .full else .future x k h
          | m => m) ∧
      ((∀ h, .future r n h ∉ W.swrites) → tget .full W.sc.st r = .future → ∃ W', tfind t.warps o.warp = some W' ∧
        tget 0 W'.sc.s r = v ∧ tget .full W'.sc.st r = .full ∧
        (∀ q, q ≠ r → tget 0 W'.sc.s q = tget 0 W.sc.s q ∧ tget .full W'.sc.st q = tget .full W.sc.st q) ∧ W'.v = W.v)

/-- R220, R303, R304, R319, R320: a part of an access at its tile's home slice: an L1 hit, a miss that walks, the leaf that
enters the translation buffer, and the fill after which the lanes are performed. -/
def Obligations.TileAccess : Prop :=
  ∀ (n k : Nat) (s : State) (a : Access) (x : Sub), tfind s.accs n = some a → a.subs[k]? = some x →
    s.subBlocked n a x.tile = false → s.releaseHeld a x.tile = false → (a.frag = true → ∀ y ∈ a.subs, y.st ≠ .xlate) →
    let q := s.accReq a
    let y := flatTile q.asid x.tile
    let h := homeOf s q.part y
    (x.st = .waiting → a.cached = true →
      ∀ xs, l1Lanes s (s.accCluster a) q.asid a.kind.size (a.lanesIn x.tile) = some xs →
      ∃ t, exec (.tileRequest n k) s = .next t ∧ t = { s with accs := t.accs } ∧ tfind t.accs n = some (accWith a k xs .done)) ∧
    (x.st = .waiting → a.cached = false → s.entry h = none → s.walkQueueFull h.region h.slice = false →
      ∃ t, exec (.tileRequest n k) s = .next t ∧ t = { s with accs := t.accs } ∧
        tfind t.accs n = some (accWith a k [] .walking)) ∧
    (∀ lv e w, x.st = .walking → s.walkShare h.region n k = [w] → w.acc = n → w.part = k →
      translate s h.region h.slice q.asid q.root (4096 * x.tile) = .leaf lv e → pteHost e = false →
      s.setFull h (2 * (s.part q.part).tccfg) = false →
      ∃ t tr, exec (.pageWalkComplete n k) s = .next t ∧ tfind t.accs n = some (accWith a k [] .filling) ∧
        ((s.entry h).isSome = true → SameMemory s t) ∧
        tlbFind (t.region h.region).tlb h.slice q.asid (4096 * x.tile) = some tr ∧ tr.level = lv ∧ tr.leaf = BitVec.ofNat 64 e) ∧
    let u := s.endFill h
    x.st = .filling → x.fail = none → (a.frag = true → u.unmapped a = none) → u.farRelease q.part a.kind = false →
    ∀ s1 xs, a.perform q x.tile (u.takeOver q y) = .ok s1 xs → tfind s1.accs n = some a →
      (∀ size signed, a.kind = .load size signed →
        ∃ t, exec (.tileFillComplete n k) s = .next t ∧ tfind t.accs n = some (accWith a k xs .done) ∧ t.host = s1.host ∧
          (∀ j, t.core j = s1.core j) ∧ (a.sup = true → SameMemory s1 t)) ∧
      ∀ size rel, a.kind = .store size rel →
        ∃ t, exec (.tileFillComplete n k) s = .next t ∧ t.mem = s1.mem ∧ t.host = s1.host ∧ t.regions = s1.regions ∧
          (∀ j, t.core j = s1.core j) ∧
          ((∃ j z, j ≠ k ∧ a.subs[j]? = some z ∧ z.st ≠ .done) → tfind t.accs n = some (accWith a k xs .done)) ∧
          ((∀ j z, j ≠ k → a.subs[j]? = some z → z.st = .done ∧ z.fail = none) → tfind t.accs n = none)

/-- R357-R359, R384: LAUNCH and REPRINT make a child in a free slot with a new future, and capture its descriptor. -/
def Obligations.LaunchInstructions : Prop :=
  ∀ (f : E3) (s : State) (c : Ctx) (P : Launch) (s0 : State) (burst reprint : Bool),
    EReady s c f.d (e2 f.a ++ e1 f.b) → c.sp.home = .wcore → c.launchCauses f = [] → c.s.warpLaunch c.W = some P →
    c.s.takeSlot P.vf = some (s0, burst) → (reprint = true → c.feature 0 = true) →
    let l := c.s.fresh + 1
    ∃ c' : Ctx, exec (if reprint = true then .reprint f else .launch f) s = .next ((c'.finish true).captureDesc l) ∧
      goneOn (releasedCtx c) c' 1 ∧ futureWritten c c' f.d ∧ c.sameP c' ∧
      tfind c'.s.ops c.s.fresh = some (opOf c (.child l) f.d) ∧
      tfind c'.s.launches l = some (childOf c P f burst reprint) ∧
      (∀ k, k ≠ l → tfind c'.s.launches k = tfind c.s.launches k) ∧
      (∀ B, tfind c.s.blocks c.W.block = some B → ∃ B', tfind c'.s.blocks c.W.block = some B' ∧
        ∀ i, tfind B'.children i =
          if i = (c.sreg f.b).toNat then some { launch := l, last := 0, busy := true } else tfind B.children i) ∧
      (tfind c'.s.vfs P.vf).map (fun v => v.inuse + v.borrowed) =
        (tfind c.s.vfs P.vf).map fun v => v.inuse + v.borrowed + 1

/-- R350, R351, R354, R359, R379, R380, R383, R385, R387: a launch from its readiness to its end. -/
def Sys2Proof.Claims.LaunchLife : Prop :=
  ∀ (l : Nat) (s : State) (L : Launch), tfind s.launches l = some L →
    let q := feReq s L.part L.vf
    let d := L.desc
    (L.phase = .waiting → s.childCancelled L = false → L.src = none → d.dcWait = 0xFFFF → d.trace = 0 →
      ∃ t, exec (.launchReady l) s = .next t ∧ t = { s with launches := t.launches, blocks := t.blocks, cores := t.cores } ∧
        tfind t.launches l = some { L with phase := if L.reprint = true then .selecting else .running } ∧
        ∀ k K, tfind s.cores k = some K → tfind t.cores k = some
          (if L.reprint = false ∧ s.inPart L.part (coreRegion k) = true then { K with icache := [], ccache := [] } else K)) ∧
    (∀ b p pc u, s.mayRun L = true → s.childCancelled L = false → s.waiting l = [] → L.nextIds = [b] →
      s.poolFor L 1 = some [u] → s.physCluster L.part p.cluster = some pc → s.placesOk L [d.rankOf b] [p] = true →
      s.turnOf l L (placeCores [p]) = true →
      let k := s.fresh + 1
      let core := 4 * pc + p.core
      ∃ t, exec (.blockDispatch l [p]) s = .next t ∧
        (∃ B, tfind t.blocks k = some B ∧ B.launch = l ∧ B.lin = b ∧ B.rank = d.rankOf b ∧ B.core = core ∧ B.base = p.base ∧
          B.size = d.csm ∧ B.resident = true ∧ B.ended = false ∧ B.saved = false ∧ B.children = [] ∧ B.unit = u ∧
          B.warps = (List.range d.warps).map (k + 1 + ·)) ∧
        (∀ i, i < d.warps → ∃ slot, tfind t.warps (k + 1 + i) = some
          { newWarp k i core slot (d.covered i) (((tfind s.vfs L.vf).map (·.princ)).getD 0) (u + d.areaKib + 17 * i) with
            floor := (s.part L.part).owc }) ∧
        tfind t.launches l = some { L with next := max L.next (b + 1), sel := dropIds L.sel [b], ran := L.ran + 1 } ∧
        ∀ a, p.base ≤ a → a < p.base + d.csm →
          Memory.read (t.core core).csm a = 0 ∧ t.csmFull core (a / 16) = true) ∧
    (∀ st, s.epochHeld L.part = false → (L.phase.live = false ∨ s.childCancelled L = false) → s.doneStatus l L = some st →
      L.sheetOn = false → L.sheetBad = false → d.comprec = 0 → d.sigAddr = 0 → L.op = none → L.parent = none →
      (∀ e ∈ s.packets, e.2.launch ≠ some l) →
      ∃ t, exec (.launchComplete l) s = .next t ∧ tfind t.launches l = some { L with phase := .done, status := some st } ∧
        (t.part L.part).lepoch = (s.part L.part).lepoch + 1 ∧
        ∀ a, Memory.read t.mem a = Memory.read s.mem a) ∧
    (∀ s1 h s2 s3 s4 img s5 args s6 copy, L.phase = .selecting → s.epochHeld L.part = false → d.trace = 1 →
      feRead s q d.sheet 256 = .inl (s1, h) → sheetUsable d h = true → shapeGrid h = d.grid →
      feWrite s1 (feReq s1 L.part L.vf) (d.sheet + 4) [1] = some s2 →
      s3 = (s2.modLaunch l fun L => { L with sheetOn := true }).epochAdvance L.part → imageBytes s3 q L = .inl (s4, img) →
      feRead s4 q d.args d.argLen = .inl (s5, args) →
      feRead s5 q (d.sheet + 0x100) (fieldOf h 0x34 4) = .inl (s6, copy) →
      let ep := (s6.part L.part).lepoch.toNat
      let base := d.sheet + 0x100 + ceilDiv (fieldOf h 0x34 4) 256 * 256
      let all := crc32cOf img != fieldOf h 0x30 4 || fieldOf h 0x34 4 != d.argLen || args != copy
      exec (.reprintSelect l) s = .next (reprintRun s6 l L q h args copy img ep) ∧
      ∀ s7 rs s8 r s9 bytes, readRecords q base d.cap d.blocks 0 s6 = .inl (s7, rs) →
        (∀ x ∈ rs, x.accum = false) → selectRecs q L ep all rs s7 = (s8, r) →
        feRead s8 q base (d.blocks * 16 * (d.cap + 1)) = .inl (s9, bytes) →
        let sel := selectGroups d.group r
        let ws := settleWrites d (fieldOf h 0x34 4) args copy bytes ++ epochWrites d ep ((List.range sel.length).zip sel)
        ∀ K, tfind (reprintRun s6 l L q h args copy img ep).launches l = some K → K.phase = .running ∧ K.epoch = ep ∧
          K.sheetBad = !(sheetWrites q s9 ws).2 ∧
          ∃ ids, K.sel = some ids ∧ ∀ i, i ∈ ids ↔ i < r.length ∧ sel.getD i false = true) ∧
    (∀ s1 rs, L.phase = .running → L.reprint = true → L.sel = some [] → L.oldWrites = [] →
      (∀ b ∈ s.launchBlocks l, (tfind s.blocks b).map (·.ended) = some true) →
      readRecords q (d.sheet + d.recOff) d.cap d.blocks 0 s = .inl (s1, rs) →
      exec (.orphanFormation l) s = .next ((s1.modLaunch l fun L => { L with phase := .orphans }).zeroRuns l))

/-- R354, R363-R366, R370, R383, R407: blocks that stop, resume, are preempted and end; the sweep of stamps and the end of a
time slice. -/
def Sys2Proof.Claims.BlockEvents : Prop :=
  (∀ (b : Nat) (s : State) (B : Block) (L : Launch), tfind s.blocks b = some B → tfind s.launches B.launch = some L →
    (∀ why, s.members b = [b] → B.stop ≠ none → B.resident = true → B.saved = false → s.stopReason [b] = some why →
      (∀ w ∈ B.warps, s.warpStopped (why = .waitWord) w = true) → s.pausedPart b = false → s.csmInUse [b] = false → s.blockAreaIn b = true →
      let t := { s with blocks := tmod s.blocks b fun B => { B with stop := some why } }
      (t.keepsOf b).isSome = true → ((t.parkGangs [b]).keepsOf b).isSome = true →
      ∃ t, exec (.blockStopped b) s = .next t ∧
        (∃ K, tfind t.blocks b = some K ∧ K.saved = true ∧ K.resident = false ∧ K.warps = B.warps ∧ K.stop = some why) ∧
        (∀ w ∈ B.warps, ∀ W, tfind s.warps w = some W → (tfind t.warps w).map (·.splits) = some []) ∧
        Memory.num t.mem (s.blockArea B) 4 = L.id % 2 ^ 32 ∧ Memory.num t.mem (s.blockArea B + 4) 4 = B.lin % 2 ^ 32 ∧
        Memory.num t.mem (s.blockArea B + 8) 1 = B.barPhase % 256) ∧
    (∀ p pc, s.members b = [b] → s.mayRun L = true → s.waitsToResume b = true → s.blockAreaIn b = true →
      (∀ e ∈ s.waiting B.launch, B.group = e.2.group ∨ B.stopOrder < e.2.stopOrder) → s.physCluster L.part p.cluster = some pc →
      s.placesOk L [B.rank] [p] = true → s.turnOf B.launch L (placeCores [p]) = true →
      ∃ t K, exec (.blockResume b [p]) s = .next t ∧ tfind t.blocks b = some K ∧ K.saved = false ∧ K.resident = true ∧
        K.core = 4 * pc + p.core ∧ K.base = p.base ∧ K.barPhase = Memory.num s.mem (s.blockArea B + 8) 1 ∧
        K.tEpoch = Memory.num s.mem (s.blockArea B + 0x214) 4) ∧
    (B.preempting = true →
      (∀ w W X, B.warps = [w] → tfind s.warps w = some W → W.preempted = false → (∀ Y ∈ W.splits, Y.home = .wcore) →
        let s1 := { s with blocks := tmod s.blocks b fun B => { B with escalated := true } }
        W.stopped false = false → W.preemptee = some X →
        let c : Ctx := { s := s1, w := w, W := { W with preempted := true }, sp := X }
        atEase c → exec (.preemptSoftDeadline b) s = .next (userEntry c 0x0C X.pc 0 0)) ∧
      (L.phase.live = true → ∃ t, exec (.preemptHardDeadline b) s = .next t ∧
        ((tfind t.launches B.launch).map fun K => (K.status, K.phase)) = some (some 0x28, .ending) ∧
        ∀ k K, tfind t.blocks k = some K → K.launch ≠ B.launch)) ∧
    (B.ended = false → B.resident = true → (∀ w ∈ B.warps, s.warpDone w = true) → (∀ e ∈ s.ops, e.2.keepsBlock b = false) →
      s.leftCause B = none → (tfind s.groups B.group).map (·.blocks) = some [b] → L.desc.trace = 0 →
      ∃ t, exec (.blockEnd b) s = .next t ∧ tfind t.blocks b = none ∧ (∀ w ∈ B.warps, tfind t.warps w = none) ∧
        tfind t.launches B.launch = some { L with ended := L.ended + 1 } ∧ tfind t.groups B.group = none)) ∧
  ∀ (p : Nat) (s : State), let P := s.part p
    (P.sweeping = true → P.registered = [] →
      exec (.stampSweepDone p) s = .next (s.setPart p { P with sweeping := P.heldEpochs != 0, heldEpochs := 0 })) ∧
    ∀ cur, s.sliceNow p = some cur → let nxt := nextInTurn (s.working p) (some cur)
      ∃ t, exec (.timeSliceEnd p) s = .next t ∧ (t.part p).sliceVf = nxt ∧
        t = { s with parts := t.parts, blocks := t.blocks } ∧
        ∀ b B K, tfind s.blocks b = some B → tfind s.launches B.launch = some K → K.part = p → some K.vf ≠ nxt →
          B.resident = true → B.ended = false → B.saved = false → B.stop = none → b ∈ s.members b →
          (tfind t.blocks b).map (·.stop) = some (some .preempt)

/-- R350-R387, R407: launches and blocks from their readiness to their end. -/
def Obligations.LaunchAndBlockEvents : Prop := LaunchLife ∧ BlockEvents


/-- R384, R389, R392, R397-R406: packets that a lane accepts: fences, signals, counters, launches and work queues. -/
def Sys2Proof.Claims.PacketResults : Prop :=
  ∀ (lane : Nat) (s : State) (L : Lane) (v : Vf) (x : Pkt), packetAt s lane L v x →
    let b := s.beginStep
    let made := fun (op : Nat) (used : List (Nat × Nat)) => x.op = op ∧ x.wellMade used = true
    let dc := x.f 0x10 2
    (x.op = 0 → x.wellMade [] = false → exec (.nopPacket lane) s = acked b lane L x 0x2E 0) ∧
    (made 0 [] → exec (.nopPacket lane) s = acked b lane L x 0 0) ∧
    (made 0x01 [(0x10, 2), (0x14, 4)] →
      (dc ≠ 0xFFFF → v.dccount ≤ dc → exec (.fencePacket lane) s = acked b lane L x 0x31 0) ∧
      (dc = 0xFFFF ∨ dc < v.dccount →
        let met := dc = 0xFFFF ∨ (b.dcGet L.vf dc - BitVec.ofNat 32 (x.f 0x14 4)).toNat < 2 ^ 31
        (b.pending L.vf L.queue = false → met → exec (.fencePacket lane) s = acked b lane L x 0 0) ∧
        (b.pending L.vf L.queue = true ∨ ¬met → exec (.fencePacket lane) s = .next (b.parkLane lane)))) ∧
    (made 0x02 [(0x10, 8), (0x18, 8), (0x20, 2)] → (x.f 0x20 2 = 0xFFFF ∨ x.f 0x20 2 < v.dccount) → x.f 0x10 8 % 8 = 0 →
      (x.f 0x10 8 = 0 → exec (.signalPacket lane) s = acked (b.dcInc L.vf (x.f 0x20 2)) lane L x 0 0) ∧
      (unasked b L → x.f 0x10 8 ≠ 0 → let a := x.f 0x10 8
        let bytes := leBytes 8 (x.f 0x18 8)
        let u := ((asking b L).sendTokens v.part v.princ).modFe b.fresh fun o => { o with got := some [] }
        let q := feReq u v.part L.vf
        ((serveWrite u q a bytes).far = none →
          (u.lostPorts v.part ≠ [] → exec (.signalPacket lane) s = acked (u.loseRelease v.part) lane L x cProt 0x54) ∧
          (u.lostPorts v.part = [] → u.unacked v.part ≠ [] → exec (.signalPacket lane) s = .next (u.parkLane lane)) ∧
          ∀ s1 bs, u.lostPorts v.part = [] → u.unacked v.part = [] → serveWrite u q a bytes = .ok s1 bs →
            exec (.signalPacket lane) s = acked (s1.dcInc L.vf (x.f 0x20 2)) lane L x 0 0) ∧
        ∀ f, (serveWrite u q a bytes).far = some f →
          let r := u.sendFar v.part q.princ f fkWrite 0 8 bytes true { kind := 3, ref := b.fresh, sub := feWriteKey a }
          exec (.signalPacket lane) s =
            if r.2 = true then .next ((r.1.feSent b.fresh (feWriteKey a)).parkLane lane) else acked r.1 lane L x cProt 0x54) ∧
      ∀ k o, x.f 0x10 8 ≠ 0 → (b.feOps.find? fun e => e.2.vf = L.vf && e.2.queue = L.queue) = some (k, o) →
        tfind b.feOps k = some o → o.bad = none → o.got ≠ none → feWriteKey (x.f 0x10 8) ∈ o.acked →
        exec (.signalPacket lane) s = acked (b.dcInc L.vf (x.f 0x20 2)) lane L x 0 0) ∧
    (made 0x52 [(0x10, 2), (0x14, 4)] → exec (.dcset lane) s =
      if dc < v.dccount then acked (b.dcSet L.vf dc (BitVec.ofNat 32 (x.f 0x14 4))) lane L x 0 0 else acked b lane L x 0x31 0) ∧
    (∀ reprint op i, (if reprint = true then (op, i) = (0x11, Instr.reprintPacket lane) else (op, i) = (0x10, .launchPacket lane)) →
      made op [(0x10, 8)] → (reprint = true → v.featAgreed.getLsbD 0 = true) → x.f 0x10 8 % 256 = 0 →
      (b.takeSlot L.vf = none → exec i s = acked b lane L x 0x2D 0) ∧
      ∀ s1 burst, b.takeSlot L.vf = some (s1, burst) → let s2 := hostChild s1 v L x burst reprint
        exec i s = .next ((match feRead s2 (feReq s2 v.part L.vf) (x.f 0x10 8) 256 with
          | .inl (s3, bs) => s3.launchCheck s1.fresh bs
          | .inr (st, d) => s2.endStatus s1.fresh st d).feEnd L.vf L.queue |>.pastUnits lane x.len)) ∧
    (made 0x20 [(0x10, 1), (0x40, 960)] → ∀ w, b.vfQueue v (x.f 0x10 1) = some w → let k := x.len - 1
      (w.closed = true → exec (.feed lane) s = acked b lane L x 0x2C 0) ∧
      (w.closed = false → unasked b L → let u := asking b L
        u.locked w.pusher { kind := 3, ref := b.fresh, sub := 0 } = false →
        (w.room < k → exec (.feed lane) s = if x.nowait = true then acked u lane L x 0x2A 0 else .next (u.parkLane lane)) ∧
        ∀ s1, k ≤ w.room → written u (feReq u v.part L.vf) (w.records k (x.bytes.drop 64)) s1 →
          exec (.feed lane) s = acked ((s1.setWq v.part (x.f 0x10 1) { w with tail := w.tail + k, pusher := none }).wake v.part
            (x.f 0x10 1) k) lane L x 0 0)) ∧
    (made 0x51 [(0x10, 3), (0x18, 8)] → let id := x.f 0x10 1
      (x.f 0x12 1 = 0 → v.featAgreed.getLsbD 1 = true → id < 64 → 6 ≤ x.f 0x11 1 → x.f 0x11 1 ≤ 16 → x.f 0x18 8 % 4096 = 0 →
        b.wq v.part id = none →
        let w : WorkQ := { asid := v.asid, ring := x.f 0x18 8, log2n := x.f 0x11 1, head := 0, tail := 0, closed := false, sleepers := [],
                           pusher := none, popper := none }
        exec (.wqcfgConfigure lane) s = acked (b.setWq v.part id w) lane L x 0 0) ∧
      ∀ w, b.vfQueue v id = some w →
        (x.f 0x12 1 = 1 → exec (.wqcfgClose lane) s =
          acked ((b.setWq v.part id { w with closed := true }).wakeAll v.part id) lane L x 0 0) ∧
        (x.f 0x12 1 = 2 → exec (.wqcfgFree lane) s =
          if w.count = 0 ∧ b.asleep id w = false then
            acked (b.setPart v.part { b.part v.part with wqs := tdel (b.part v.part).wqs id }) lane L x 0 0
          else acked b lane L x 0x2E 0))

/-- R32, R305-R307, R312-R314, R339, R381, R400, R442: the packets that copy and move pages and that register tensors. -/
def Obligations.PagePacketResults : Prop :=
  (∀ (lane : Nat) (s : State) (L : Lane) (v : Vf) (x : Pkt), packetAt s lane L v x →
    let b := s.beginStep
    let q := feReq b v.part L.vf
    let made := fun (op : Nat) (used : List (Nat × Nat)) => x.op = op ∧ x.wellMade used = true
    (made 0x30 [(0x10, 24)] → let src := x.f 0x10 8
      let dst := x.f 0x18 8
      let k := x.f 0x20 8
      let out := 2 ^ 57 - 2 ^ 48 < src + k ∨ 2 ^ 57 - 2 ^ 48 < dst + k
      (src % 16 ≠ 0 ∨ dst % 16 ≠ 0 ∨ k % 16 ≠ 0 ∨ k < 16 ∨ 2 ^ 40 < k ∨ out → exec (.copyPacket lane) s = acked b lane L x 0x2E 0) ∧
      ∀ s1 bs s2 t c s3 s4, src % 16 = 0 → dst % 16 = 0 → k % 16 = 0 → 16 ≤ k → k ≤ 2 ^ 40 → ¬out → unasked b L →
        serveRead (asking b L) q src k = .ok s1 bs → s2 = s1.modFe b.fresh (fun o => { o with got := some bs }) →
        serveWrite s2 q dst bs = .ok t c →
        s2.stampRanges b.fresh L.vf q v [(dst / 65536 * 65536, (dst + k + 65535) / 65536 * 65536 - dst / 65536 * 65536)] = (s3, false) →
        written s3 q (feRuns dst bs) s4 → exec (.copyPacket lane) s = acked (s4.openPages v dst k) lane L x 0 0) ∧
    (∀ toHost i, (if toHost = true then i = Instr.migrateToHost lane ∧ x.f 0x1C 4 = 1 else i = .migrateToDevice lane ∧ x.f 0x1C 4 = 0) →
      made 0x40 [(0x10, 16)] → x.f 0x10 8 % 65536 = 0 → 1 ≤ x.f 0x18 4 → x.f 0x18 4 ≤ 2 ^ 20 → (b.part v.part).tuBusy = false → unasked b L →
      ∀ xs, migLeaves b.mem v (x.f 0x18 4) (x.f 0x10 8) = .inl xs →
        let todo := xs.filter fun y => pteHost y.e != toHost
        (∀ y ∈ todo, ∃ r, paRegion (pteFrame y.e) = some r ∧ b.inPart v.part r = true) →
        let u := todo.foldl (fun t y => t.migrateLeaf L.vf v toHost y) (asking b L)
        let rs := todo.map fun y => (y.va, y.size)
        let r := u.stampRanges b.fresh L.vf (feReq u v.part L.vf) v rs
        exec i s = if r.2 = true then .next ((r.1.modFe b.fresh fun o => { o with ranges := some rs }).parkLane lane)
                   else acked r.1 lane L x 0 0) ∧
    (made 0x50 [(0x10, 16)] → let id := x.f 0x10 4
      let known := (b.part v.part).registered
      (x.f 0x14 4 = 0 → id < 2 ^ 20 →
        (id < 32 ∨ v.ttlen ≤ id ∨ (v.asid, id) ∈ known → exec (.tensorRegister lane) s = acked b lane L x 0x2F 0) ∧
        ∀ s1 bs, 32 ≤ id → id < v.ttlen → (v.asid, id) ∉ known → (b.part v.part).tuBusy = false →
          paInside (v.desc id) 256 = true → feRead b q (x.f 0x18 8) 256 = .inl (s1, bs) → let m : Memory := Memory.writeN [] 0 bs
          (tensorOk m = false → exec (.tensorRegister lane) s = acked s1 lane L x 0x2F 0) ∧
          (tensorOk m = true → exec (.tensorRegister lane) s =
            if s1.overlapsOwned v (readTensor m 0 id) = true then acked s1 lane L x 0x30 0
            else acked (s1.registerTensor L.vf v id bs) lane L x 0 0)) ∧
      (x.f 0x14 4 = 1 → 32 ≤ id → id < v.ttlen → id < 2 ^ 20 → (v.asid, id) ∈ known → (b.part v.part).tuBusy = false →
        (∀ o ∈ b.ops, o.2.kind.names id = false) →
        exec (.tensorUnregister lane) s = acked (b.unregisterTensor v id) lane L x 0 0))) ∧
  (∀ (s : State) (n : Nat) (v : Vf) (y : Leaf), let u := s.migrateLeaf n v true y
    Memory.wf u.mem → (∀ r ∈ s.spoiled, ¬(r.1 = n ∧ y.va ≤ r.2 ∧ r.2 < y.va + y.size)) → ∀ i, i < y.size →
      Memory.read u.host (v.mirror.toNat + y.va + i) = Memory.read u.mem (pteFrame y.e + i)) ∧
  (∀ (s : State) (n : Nat) (v : Vf) (id : Nat) (bs : List Byte),
    (v.asid, id) ∈ ((s.registerTensor n v id bs).part v.part).registered) ∧
  ∀ (s : State) (v : Vf) (id : Nat) (t : Tensor), s.tensorOf v.part v id = some t →
    (v.asid, id) ∉ ((s.unregisterTensor v id).part v.part).registered

/-- R394-R396, R401, R402: lanes take and release queues; notifications and parked queues. -/
def Sys2Proof.Claims.QueueEvents : Prop :=
  (∀ (lane : Nat) (s : State),
    (∀ n q v, lane < 32 → tfind s.lanes lane = none → s.nextQueue = some (n, q) → tfind s.vfs n = some v →
      let r := s.ring v q
      r.enable = true → r.err = 0 → r.fault = 0 →
      let L : Lane := { vf := n, queue := q, tail := r.tail, head := r.head, taken := 0, passed := 0, due := false }
      exec (.serveQueue lane) s = .next { s with
        notified := s.notified.erase (n, q), vfs := tset s.vfs n { v with parked := v.parked.filter (· != q) }
        lanes := tset s.lanes lane L }) ∧
    ∀ L v, lane < 32 → tfind s.lanes lane = some L → tfind s.vfs L.vf = some v → s.served L.vf = true →
      (∀ y x, s.laneNext L = some (y, x) → opGroup x.op = none → x.barrier = false →
        exec (.serveQueue lane) s = acked s lane L x 0x2E 0) ∧
      (s.laneNext L = none → (L.vf, L.queue) ∉ s.notified → ∃ t, exec (.serveQueue lane) s = .next t ∧
        tfind t.lanes lane = none ∧ Memory.num t.host (v.vcppa + 0x100 + 32 * L.queue + 0x10) 4 = L.head % 2 ^ 32 ∧
        (L.head ≠ L.tail → (L.vf, L.queue) ∈ t.notified))) ∧
  (∀ (n q : Nat) (s : State) (v : Vf), tfind s.vfs n = some v → q ∈ v.parked →
    ∃ t, exec (.parkedQueueWake n q) s = .next t ∧ (n, q) ∈ t.notified ∧
      tfind t.vfs n = some { v with parked := v.parked.filter (· != q) } ∧
      t = { s with vfs := t.vfs, notified := t.notified }) ∧
  ∀ (n : Nat) (w : Word) (s : State) (v : Vf), s.boundVf n = some v → w.getLsbD 31 = false →
    ∃ t, exec (.queueNotify n w) s = .next t ∧ t = { s with notified := t.notified } ∧
      ∀ m q, (m, q) ∈ t.notified ↔ (m, q) ∈ s.notified ∨ (m = n ∧ q < 16 ∧ w.getLsbD q = true)

/-- R389-R406: what lanes of the front end do with queues and packets. -/
def Obligations.FrontEndEvents : Prop := PacketResults ∧ QueueEvents


/-- R394, R408-R410, R417-R420: negotiation, and the creation, reset and destruction of a VF. -/
def Sys2Proof.Claims.VfCommands : Prop :=
  (∀ (n : Nat) (s : State) (v : Vf), s.boundVf n = some v → s.pkg.stage = 3 →
    let want := s.hostNum (v.vcppa + 0x10) 8
    let offer := s.hostNum (v.vcppa + 0x08) 8
    let v' := { v with qslots := s.hostNum (v.vcppa + 0x20) 2, dccount := s.hostNum (v.vcppa + 0x22) 2 }
    (want &&& offer = want → (∀ e ∈ s.packets, e.2.vf ≠ n) → ∃ t, exec (.featureNegotiation n) s = .next t ∧
      tfind t.vfs n = some { v' with ready := true, featAgreed := BitVec.ofNat 64 want } ∧
      t.hostNum (v.vcppa + 0x18) 8 = want ∧ t.hostNum (v.vcppa + 0x04) 4 % 4 = 1 ∧
      t = { s with vfs := t.vfs, host := t.host }) ∧
    (want &&& offer ≠ want → ∃ t, exec (.featureNegotiation n) s = .next t ∧
      t.hostNum (v.vcppa + 0x04) 4 % 4 = 2 + s.hostNum (v.vcppa + 0x04) 4 % 2 ∧
      tfind t.vfs n = some v' ∧ t = { s with vfs := t.vfs, host := t.host })) ∧
  ∀ (p vf : Nat) (s : State), s.recovery = false → let P := s.part p
    let s1 := s.setPart p { P with vfcmdVf := vf }
    let v := s1.vfRecord p vf
    let told := fun (t : State) (err : Bool) =>
      t.msi = s.msi ++ [{ vf := none, vector := 1 }] ∧ t.part p = { P with vfcmdVf := vf, vfcmdErr := err, vfcmdBusy := false }
    let a := P.pvfbase.toNat + 128 * vf
    (vf < P.pvfcount.toNat → paInside a 128 = true → s1.recordOk p vf = true → (∀ e ∈ s.vfs, e.2.asid ≠ v.asid) →
      s1.reserveOk p v = true → s.vfs.length < 1024 → s1.vfOf p vf = none → ∃ t, exec (.vfCreate p vf) s = .next t ∧
      told t P.vfcmdErr ∧ tfind t.vfs (s.vfNumber p vf) = some v ∧ v.asid = Memory.num s.mem a 4 ∧
      v.ptroot = Memory.num s.mem (a + 8) 8 ∧ t.hostNum v.vcppa 4 = 0x00030000 ∧ t.hostNum (v.vcppa + 4) 4 = 0 ∧
      t.hostNum (v.vcppa + 0x18) 8 = 0) ∧
    (vf < P.pvfcount.toNat → paInside a 128 = true → s1.recordOk p vf = false ∨ s1.reserveOk p v = false →
      ∃ t, exec (.vfCreate p vf) s = .next t ∧ told t true ∧ t.vfs = s.vfs) ∧
    (s1.vfOf p vf = none → ∃ t, exec (.vfFlr p vf) s = .next t ∧ told t true ∧ t.vfs = s.vfs) ∧
    (∀ n w, s1.vfOf p vf = some (n, w) → s1.ownerHandling n = true →
      (∀ i, i = Instr.vfFlr p vf ∨ i = .vfDestroy p vf → exec i s = .next (s1.holdCmd p)) ∧ (s1.holdCmd p).vfs = s.vfs ∧
      ((s1.holdCmd p).part p).vfcmdBusy = true) ∧
    ∀ n w, s1.vfOf p vf = some (n, w) → tfind s.vfs n = some w → s1.ownerHandling n = false →
      (∃ t, exec (.vfFlr p vf) s = .next t ∧
        tfind t.vfs n = some (cleared w) ∧
        (∀ l K, tfind t.launches l = some K → K.vf = n → K.phase = .done) ∧ (∀ e ∈ t.lanes, e.2.vf ≠ n) ∧
        (∀ e ∈ t.notified, e.1 ≠ n) ∧ (∀ e ∈ t.packets, e.2.vf ≠ n) ∧
        (∀ c, (∀ x ∈ (t.cluster c).l1, x.asid ≠ w.asid) ∧
          (∀ k x, tfind (t.cluster c).pages k = some x → x.asid = w.asid → x.valid = false) ∧
          ∀ k, let x := tget 0 (t.cluster c).accown k
            x.getLsbD 12 = true → x.toNat % 4096 ≠ w.asid) ∧
        ∀ r k es, tfind (t.region r).ents k = some es → ∀ e ∈ es, e.asid ≠ w.asid) ∧
      ∃ t, exec (.vfDestroy p vf) s = .next t ∧ tfind t.vfs n = none ∧
        ∀ l K, tfind t.launches l = some K → K.vf = n → K.phase = .done

/-- R429-R431: a migration: freeze, frozen, parked requests, resume, replay, its end, and an abort. -/
def Sys2Proof.Claims.Migration : Prop :=
  ∀ (p vf : Nat) (s : State), s.recovery = false →
    let own := fun (t : State) (f : Region → Prop) => ∀ r ∈ s.regionsOf p, f (t.region r)
    (∀ n v, s.vfOf p vf = some (n, v) → tfind s.vfs n = some v →
      (v.frozen = false → v.freezing = false → ∃ t, exec (.migFreeze p vf) s = .next t ∧
        tfind t.vfs n = some { v with freezing := true, remote := v.parked.filterMap (s.remoteWait v) } ∧
        (t.part p).vfmigBusy = true ∧ (∀ e ∈ t.lanes, e.2.vf ≠ n) ∧
        ∀ b B, tfind s.blocks b = some B → s.blockVf B = n → B.ended = false → B.saved = false → B.stop = none →
          b ∈ s.members b → (tfind t.blocks b).map (·.stop) = some (some .preempt)) ∧
      (v.frozen = true → v.freezing = false → ∃ t, exec (.migAbort p vf) s = .next t ∧
        ((tfind t.vfs n).map fun w => (w.frozen, w.freezing, w.replaying)) = some (false, false, false) ∧
        (t.part p).vfmigAborted = true ∧ (t.part p).vfmigBusy = false ∧
        own t fun R => R.parking = []) ∧
      (v.frozen = true → ∃ t, exec (.migReplay p vf) s = .next t ∧ (own t fun R => R.parking = []) ∧
        ((tfind t.vfs n).map (·.freezing)) = some true ∧ (t.part p).vfmigBusy = true) ∧
      (v.frozen = true → v.freezing = true → exec (.migAbort p vf) s = .next s)) ∧
    (∀ n v, (s.vfs.find? fun e => e.2.part = p && e.2.freezing) = some (n, v) → s.runningBlocks n = [] →
      ∃ t, exec (.vfFrozen p) s = .next t ∧ tfind t.vfs n = some { v with freezing := false, frozen := true } ∧
        (t.part p).vfmigBusy = false ∧ ((s.part p).vfmigVf = v.recIdx → (t.readReg (.part p) 0x034).testBit 26 = true)) ∧
    (∀ r rq n, s.regionPart r = some p → s.frozenAt p rq.pa = some n → (s.region r).parking.length < 64 →
      exec (.gatePark r rq) s = .next (s.setRegion r { s.region r with parking := (s.region r).parking ++ [rq] })) ∧
    (let v := s.vfRecord p vf
     ∀ k o, vf < (s.part p).pvfcount.toNat → paInside (s.recAddr p vf) 128 = true → s.recordOk p vf = true →
      s.reserveOk p v = true → s.vfOf p vf = none →
      (∀ e ∈ s.vfs, e.2.asid = v.asid → e.2.frozen = true ∧ e.2.vcppa = v.vcppa) → s.migSource v.vcppa = some (k, o) →
      ∃ t, exec (.migResume p vf) s = .next t ∧ (own t fun R => R.holding = true) ∧ (t.part p).vfmigBusy = true ∧
        ((tfind t.vfs (s.vfNumber p vf)).map fun w => (w.asid, w.replaying, w.frozen, w.remote)) =
          some (v.asid, true, false, o.remote)) ∧
    ∀ n a m b, (s.vfs.find? fun e => e.2.part = p && e.2.frozen && e.2.freezing) = some (n, a) → s.migDest a = some (m, b) →
      tfind s.vfs m = some b → n ≠ m →
      ∃ t, exec (.replayDone p) s = .next t ∧ tfind t.vfs n = none ∧
        ((tfind t.vfs m).map fun w => (w.frozen, w.freezing, w.replaying)) = some (false, false, false) ∧
        (∀ r ∈ s.regionsOf b.part, (t.region r).holding = false) ∧
        ((∀ r ∈ s.regionsOf p, (s.region r).parking = []) → ∀ l L, tfind s.launches l = some L →
          tfind t.launches l = some (if L.vf = n then { L with vf := m, part := b.part } else L))

/-- R394, R408-R410, R417-R420, R429-R431: virtual functions and their migration. -/
def Obligations.VirtualFunctions : Prop := VfCommands ∧ Migration


/-- R43-R45, R321, R335, R345, R413, R415: shape, run and suspension of a partition, its remap table, table updates, the
cache split and its policy. -/
def Sys2Proof.Claims.PartitionEvents : Prop :=
  ∀ (p : Nat) (s : State), s.recovery = false → let P := s.part p
    (∀ v : Word, v.getLsbD 31 = false → v.getLsbD 3 = false → let sh := v.toNat % 8
      sh ≠ P.shape →
      (s.shapeOk p sh = true → ∃ t, exec (.partitionShape p v) s = .next t ∧
        t.part p = { P with shape := sh, state := if sh = 0 then 0 else 1, run := false, committed := false, unitTab := [],
                            tchashk := (t.part p).tchashk } ∧
        (sh = 0 → (t.part p).tchashk = P.tchashk) ∧ (∀ q, q ≠ p → t.part q = s.part q) ∧
        t = { s with parts := t.parts, regions := t.regions, mem := t.mem, draws := t.draws }) ∧
      (s.shapeOk p sh = false → exec (.partitionShape p v) s = .next (s.setPart p { P with err := true }))) ∧
    (P.shape < 8 → P.run = false → (P.state = 1 ∨ P.state = 2) →
      let t := s.setPart p { P with run := true, busy := false, state := 2, fault := false }
      exec (.partitionRun p) s = .next
        (if P.shape ≠ 0 ∧ P.committed = true ∧ P.prmapBusy = false ∧ P.psupv.getLsbD 0 = true ∧ P.lsavelen ≠ 0 then
          if P.fault = true then { t with msi := s.msi ++ [{ vf := none, vector := 0 }] } else t
         else s.setPart p { P with err := true })) ∧
    (P.shape < 8 → P.run = true → P.state ≠ 3 → ∃ t, exec (.partitionSuspend p) s = .next t ∧
      t = { s with parts := t.parts, blocks := t.blocks } ∧ t.part p = { P with run := false, busy := true } ∧
      ∀ b B K, tfind s.blocks b = some B → tfind s.launches B.launch = some K → K.part = p → B.ended = false →
        B.saved = false → B.stop = none → b ∈ s.members b → (tfind t.blocks b).map (·.stop) = some (some .preempt)) ∧
    (P.busy = true → P.run = false → s.partBlocks p = [] →
      exec (.partitionSuspended p) s = .next (s.setPart p { P with busy := false, state := 1 })) ∧
    (let E := fun i => tget 0 P.remap i
     let k := 8 * s.partRegions p
     let C := fun i => (E i).toNat % 256
     (P.state = 1 → (∀ i, i < k → (E i).getLsbD 8 = true ∧ C i < 216 ∧ s.inPart p (clusterRegion (C i)) = true) →
      (∀ i j, i < k → j < k → C i = C j → i = j) → ∃ t, exec (.remapCommit p) s = .next t ∧
        t = s.setPart p { P with prmapBusy := true, committed := false, unitTab := (t.part p).unitTab } ∧
        ∀ i, i < k → tfind (t.part p).unitTab i = some (C i)) ∧
     (P.state ≠ 1 → exec (.remapCommit p) s = .next (s.setPart p { P with prmapErr := true }))) ∧
    (P.prmapBusy = true → exec (.remapCopyDone p) s = .next (s.setPart p { P with prmapBusy := false, committed := true })) ∧
    (P.tuRefused = true → exec (.tableUpdate p) s = .next (s.setPart p { P with tuErr := true })) ∧
    (P.tuRefused = false → paInside P.tupa.toNat 8 = true → ∃ t, exec (.tableUpdate p) s = .next t ∧
      t = { s with parts := t.parts, mem := t.mem } ∧ (∀ q, q ≠ p → t.part q = s.part q) ∧
      t.part p = { P with tuBusy := true, tuRange := (t.part p).tuRange, tuLeaf := (t.part p).tuLeaf } ∧ Memory.num t.mem P.tupa.toNat 8 = P.tuval.toNat ∧
      ∀ a, a < P.tupa.toNat ∨ P.tupa.toNat + 8 ≤ a → Memory.read t.mem a = Memory.read s.mem a) ∧
    (P.tuBusy = true → ∃ t, exec (.tableUpdateDone p) s = .next t ∧
      t.part p = { P with tuBusy := false, tuRange := (0, 0), tuLeaf := false } ∧ (∀ q, q ≠ p → t.part q = s.part q) ∧
      ∀ r, s.inPart p r = true → ∀ x ∈ (t.region r).tlb,
        meets (x.page * levelBytes x.level) (levelBytes x.level) P.tuRange.1 P.tuRange.2 = false) ∧
    (∀ v : Word, v.getLsbD 31 = false → (P.state ≠ 1 ∨ 8 < v.toNat % 16 →
        exec (.tccfgWrite p v) s = .next (s.setPart p { P with tccfgErr := true })) ∧
      (P.state = 1 → v.toNat % 16 ≤ 8 → ∃ t, exec (.tccfgWrite p v) s = .next t ∧
        t.part p = { P with tccfg := v.toNat % 16 } ∧ (∀ q, q ≠ p → t.part q = s.part q) ∧ ∀ r ∈ s.regionsOf p, (t.region r).rspDraw ≠ none)) ∧
    ∀ v : Word, ∃ t, exec (.polbaseWrite p v) s = .next t ∧ t.part p = { P with polbase := v, polLines := [] } ∧
      SameMemory s t

/-- R421-R426, R446: region reset, windows and the assignment of ports. -/
def Sys2Proof.Claims.RegionEvents : Prop :=
  (∀ (r : Nat) (s : State), let R := s.region r
    (∀ p, R.resetting = false → s.regionPart r = some p → ∃ t, exec (.regionReset r) s = .next t ∧
      (t.region r).gate = false ∧ (t.region r).resetting = true ∧
      (t.region r).pwr = (if R.hot = true then 1 else 0) ∧ (t.part p).run = false ∧
      (t.part p).state = (if s.partRegions p = 1 then 1 else 3) ∧
      (∀ a, r * 0x800000000 ≤ a → a < r * 0x800000000 + hbmBytes → Memory.read t.mem a = 0) ∧
      (∀ c, clusterRegion c = r → t.cluster c = Cluster.reset) ∧ (∀ k, coreRegion k = r → t.core k = Core.reset) ∧
      ∀ l L, tfind t.launches l = some L → L.part = p → L.phase.live = false) ∧
    (R.resetting = true → exec (.regionReset r) s = .next s ∧ ∃ t, exec (.regionResetDone r) s = .next t ∧
      t.region r = { R with resetting := false, wins := [], gate := true, fault := false } ∧
      t.msi = if R.fault = true then s.msi ++ [{ vf := none, vector := 0 }] else s.msi) ∧
    ∀ w, w < 16 → let x := tget Win.reset R.wins w
      (∀ v : Word, v.getLsbD 0 = true →
        let y : Win := { x with borrower := bits v.toNat 7 3, w := v.getLsbD 1, valid := true, closing := false }
        exec (.windowOpen r w v) s = .next
          (if 1 ≤ x.len ∧ r * 0x800000000 ≤ x.base ∧ x.base + x.len * 65536 ≤ r * 0x800000000 + hbmBytes ∧
              y.borrower < 24 ∧ (s.part y.borrower).shape ≠ 0 then
            (s.setWin r w y).shareRange ((s.regionPart r).getD r) x.base (x.len * 65536) else s)) ∧
      (x.valid = true → exec (.windowClose r w) s = .next (s.setWin r w { x with valid := false, closing := true })) ∧
      (x.closing = true → exec (.windowCloseDone r w) s = .next (s.setWin r w { x with closing := false }))) ∧
  ∀ (n : Nat) (v : Word) (s : State), let P := s.port n
    let mode := v.getLsbD 6
    let owner := bits v.toNat 4 0
    v.getLsbD 31 = false → (v.getLsbD 7 ≠ P.valid ∨ mode ≠ P.mode ∨ owner ≠ P.owner) →
    exec (.portAssign n v) s = .next
      (if s.ownerIdle P.valid P.mode P.owner = true ∧ s.ownerIdle (v.getLsbD 7) mode owner = true then
        s.setPort n { P with valid := v.getLsbD 7, mode := mode, owner := owner } else s.setPort n { P with err := true })

/-- R43-R45, R321, R335, R345, R413-R426, R446: partitions, regions and ports as software changes them. -/
def Obligations.PartitionsAndRegions : Prop := PartitionEvents ∧ RegionEvents


/-- R4, R185, R186, R455-R462: the debug agent, register writes, boot, recovery and attestation. -/
def Sys2Proof.Claims.DeviceEvents : Prop :=
  (∀ (p : Nat) (v : Word) (s : State) (w : Nat) (W : Warp), s.debugWarp p v = some w → tfind s.warps w = some W →
    ((s.part p).dbgctl.getLsbD 1 = false →
      (W.halted = false → s.areaIn W = true → ∃ t, exec (.debugHalt p v) s = .next t ∧
        tfind t.warps w = some { W with halted := true, step := none } ∧ ∀ k, k ≠ w → tfind t.warps k = tfind s.warps k) ∧
      (W.halted = true → ∃ t, exec (.debugResume p v) s = .next t ∧
        ((tfind t.warps w).map fun X => (X.halted, X.step)) = some (false, none) ∧
        ∀ k, k ≠ w → tfind t.warps k = tfind s.warps k)) ∧
    let s1 := s.reloadHalted w
    let sp := bits v.toNat 29 28
    ∀ K, tfind s1.warps w = some K → K.halted = true → (K.split sp).isSome = true →
      exec (.debugStep p v) s = .next { s1 with warps := tset s1.warps w { K with step := some sp } }) ∧
  (∀ (K : Package) (bs : List Byte) (train : Bool), let img := bs.take (imgField bs 0x008 4)
    let num := fun (img : List Byte) (o : Nat) => beNat ((img.drop o).take 32)
    bootFail K bs train = 0 ↔ bootHeaderOk bs = true ∧ sha256 ((img.drop 0x40).take 64) = K.fusedDigest ∧
      ecdsaVerify (num img 0x40) (num img 0x60) (num img 0x80) (num img 0xA0) (sha256 (signedBytes img)) = true ∧
      K.fusedSvn ≤ imgField img 0x004 4 ∧ train = false) ∧
  (∀ s : State, let K := { Package.reset with
      flash := s.pkg.flash, fusedDigest := s.pkg.fusedDigest, fusedSvn := s.pkg.fusedSvn, spares := s.pkg.spares
      secret := s.pkg.secret, cert := s.pkg.cert }
    let stage := fun (t : State) (f : Nat) => (t.pkg.stage, t.pkg.fail) = if f = 0 then (3, 0) else (15, f)
    (∃ t, exec .packageReset s = .next t ∧ t.host = s.host ∧ t.mem = [] ∧ t.warps = [] ∧ t.launches = [] ∧ t.parts = [] ∧
      (∀ r, t.region r = Region.reset) ∧ t.clusters = [] ∧ t.cores = [] ∧ t.vfs = [] ∧ t.ports = [] ∧
      stage t (bootFail K K.flash (Config.trainFails s.draws))) ∧
    (s.pkg.stage = 15 → s.pkg.loading = false → let n := s.pkg.mreclen.toNat
      (n < 4096 ∨ 2 ^ 25 < n → exec .recoveryLoad s = .next { s with pkg := { s.pkg with fail := 5 } }) ∧
      (4096 ≤ n → n ≤ 2 ^ 25 → ∃ t, exec .recoveryLoad s = .next t ∧
        let k := bootFail s.pkg (Memory.readN s.host s.pkg.mrecpa.toNat n) (Config.trainFails s.draws)
        stage t k ∧ (k = 0 → t.mem = [] ∧ ∀ p, (t.part p).state = 0 ∧ (t.part p).run = false))) ∧
    (s.pkg.stage ≠ 15 → exec .recoveryLoad s = .next s) ∧
    exec .attestation s = .next
      { s with pkg := if s.pkg.matBusy = true then { s.pkg with matErr := true } else { s.pkg with matBusy := true } } ∧
    (s.pkg.matBusy = true → let a := s.pkg.matnpa.toNat / 256 * 256
      ∃ t, exec .attestationDone s = .next t ∧ t.pkg = { s.pkg with matBusy := false } ∧
        t = { s with host := t.host, pkg := t.pkg, draws := s.draws + 1 } ∧
        Memory.readN t.host (a + 0x40) 32 = Memory.readN s.host a 32)) ∧
  ∀ (sp : RegSpace) (off size : Nat) (v : DWord) (s : State),
    (¬(size = 4 ∨ size = 8) ∨ off % size ≠ 0 → exec (.registerWrite sp off size v) s = .next s) ∧
    ((size = 4 ∨ size = 8) → off % size = 0 →
      ∃ t, exec (.registerWrite sp off size v) s = .next t ∧
      let w := v.extractLsb' 0 32
      (∀ p, size = 4 → sp = .part p → p < 24 → off = 0x01C →
        t = s.setPart p { s.part p with plattol := w &&& 0x00FFFFFF } ∧ t.readReg sp off = w.toNat % 2 ^ 24) ∧
      (∀ r, size = 4 → sp = .region r → r < 24 → off = 0x008 →
        t = s.setRegion r { s.region r with recch := (s.region r).recch &&& ~~~w }) ∧
      (size = 4 → sp = .mgmt → off = 0x018 →
        t = { s with pkg := { s.pkg with mpcap := max 600 (min 2600 (w.toNat % 65536)) } }) ∧
      ∀ p, size = 8 → sp = .part p → p < 24 → off = 0x728 →
        t.part p = { s.part p with tupa := v &&& 0x000FFFFFFFFFFFF8 })

/-- R427, R428, R434, R435, R456, R457: power, temperature and errors. -/
def Sys2Proof.Claims.PowerAndErrors : Prop :=
  (∀ (watts : Nat) (s : State), let s1 := { s with pkg := { s.pkg with watts := watts % 65536 } }
    (watts ≤ s.pkg.mpcap → exec (.powerCapExceeded watts) s = .next s1) ∧
    (s.pkg.mpcap < watts →
      (∀ p, (s.shedOrder.find? fun p => (s.part p).shed < (s.part p).lastStage) = some p → (s.part p).shed < 3 →
        s.pkg.overCap = false → ∃ t, exec (.powerCapExceeded watts) s = .next t ∧
          t.part p = { s.part p with shed := (s.part p).shed + 1 } ∧
          t.pkg.shedLog = p :: s.pkg.shedLog ∧
          ∀ r, r < 24 → s.regionPart r = some p → (s.region r).pwr = 0 → (s.region r).railOff = false →
            (t.region r).pll = 3 - (s.part p).shed) ∧
      ((s.shedOrder.find? fun p => (s.part p).shed < (s.part p).lastStage) = none →
        ∃ t, exec (.powerCapExceeded watts) s = .next t ∧ t.pkg.overCap = true ∧
          ∀ r, r < 24 → (s.region r).pwr < 2 → (s.region r).railOff = false → (t.region r).pll = 1)) ∧
    (watts * 100 ≤ s.pkg.mpcap * 95 →
      (s.pkg.overCap = true → ∃ t, exec (.powerCapRelieved watts) s = .next t ∧ t.pkg.overCap = false ∧ t.parts = s.parts) ∧
      ∀ p rest, s.pkg.overCap = false → s.pkg.shedLog = p :: rest → (s.part p).shed ≤ 3 →
        ∃ t, exec (.powerCapRelieved watts) s = .next t ∧ t.part p = { s.part p with shed := (s.part p).shed - 1 } ∧
          t.pkg.shedLog = rest)) ∧
  (∀ (die d : Nat) (s : State), let R := fun i => s.region (6 * die + i)
    (die < 4 → 105 ≤ d → ∃ t, exec (.thermalHot die d) s = .next t ∧ die ∈ t.pkg.dieHot ∧
      tfind t.pkg.dieTemp die = some (d % 256) ∧
      ∀ i, i < 6 → let n := (t.region (6 * die + i)).pll
        t.region (6 * die + i) = { R i with hot := true, pwr := max (R i).pwr 1, gated := false, pll := n } ∧
        ((R i).pwr ≤ 1 → (R i).railOff = false → n = 1)) ∧
    (die ∈ s.pkg.dieHot → d < 95 → ∃ t, exec (.thermalCool die d) s = .next t ∧ die ∉ t.pkg.dieHot ∧
      tfind t.pkg.dieTemp die = some d ∧
      ∀ i, i < 6 → t.region (6 * die + i) =
        { R i with hot := false, gated := false, pwr := if (R i).pwr = 1 then 0 else (R i).pwr,
                   pll := (t.region (6 * die + i)).pll }) ∧
    (die < 4 → 115 ≤ d → ∃ t, exec (.thermalTrip die d) s = .next t ∧ t.pkg.trip = true ∧
      ∀ i, i < 6 → (t.region (6 * die + i)).railOff = true ∧ ∀ p, s.regionPart (6 * die + i) = some p →
        (t.part p).fault = true ∧ (t.part p).state = 1 ∧ (t.part p).run = false)) ∧
  ∀ (r : Nat) (s : State), let R := s.region r
    (∀ p, s.regionPart r = some p →
      (∃ t, exec (.machineFault r) s = .next t ∧ (t.region r).fault = true ∧ (t.part p).fault = true ∧ (t.part p).state = 1 ∧
        (t.part p).run = false ∧ t.msi = s.msi ++ [{ vf := none, vector := 0 }] ∧
        ∀ l L, tfind s.launches l = some L → L.part = p → L.phase.live = true →
          ((tfind t.launches l).map fun K => (K.phase, K.status)) = some (.ending, some 0x1F)) ∧
      (let us := (s.part p).plattol.toNat % 2 ^ 24
       let n : Nat × Bool := if 2000 ≤ us then (3, false) else if 150 ≤ us then (2, false) else if 20 ≤ us then (1, false)
         else if 1 ≤ us then (1, true) else (0, false)
       exec (.idlePowerEntry r) s = .next
         (if s.regionIdle r = true ∧ powerDepth (R.pwr, R.gated) < powerDepth n then
           s.setPower r { R with pwr := n.1, gated := n.2 } else s)) ∧
      let n := if R.hot = true then 1 else 0
      exec (.powerWake r) s = .next
        (if 4 ≤ (s.part p).shed ∨ R.railOff = true ∨ R.pwr = n ∧ R.gated = false then s
         else s.setPower r { R with pwr := n, gated := false })) ∧
    (s.regionPart r = none →
      exec (.machineFault r) s = .next ((s.setRegion r { R with fault := true }).signal none 0)) ∧
    ∀ h k, exec (.patrolScrub r h k) s = .next (s.setRegion r
      { R with recch := BitVec.ofNat 32 (min 0xFFFFFFFF (R.recch.toNat + h)), reccs := BitVec.ofNat 32 (min 0xFFFFFFFF (R.reccs.toNat + k)) })

/-- R4, R185, R186, R427, R428, R434, R435, R455-R462: the debug agent, registers, boot, power and errors. -/
def Obligations.PackageEvents : Prop := DeviceEvents ∧ PowerAndErrors


/-- R446-R454: links, inbound requests and their responses, responses to this device's requests, and fence tokens. An inbound
ATOMIC or REDUCE that R451 does not allow is answered with STATUS 0x05 (log 91). -/
def Obligations.FabricEvents : Prop :=
  ∀ (port : Nat) (f : Flit) (s : State), let P := s.port port
    exec (.undefinedFlit port f) s = .next s ∧
    (∀ peer, port < 36 → P.up = false →
      exec (.portLinkUp port peer) s = .next (s.setPort port { P with up := true, known := true, peer := peer % 4096 })) ∧
    (port < 36 → P.up = true → ∃ t, exec (.portLinkDown port) s = .next t ∧ (t.port port).up = false ∧
      (∀ e ∈ t.outReqs, e.2.port ≠ port) ∧ (∀ x ∈ t.paths, x.port = port → x.acked = x.token) ∧
      ∀ x ∈ s.paths, x.port = port → x.token ≠ x.acked → ∃ y ∈ t.paths, y.part = x.part ∧ y.dev = x.dev ∧ y.lost = true) ∧
    (s.portOpen port = true → f.len.toNat ≤ 14 →
      let a := f.pa.toNat % 2 ^ 52
      let seq := f.seq.toNat
      let came := s.storeArrived f.srcDev.toNat f.spart.toNat seq
      let count := fun (t : State) => t.storePerformed f.srcDev.toNat f.spart.toNat seq
      let answer := fun (t : State) (p st tag : Nat) (bs : List Byte) => t.respond port p f.princ a seq st tag bs
      let home := fun (t : State) (p r : Nat) => t.homeEntry p r a
      let allowed := fun (t : State) (p r : Nat) (write : Bool) =>
        policyAllows t p (inReqOf p f) (home t p r).2.atag write = true
      let denied := fun (t : State) (p r : Nat) (write : Bool) => t.event p (inReqOf p f) (home t p r).1 (home t p r).2.atag write
      (f.kind = 1 → let n := 16 * f.len.toNat
        (∀ st, s.inbound port f n false = .bad st →
          exec (.readFlit port f) s = .next (answer s 0 st 0 (List.replicate n 0))) ∧
        ∀ p r, s.inbound port f n false = .go p r → paRegion a = some r → (s.region r).holding = false →
          0 < n → a % 4096 + n ≤ 4096 → let u := s.wakeRegion r
          let z := u.atHome p a (.read (a % 4096) n)
          (allowed u p r false → exec (.readFlit port f) s = .next (answer z.1 p 0 (home u p r).2.atag z.2)) ∧
          (¬allowed u p r false → exec (.readFlit port f) s =
            .next (answer (denied u p r false) p 0 (home u p r).2.atag (List.replicate n 0)))) ∧
      (f.kind = 2 → let rq : InReq := { kind := 0, op := f.op.toNat, pa := a, src := 0, data := f.data.take (16 * f.len.toNat) }
        let n := rq.data.length
        (∀ st, s.inbound port f n true = .bad st → exec (.writeFlit port f) s = .next (count (answer came 0 st 0 []))) ∧
        ∀ p r, s.inbound port f n true = .go p r → paRegion a = some r → (s.region r).holding = false →
          0 < n → a % 4096 + n ≤ 4096 → let u := came.wakeRegion r
          let tag := (home u p r).2.atag
          (u.frozenAt p a = none → allowed u p r true →
            exec (.writeFlit port f) s = .next (count (answer (u.updateHome p rq).1 p 0 tag []))) ∧
          (¬allowed u p r true → exec (.writeFlit port f) s = .next (count (answer (denied u p r true) p 0x06 tag []))) ∧
          ∀ m, u.frozenAt p a = some m → allowed u p r true → exec (.writeFlit port f) s =
            .next (answer (u.parkReq p m r { rq with src := srcKey port f.srcDev.toNat f.spart.toNat seq f.princ }) p 0 tag [])) ∧
      (f.kind = 3 → let rq : InReq := { kind := 1, op := f.op.toNat, pa := a, src := 0, data := f.data.take 4 }
        ∀ p r, s.inbound port f 4 true = .go p r → paRegion a = some r → (s.region r).holding = false →
        (f.op.toNat = 7 ∨ 8 < f.op.toNat ∨ a % 4 ≠ 0 →
          exec (.atomicFlit port f) s = .next (count (answer came 0 0x05 0 []))) ∧
        (f.op.toNat ≠ 7 → f.op.toNat ≤ 8 → a % 4 = 0 → let u := came.wakeRegion r
          let z := u.updateHome p rq
          let tag := (home u p r).2.atag
          (u.frozenAt p a = none → allowed u p r true → allowed u p r false →
            exec (.atomicFlit port f) s = .next (count (answer z.1 p 0 tag (z.2.take 4 ++ List.replicate 12 0)))) ∧
          ∀ m, u.frozenAt p a = some m → allowed u p r true → allowed u p r false → exec (.atomicFlit port f) s =
            .next (u.parkReq p m r { rq with src := srcKey port f.srcDev.toNat f.spart.toNat seq f.princ }))) ∧
      (f.kind = 4 → let rq : InReq := { kind := 2, op := f.op.toNat, pa := a, src := 0, data := f.data.take (16 * f.len.toNat) }
        let n := rq.data.length
        ∀ p r, s.inbound port f n true = .go p r → paRegion a = some r → (s.region r).holding = false →
          (¬(f.op.toNat < 12 ∧ f.op.toNat % 4 ≠ 0 ∧ a % 16 = 0) →
            exec (.reduceFlit port f) s = .next (count (answer came 0 0x05 0 []))) ∧
          (f.op.toNat < 12 → f.op.toNat % 4 ≠ 0 → a % 16 = 0 → 0 < n → a % 4096 + n ≤ 4096 → let u := came.wakeRegion r
            u.frozenAt p a = none → allowed u p r true → exec (.reduceFlit port f) s =
              .next (count (answer (u.updateHome p rq).1 p 0 (home u p r).2.atag [])))) ∧
      (f.kind = 5 →
        (s.answered port f = none → exec (.responseFlit port f) s = .next s) ∧
        ∀ k r x, s.answered port f = some (k, r) → r.kind = 0 → r.flit.kind = 1 → f.status = 0 → tfind s.accs r.ref = some x →
          x.isStore = false → ∃ t y, exec (.responseFlit port f) s = .next t ∧ tfind t.outReqs k = none ∧
            tfind t.accs r.ref = some y ∧ ∀ l ∈ x.lanes, l.lane = r.sub % 32 →
              (∀ m ∈ x.lanes, m.lane = l.lane → m = l) →
              { l with res := leNat ((f.data.drop (l.ea % 16)).take x.kind.size) } ∈ y.lanes) ∧
      (f.kind = 6 → let x := s.inPath f.srcDev.toNat f.spart.toNat
        let reached := fun (m n : Nat) => (m + 2 ^ 32 - n % 2 ^ 32) % 2 ^ 32 < 2 ^ 31
        let c := f.fcount.toNat
        exec (.fenceFlit port f) s = .next
          (if reached x.fwdPort c ∧ reached x.fwdRouter c ∧ ∀ k ∈ x.waiting, ¬reached c k then s.sendAck port f
           else s.setInPath { x with held := x.held ++ [(port, f)] })) ∧
      (f.kind = 7 → ∀ x, (s.paths.find? fun x => x.part = f.spart.toNat && x.dev = f.srcDev.toNat && x.port = port) = some x →
        seqReached f.fcount.toNat x.acked = true → seqReached x.token f.fcount.toNat = true →
        let t := s.setPath { x with acked := f.fcount.toNat }
        exec (.fenceackFlit port f) s = .next (if f.fcount.toNat = x.token then t.releaseGo x.dev x.part else t))) ∧
    ∀ (rq : InReq) (old : List Byte) (w : Word), rq.kind = 1 → rq.op ≤ 8 → rq.op ≠ 7 →
      atomicResult rq.op (BitVec.ofNat 32 (leNat (old.take 4))) (BitVec.ofNat 32 (leNat (rq.data.take 4))) 0 = some w →
      inReqAfter rq old = leBytes 4 w.toNat

/-- What a step adds around the instruction: the spill areas follow the stacks (R151), the images of halted warps the state
(R185), and a gate's buffer that overflows aborts its migration (R431); nothing where there is none of these. The
split that the agenda or R114 names issues the instruction at its PC, which its instruction buffer holds (R58, R72). -/
def Obligations.StepRunsDecoded : Prop :=
  (∀ (s : State) (w sp : Nat) (rest : List Act) (c : Ctx) (x : Word) (i : Instr), nextAct s = some (.issue w sp, rest) →
    let s0 := { s with agenda := rest }
    let s1 := { s0 with cur := some (w, sp) }
    issuer s1 = some c → c.mayIssue = true → tfind c.sp.ibuf c.sp.pc.toNat = some x →
    ((takesLiteral x = false ∧ c.sp.pc.toNat < c.image.codeLen ∧ decode x 0 = .ok i) ∨
      ∃ l, takesLiteral x = true ∧ c.sp.pc.toNat + 4 < c.image.codeLen ∧ tfind c.sp.ibuf (c.sp.pc.toNat + 4) = some l ∧
        decode x l = .ok i) →
    ∀ t, exec i s1 = .next t → step s = .next (followHalted s0 (followSpill s0 t)).overflowed) ∧
  (∀ (s : State) (i : Instr) (rest : List Act), s.agenda = .event i :: rest → encode i = none →
    let s0 := { s with agenda := rest }
    ∀ t, exec i s0 = .next t → step s = .next (followHalted s0 (followSpill s0 t)).overflowed) ∧
  (∀ s t : State, (∀ e ∈ t.warps, e.2.halted = false ∧ ∀ X ∈ e.2.splits, X.isLocal = true → X.stack.length ≤ 8) →
    (∀ e ∈ s.warps, ∀ X ∈ e.2.splits, X.isLocal = true → X.stack.length ≤ 8) → (∀ e ∈ t.regions, e.2.parking.length ≤ 64) →
    (followHalted s (followSpill s t)).overflowed = t) ∧
  ∀ (s : State) (w sp : Nat), s.agenda = [] → pick s = some (w, sp) → nextAct s = some (.issue w sp, [])

/-- Words that the spec writes out, decoded. -/
def Obligations.DecodeWords : Prop :=
  decode 0xA05FFFFB 0 = .ok (.bra { g := 2, n := true, o := 0xFFFFB }) ∧
  decode 0xA5E47FC0 0xFFFFFFFD = .ok (.loop { g := 7, d := 7, o := 0xFFFFFFFD }) ∧
  decode 0xABE3FFFF 0 = .ok (.nop { g := 7 }) ∧
  decode 0x52F440C0 0x201 = .ok (.shfld { g := 7, wA := true, d := 4, a := 3, b := .lit 0x201 }) ∧
  decode 0x54E010FF 0 = .ok (.vote { g := 7, m := 0, p := 1, t := 3 }) ∧
  decode 0x5FE00FC0 0 = .ok (.csrv { g := 7, d := 0, b := 0 }) ∧
  decode 0x56F0127F 0 = .ok (.redadd { g := 7, wA := true, n := 1, a := 9 }) ∧
  decode 0xBDF280C7 0 = .ok (.shrmap (.map 7 true 40 3 7)) ∧
  decode 0xD828213F 0 = .ok (.launch { d := 10, a := 2, b := 4 }) ∧
  decode 0x1BF43040 0xC0000000 = .ok (.fmar { g := 7, wA := true, d := 3, a := 1, b := .lit 0xC0000000 })

/-- R58-R68, R73-R77: every well-formed instruction is what its words decode to, and its first word says whether a literal
follows. -/
def Obligations.DecodeOfEncode : Prop :=
  ∀ (i : Instr) (c : Code), wellFormed i = true → encode i = some c →
    decode c.word (c.lit.getD 0) = .ok i ∧ takesLiteral c.word = c.lit.isSome

/-- R58-R69: no two instructions share words and no bit of a word is dropped: what decodes is well-formed and encodes to the
words it was decoded from. -/
def Obligations.EncodeOfDecode : Prop :=
  ∀ (w l : Word) (i : Instr), decode w l = .ok i →
    wellFormed i = true ∧ encode i = some { word := w, lit := if takesLiteral w = true then some l else none }

/-- The reset values that R345, R371, R404, R415, R424, R427 and R458 give, and the memories' canonical form. -/
def Obligations.ResetState : Prop :=
  let s := State.reset
  (∀ p, let P := s.part p
    P.shape = 0 ∧ P.state = 0 ∧ P.run = false ∧ P.lpredl = 0x03E800C8 ∧ P.feslice = 2000 ∧ P.dfbudget = 0x400 ∧
    P.burstSlots = 0 ∧ P.teqlost = 0 ∧ P.dbgctl = 0) ∧
  (∀ r, (s.region r).gate = true ∧ (s.region r).rscrub = 24 ∧ (s.region r).wins = []) ∧
  (∀ n, (s.port n).valid = false ∧ (s.port n).up = false) ∧ s.pkg.mpcap = 2600 ∧ s.warps = [] ∧ s.launches = [] ∧
  s.vfs = [] ∧ step s = .next s ∧ Canonical s

/-- Every step keeps the canonical form of device memory, host memory and CSM. -/
def Obligations.StepKeepsCanonical : Prop := ∀ s t : State, Canonical s → step s = .next t → Canonical t

/-- Reads and writes of a memory, and the canonical form that they keep: equal memories are equal lists (log 3). -/
def Obligations.MemoryOperations : Prop :=
  (∀ (m : Memory) (a i : Nat) (bs : List Byte),
    Memory.read (Memory.writeN m a bs) i = if a ≤ i ∧ i < a + bs.length then bs.getD (i - a) 0 else Memory.read m i) ∧
  (∀ (m : Memory) (a n i : Nat),
    Memory.read (Memory.zeroN m a n) i = if a ≤ i ∧ i < a + n then 0 else Memory.read m i) ∧
  (∀ (m : Memory) (a : Nat) (bs : List Byte), Memory.readN (Memory.writeN m a bs) a bs.length = bs) ∧
  ∀ m k : Memory, Memory.wf m = true → Memory.wf k = true → (∀ a, Memory.read m a = Memory.read k a) → m = k
end Statements
end

