-- ==== Sys2Proof/Laws/Table.lean ====
section
/-! SUPPORT. Reading a table after a change, and the canonical form of memories. -/

namespace Sys2Proof.Machine

/-! ## Tables -/

@[simp] theorem tfind_tset_self {α : Type} (t : Tab α) (k : Nat) (v : α) : tfind (tset t k v) k = some v := by
  induction t with
  | nil => simp [tset, tfind]
  | cons e t ih =>
    obtain ⟨j, u⟩ := e
    simp only [tset]
    split
    · simp [tfind]
    · split <;> simp_all [tfind]

theorem tfind_tset_ne {α : Type} (t : Tab α) {k i : Nat} (v : α) (h : i ≠ k) : tfind (tset t k v) i = tfind t i := by
  induction t with
  | nil => simp [tset, tfind, Ne.symm h]
  | cons e t ih =>
    obtain ⟨j, u⟩ := e
    simp only [tset]
    split
    · simp [tfind, Ne.symm h]
    · split
      · next hj => subst hj; simp [tfind, Ne.symm h]
      · simp only [tfind, ih]

theorem tfind_tset {α : Type} (t : Tab α) (k i : Nat) (v : α) :
    tfind (tset t k v) i = if i = k then some v else tfind t i := by
  split
  · next h => subst h; simp
  · next h => exact tfind_tset_ne t v h

@[simp] theorem tget_tset_self {α : Type} (d : α) (t : Tab α) (k : Nat) (v : α) : tget d (tset t k v) k = v := by
  simp [tget]

theorem tget_tset_ne {α : Type} (d : α) (t : Tab α) {k i : Nat} (v : α) (h : i ≠ k) :
    tget d (tset t k v) i = tget d t i := by simp [tget, tfind_tset_ne t v h]

theorem tget_tset {α : Type} (d : α) (t : Tab α) (k i : Nat) (v : α) :
    tget d (tset t k v) i = if i = k then v else tget d t i := by
  simp only [tget, tfind_tset]
  split <;> rfl

theorem tfind_filter {α : Type} (t : Tab α) (p : Nat → Bool) (i : Nat) :
    tfind (t.filter fun e => p e.1) i = if p i then tfind t i else none := by
  induction t with
  | nil => simp [tfind]
  | cons e t ih =>
    obtain ⟨j, u⟩ := e
    by_cases hp : p j
    · simp only [List.filter, hp, tfind, ih]
      split
      · next h => subst h; simp [hp]
      · rfl
    · simp only [List.filter, hp, tfind, ih]
      by_cases h : j = i
      · subst h; simp [hp]
      · simp [h]

theorem tfind_tdel {α : Type} (t : Tab α) (k i : Nat) : tfind (tdel t k) i = if i = k then none else tfind t i := by
  unfold tdel
  rw [tfind_filter t fun j => j != k]
  by_cases h : i = k <;> simp [h]

@[simp] theorem tfind_tmap {α : Type} (t : Tab α) (f : Nat → α → α) (i : Nat) :
    tfind (tmap t f) i = (tfind t i).map (f i) := by
  induction t with
  | nil => rfl
  | cons e t ih =>
    obtain ⟨j, u⟩ := e
    simp only [tmap, List.map, tfind] at ih ⊢
    split
    · next h => subst h; rfl
    · exact ih

theorem tfind_tmod {α : Type} (t : Tab α) (k : Nat) (f : α → α) (i : Nat) :
    tfind (tmod t k f) i = if i = k then (tfind t i).map f else tfind t i := by
  simp only [tmod, tfind_tmap]
  cases tfind t i <;> split <;> simp_all

/-! ## Memories -/

/-- Reading after a write of one byte. -/
theorem Memory.read_write (m : Memory) (a i : Nat) (b : Byte) :
    Memory.read (Memory.write m a b) i = if i = a then b else Memory.read m i := by
  unfold Memory.read Memory.write
  split
  · next h => subst h; simp only [tget, tfind_tdel]; split <;> rfl
  · exact tget_tset 0 m a i b

theorem Memory.read_writeN (bs : List Byte) (m : Memory) (a i : Nat) :
    Memory.read (Memory.writeN m a bs) i = if a ≤ i ∧ i < a + bs.length then bs.getD (i - a) 0 else Memory.read m i := by
  induction bs generalizing m a with
  | nil => simp [Memory.writeN] <;> omega
  | cons b bs ih =>
    simp only [Memory.writeN, ih, Memory.read_write, List.length_cons]
    by_cases h : i = a
    · subst h; rw [if_neg (by omega), if_pos rfl, if_pos (by omega), Nat.sub_self]; rfl
    · by_cases h2 : a + 1 ≤ i ∧ i < a + 1 + bs.length
      · rw [if_pos h2, if_pos (by omega)]
        obtain ⟨k, hk⟩ : ∃ k, i - a = k + 1 := ⟨i - a - 1, by omega⟩
        rw [hk, List.getD_cons_succ]; congr 1; omega
      · rw [if_neg h2, if_neg h, if_neg (by omega)]

theorem Memory.read_zeroN (m : Memory) (a n i : Nat) :
    Memory.read (Memory.zeroN m a n) i = if a ≤ i ∧ i < a + n then 0 else Memory.read m i := by
  unfold Memory.read Memory.zeroN tget
  rw [tfind_filter m fun j => decide (j < a) || decide (a + n ≤ j)]
  by_cases h : a ≤ i ∧ i < a + n
  · rw [if_pos h, if_neg (by simp; omega)]; rfl
  · rw [if_neg h, if_pos (by simp; omega)]

/-! ## The canonical form -/

theorem risingFrom_mono {n k : Nat} {m : Memory} (h : Memory.risingFrom n m = true) (hk : k ≤ n) :
    Memory.risingFrom k m = true := by
  cases m with
  | nil => rfl
  | cons e m =>
    obtain ⟨a, b⟩ := e
    simp only [Memory.risingFrom, Bool.and_eq_true, decide_eq_true_eq, bne_iff_ne, ne_eq] at h ⊢
    exact ⟨⟨by omega, h.1.2⟩, h.2⟩

theorem risingFrom_filter {n : Nat} {m : Memory} (p : Nat × Byte → Bool) (h : Memory.risingFrom n m = true) :
    Memory.risingFrom n (m.filter p) = true := by
  induction m generalizing n with
  | nil => rfl
  | cons e m ih =>
    obtain ⟨a, b⟩ := e
    simp only [Memory.risingFrom, Bool.and_eq_true, decide_eq_true_eq, bne_iff_ne, ne_eq] at h
    simp only [List.filter]
    split
    · simp only [Memory.risingFrom, Bool.and_eq_true, decide_eq_true_eq, bne_iff_ne, ne_eq]
      exact ⟨h.1, ih h.2⟩
    · exact ih (risingFrom_mono h.2 (by omega))

theorem risingFrom_tset {n k : Nat} {m : Memory} {b : Byte} (h : Memory.risingFrom n m = true) (hk : n ≤ k) (hb : b ≠ 0) :
    Memory.risingFrom n (tset m k b) = true := by
  induction m generalizing n with
  | nil => simp only [tset, Memory.risingFrom, Bool.and_eq_true, decide_eq_true_eq, bne_iff_ne, ne_eq]; exact ⟨⟨hk, hb⟩, trivial⟩
  | cons e m ih =>
    obtain ⟨a, c⟩ := e
    simp only [Memory.risingFrom, Bool.and_eq_true, decide_eq_true_eq, bne_iff_ne, ne_eq] at h
    simp only [tset]
    split
    · simp only [Memory.risingFrom, Bool.and_eq_true, decide_eq_true_eq, bne_iff_ne, ne_eq]
      exact ⟨⟨hk, hb⟩, ⟨by omega, h.1.2⟩, h.2⟩
    · split
      · simp only [Memory.risingFrom, Bool.and_eq_true, decide_eq_true_eq, bne_iff_ne, ne_eq]
        next hj => subst hj; exact ⟨⟨hk, hb⟩, h.2⟩
      · simp only [Memory.risingFrom, Bool.and_eq_true, decide_eq_true_eq, bne_iff_ne, ne_eq]
        exact ⟨h.1, ih h.2 (by omega)⟩

/-- A write keeps the canonical form. -/
theorem Memory.wf_write {m : Memory} (h : m.wf = true) (a : Nat) (b : Byte) : (Memory.write m a b).wf = true := by
  unfold Memory.write Memory.wf at *
  split
  · exact risingFrom_filter _ h
  · next hb => exact risingFrom_tset h (Nat.zero_le a) hb

/-- A write of several bytes keeps it. -/
theorem Memory.wf_writeN (bs : List Byte) {m : Memory} (h : m.wf = true) (a : Nat) : (Memory.writeN m a bs).wf = true := by
  induction bs generalizing m a with
  | nil => exact h
  | cons b bs ih => exact ih (Memory.wf_write h a b) (a + 1)

/-- Clearing a range keeps it. -/
theorem Memory.wf_zeroN {m : Memory} (h : m.wf = true) (a n : Nat) : (Memory.zeroN m a n).wf = true :=
  risingFrom_filter _ h

/-- A memory in canonical form lists no byte below its bound. -/
theorem tfind_below {n i : Nat} {m : Memory} (h : Memory.risingFrom n m = true) (hi : i < n) : tfind m i = none := by
  induction m generalizing n with
  | nil => rfl
  | cons e m ih =>
    obtain ⟨a, b⟩ := e
    simp only [Memory.risingFrom, Bool.and_eq_true, decide_eq_true_eq, bne_iff_ne, ne_eq] at h
    simp only [tfind]
    rw [if_neg (by omega)]
    exact ih h.2 (by omega)

end Sys2Proof.Machine
end

