-- ==== Sys2Proof/Laws/State.lean ====
section
/-! SUPPORT. One lemma for each field of the state and each named update, so that no proof unfolds a record update. -/

namespace Sys2Proof.Machine

/-! ## setCore -/

@[simp] theorem State.setCore_mem (s : State) (k : Nat) (x : Core) : (s.setCore k x).mem = s.mem := rfl
@[simp] theorem State.setCore_host (s : State) (k : Nat) (x : Core) : (s.setCore k x).host = s.host := rfl
@[simp] theorem State.setCore_hostHoles (s : State) (k : Nat) (x : Core) : (s.setCore k x).hostHoles = s.hostHoles := rfl
@[simp] theorem State.setCore_regions (s : State) (k : Nat) (x : Core) : (s.setCore k x).regions = s.regions := rfl
@[simp] theorem State.setCore_clusters (s : State) (k : Nat) (x : Core) : (s.setCore k x).clusters = s.clusters := rfl
@[simp] theorem State.setCore_cores (s : State) (k : Nat) (x : Core) : (s.setCore k x).cores = tset s.cores k x := rfl
@[simp] theorem State.setCore_parts (s : State) (k : Nat) (x : Core) : (s.setCore k x).parts = s.parts := rfl
@[simp] theorem State.setCore_vfs (s : State) (k : Nat) (x : Core) : (s.setCore k x).vfs = s.vfs := rfl
@[simp] theorem State.setCore_lanes (s : State) (k : Nat) (x : Core) : (s.setCore k x).lanes = s.lanes := rfl
@[simp] theorem State.setCore_packets (s : State) (k : Nat) (x : Core) : (s.setCore k x).packets = s.packets := rfl
@[simp] theorem State.setCore_feOps (s : State) (k : Nat) (x : Core) : (s.setCore k x).feOps = s.feOps := rfl
@[simp] theorem State.setCore_spoiled (s : State) (k : Nat) (x : Core) : (s.setCore k x).spoiled = s.spoiled := rfl
@[simp] theorem State.setCore_notified (s : State) (k : Nat) (x : Core) : (s.setCore k x).notified = s.notified := rfl
@[simp] theorem State.setCore_vfmap (s : State) (k : Nat) (x : Core) : (s.setCore k x).vfmap = s.vfmap := rfl
@[simp] theorem State.setCore_ports (s : State) (k : Nat) (x : Core) : (s.setCore k x).ports = s.ports := rfl
@[simp] theorem State.setCore_outReqs (s : State) (k : Nat) (x : Core) : (s.setCore k x).outReqs = s.outReqs := rfl
@[simp] theorem State.setCore_paths (s : State) (k : Nat) (x : Core) : (s.setCore k x).paths = s.paths := rfl
@[simp] theorem State.setCore_inPaths (s : State) (k : Nat) (x : Core) : (s.setCore k x).inPaths = s.inPaths := rfl
@[simp] theorem State.setCore_outbox (s : State) (k : Nat) (x : Core) : (s.setCore k x).outbox = s.outbox := rfl
@[simp] theorem State.setCore_msi (s : State) (k : Nat) (x : Core) : (s.setCore k x).msi = s.msi := rfl
@[simp] theorem State.setCore_pkg (s : State) (k : Nat) (x : Core) : (s.setCore k x).pkg = s.pkg := rfl
@[simp] theorem State.setCore_launches (s : State) (k : Nat) (x : Core) : (s.setCore k x).launches = s.launches := rfl
@[simp] theorem State.setCore_blocks (s : State) (k : Nat) (x : Core) : (s.setCore k x).blocks = s.blocks := rfl
@[simp] theorem State.setCore_groups (s : State) (k : Nat) (x : Core) : (s.setCore k x).groups = s.groups := rfl
@[simp] theorem State.setCore_warps (s : State) (k : Nat) (x : Core) : (s.setCore k x).warps = s.warps := rfl
@[simp] theorem State.setCore_accs (s : State) (k : Nat) (x : Core) : (s.setCore k x).accs = s.accs := rfl
@[simp] theorem State.setCore_sfus (s : State) (k : Nat) (x : Core) : (s.setCore k x).sfus = s.sfus := rfl
@[simp] theorem State.setCore_ops (s : State) (k : Nat) (x : Core) : (s.setCore k x).ops = s.ops := rfl
@[simp] theorem State.setCore_fresh (s : State) (k : Nat) (x : Core) : (s.setCore k x).fresh = s.fresh := rfl
@[simp] theorem State.setCore_launchIds (s : State) (k : Nat) (x : Core) : (s.setCore k x).launchIds = s.launchIds := rfl
@[simp] theorem State.setCore_draws (s : State) (k : Nat) (x : Core) : (s.setCore k x).draws = s.draws := rfl
@[simp] theorem State.setCore_cur (s : State) (k : Nat) (x : Core) : (s.setCore k x).cur = s.cur := rfl
@[simp] theorem State.setCore_agenda (s : State) (k : Nat) (x : Core) : (s.setCore k x).agenda = s.agenda := rfl
theorem State.setCore_core (s : State) (k : Nat) (x : Core) (i : Nat) : (s.setCore k x).core i = if i = k then x else s.core i :=
  tget_tset _ _ _ _ _
@[simp] theorem State.setCore_core_self (s : State) (k : Nat) (x : Core) : (s.setCore k x).core k = x := tget_tset_self _ _ _ _
@[simp] theorem State.setCore_cluster (s : State) (k : Nat) (x : Core) (i : Nat) : (s.setCore k x).cluster i = s.cluster i := rfl
@[simp] theorem State.setCore_region (s : State) (k : Nat) (x : Core) (i : Nat) : (s.setCore k x).region i = s.region i := rfl
@[simp] theorem State.setCore_part (s : State) (k : Nat) (x : Core) (i : Nat) : (s.setCore k x).part i = s.part i := rfl
@[simp] theorem State.setCore_port (s : State) (k : Nat) (x : Core) (i : Nat) : (s.setCore k x).port i = s.port i := rfl

/-! ## setCluster -/

@[simp] theorem State.setCluster_mem (s : State) (k : Nat) (x : Cluster) : (s.setCluster k x).mem = s.mem := rfl
@[simp] theorem State.setCluster_host (s : State) (k : Nat) (x : Cluster) : (s.setCluster k x).host = s.host := rfl
@[simp] theorem State.setCluster_hostHoles (s : State) (k : Nat) (x : Cluster) : (s.setCluster k x).hostHoles = s.hostHoles := rfl
@[simp] theorem State.setCluster_regions (s : State) (k : Nat) (x : Cluster) : (s.setCluster k x).regions = s.regions := rfl
@[simp] theorem State.setCluster_clusters (s : State) (k : Nat) (x : Cluster) : (s.setCluster k x).clusters = tset s.clusters k x := rfl
@[simp] theorem State.setCluster_cores (s : State) (k : Nat) (x : Cluster) : (s.setCluster k x).cores = s.cores := rfl
@[simp] theorem State.setCluster_parts (s : State) (k : Nat) (x : Cluster) : (s.setCluster k x).parts = s.parts := rfl
@[simp] theorem State.setCluster_vfs (s : State) (k : Nat) (x : Cluster) : (s.setCluster k x).vfs = s.vfs := rfl
@[simp] theorem State.setCluster_lanes (s : State) (k : Nat) (x : Cluster) : (s.setCluster k x).lanes = s.lanes := rfl
@[simp] theorem State.setCluster_packets (s : State) (k : Nat) (x : Cluster) : (s.setCluster k x).packets = s.packets := rfl
@[simp] theorem State.setCluster_feOps (s : State) (k : Nat) (x : Cluster) : (s.setCluster k x).feOps = s.feOps := rfl
@[simp] theorem State.setCluster_spoiled (s : State) (k : Nat) (x : Cluster) : (s.setCluster k x).spoiled = s.spoiled := rfl
@[simp] theorem State.setCluster_notified (s : State) (k : Nat) (x : Cluster) : (s.setCluster k x).notified = s.notified := rfl
@[simp] theorem State.setCluster_vfmap (s : State) (k : Nat) (x : Cluster) : (s.setCluster k x).vfmap = s.vfmap := rfl
@[simp] theorem State.setCluster_ports (s : State) (k : Nat) (x : Cluster) : (s.setCluster k x).ports = s.ports := rfl
@[simp] theorem State.setCluster_outReqs (s : State) (k : Nat) (x : Cluster) : (s.setCluster k x).outReqs = s.outReqs := rfl
@[simp] theorem State.setCluster_paths (s : State) (k : Nat) (x : Cluster) : (s.setCluster k x).paths = s.paths := rfl
@[simp] theorem State.setCluster_inPaths (s : State) (k : Nat) (x : Cluster) : (s.setCluster k x).inPaths = s.inPaths := rfl
@[simp] theorem State.setCluster_outbox (s : State) (k : Nat) (x : Cluster) : (s.setCluster k x).outbox = s.outbox := rfl
@[simp] theorem State.setCluster_msi (s : State) (k : Nat) (x : Cluster) : (s.setCluster k x).msi = s.msi := rfl
@[simp] theorem State.setCluster_pkg (s : State) (k : Nat) (x : Cluster) : (s.setCluster k x).pkg = s.pkg := rfl
@[simp] theorem State.setCluster_launches (s : State) (k : Nat) (x : Cluster) : (s.setCluster k x).launches = s.launches := rfl
@[simp] theorem State.setCluster_blocks (s : State) (k : Nat) (x : Cluster) : (s.setCluster k x).blocks = s.blocks := rfl
@[simp] theorem State.setCluster_groups (s : State) (k : Nat) (x : Cluster) : (s.setCluster k x).groups = s.groups := rfl
@[simp] theorem State.setCluster_warps (s : State) (k : Nat) (x : Cluster) : (s.setCluster k x).warps = s.warps := rfl
@[simp] theorem State.setCluster_accs (s : State) (k : Nat) (x : Cluster) : (s.setCluster k x).accs = s.accs := rfl
@[simp] theorem State.setCluster_sfus (s : State) (k : Nat) (x : Cluster) : (s.setCluster k x).sfus = s.sfus := rfl
@[simp] theorem State.setCluster_ops (s : State) (k : Nat) (x : Cluster) : (s.setCluster k x).ops = s.ops := rfl
@[simp] theorem State.setCluster_fresh (s : State) (k : Nat) (x : Cluster) : (s.setCluster k x).fresh = s.fresh := rfl
@[simp] theorem State.setCluster_launchIds (s : State) (k : Nat) (x : Cluster) : (s.setCluster k x).launchIds = s.launchIds := rfl
@[simp] theorem State.setCluster_draws (s : State) (k : Nat) (x : Cluster) : (s.setCluster k x).draws = s.draws := rfl
@[simp] theorem State.setCluster_cur (s : State) (k : Nat) (x : Cluster) : (s.setCluster k x).cur = s.cur := rfl
@[simp] theorem State.setCluster_agenda (s : State) (k : Nat) (x : Cluster) : (s.setCluster k x).agenda = s.agenda := rfl
@[simp] theorem State.setCluster_core (s : State) (k : Nat) (x : Cluster) (i : Nat) : (s.setCluster k x).core i = s.core i := rfl
theorem State.setCluster_cluster (s : State) (k : Nat) (x : Cluster) (i : Nat) : (s.setCluster k x).cluster i = if i = k then x else s.cluster i :=
  tget_tset _ _ _ _ _
@[simp] theorem State.setCluster_cluster_self (s : State) (k : Nat) (x : Cluster) : (s.setCluster k x).cluster k = x := tget_tset_self _ _ _ _
@[simp] theorem State.setCluster_region (s : State) (k : Nat) (x : Cluster) (i : Nat) : (s.setCluster k x).region i = s.region i := rfl
@[simp] theorem State.setCluster_part (s : State) (k : Nat) (x : Cluster) (i : Nat) : (s.setCluster k x).part i = s.part i := rfl
@[simp] theorem State.setCluster_port (s : State) (k : Nat) (x : Cluster) (i : Nat) : (s.setCluster k x).port i = s.port i := rfl

/-! ## setRegion -/

@[simp] theorem State.setRegion_mem (s : State) (k : Nat) (x : Region) : (s.setRegion k x).mem = s.mem := rfl
@[simp] theorem State.setRegion_host (s : State) (k : Nat) (x : Region) : (s.setRegion k x).host = s.host := rfl
@[simp] theorem State.setRegion_hostHoles (s : State) (k : Nat) (x : Region) : (s.setRegion k x).hostHoles = s.hostHoles := rfl
@[simp] theorem State.setRegion_regions (s : State) (k : Nat) (x : Region) : (s.setRegion k x).regions = tset s.regions k x := rfl
@[simp] theorem State.setRegion_clusters (s : State) (k : Nat) (x : Region) : (s.setRegion k x).clusters = s.clusters := rfl
@[simp] theorem State.setRegion_cores (s : State) (k : Nat) (x : Region) : (s.setRegion k x).cores = s.cores := rfl
@[simp] theorem State.setRegion_parts (s : State) (k : Nat) (x : Region) : (s.setRegion k x).parts = s.parts := rfl
@[simp] theorem State.setRegion_vfs (s : State) (k : Nat) (x : Region) : (s.setRegion k x).vfs = s.vfs := rfl
@[simp] theorem State.setRegion_lanes (s : State) (k : Nat) (x : Region) : (s.setRegion k x).lanes = s.lanes := rfl
@[simp] theorem State.setRegion_packets (s : State) (k : Nat) (x : Region) : (s.setRegion k x).packets = s.packets := rfl
@[simp] theorem State.setRegion_feOps (s : State) (k : Nat) (x : Region) : (s.setRegion k x).feOps = s.feOps := rfl
@[simp] theorem State.setRegion_spoiled (s : State) (k : Nat) (x : Region) : (s.setRegion k x).spoiled = s.spoiled := rfl
@[simp] theorem State.setRegion_notified (s : State) (k : Nat) (x : Region) : (s.setRegion k x).notified = s.notified := rfl
@[simp] theorem State.setRegion_vfmap (s : State) (k : Nat) (x : Region) : (s.setRegion k x).vfmap = s.vfmap := rfl
@[simp] theorem State.setRegion_ports (s : State) (k : Nat) (x : Region) : (s.setRegion k x).ports = s.ports := rfl
@[simp] theorem State.setRegion_outReqs (s : State) (k : Nat) (x : Region) : (s.setRegion k x).outReqs = s.outReqs := rfl
@[simp] theorem State.setRegion_paths (s : State) (k : Nat) (x : Region) : (s.setRegion k x).paths = s.paths := rfl
@[simp] theorem State.setRegion_inPaths (s : State) (k : Nat) (x : Region) : (s.setRegion k x).inPaths = s.inPaths := rfl
@[simp] theorem State.setRegion_outbox (s : State) (k : Nat) (x : Region) : (s.setRegion k x).outbox = s.outbox := rfl
@[simp] theorem State.setRegion_msi (s : State) (k : Nat) (x : Region) : (s.setRegion k x).msi = s.msi := rfl
@[simp] theorem State.setRegion_pkg (s : State) (k : Nat) (x : Region) : (s.setRegion k x).pkg = s.pkg := rfl
@[simp] theorem State.setRegion_launches (s : State) (k : Nat) (x : Region) : (s.setRegion k x).launches = s.launches := rfl
@[simp] theorem State.setRegion_blocks (s : State) (k : Nat) (x : Region) : (s.setRegion k x).blocks = s.blocks := rfl
@[simp] theorem State.setRegion_groups (s : State) (k : Nat) (x : Region) : (s.setRegion k x).groups = s.groups := rfl
@[simp] theorem State.setRegion_warps (s : State) (k : Nat) (x : Region) : (s.setRegion k x).warps = s.warps := rfl
@[simp] theorem State.setRegion_accs (s : State) (k : Nat) (x : Region) : (s.setRegion k x).accs = s.accs := rfl
@[simp] theorem State.setRegion_sfus (s : State) (k : Nat) (x : Region) : (s.setRegion k x).sfus = s.sfus := rfl
@[simp] theorem State.setRegion_ops (s : State) (k : Nat) (x : Region) : (s.setRegion k x).ops = s.ops := rfl
@[simp] theorem State.setRegion_fresh (s : State) (k : Nat) (x : Region) : (s.setRegion k x).fresh = s.fresh := rfl
@[simp] theorem State.setRegion_launchIds (s : State) (k : Nat) (x : Region) : (s.setRegion k x).launchIds = s.launchIds := rfl
@[simp] theorem State.setRegion_draws (s : State) (k : Nat) (x : Region) : (s.setRegion k x).draws = s.draws := rfl
@[simp] theorem State.setRegion_cur (s : State) (k : Nat) (x : Region) : (s.setRegion k x).cur = s.cur := rfl
@[simp] theorem State.setRegion_agenda (s : State) (k : Nat) (x : Region) : (s.setRegion k x).agenda = s.agenda := rfl
@[simp] theorem State.setRegion_core (s : State) (k : Nat) (x : Region) (i : Nat) : (s.setRegion k x).core i = s.core i := rfl
@[simp] theorem State.setRegion_cluster (s : State) (k : Nat) (x : Region) (i : Nat) : (s.setRegion k x).cluster i = s.cluster i := rfl
theorem State.setRegion_region (s : State) (k : Nat) (x : Region) (i : Nat) : (s.setRegion k x).region i = if i = k then x else s.region i :=
  tget_tset _ _ _ _ _
@[simp] theorem State.setRegion_region_self (s : State) (k : Nat) (x : Region) : (s.setRegion k x).region k = x := tget_tset_self _ _ _ _
@[simp] theorem State.setRegion_part (s : State) (k : Nat) (x : Region) (i : Nat) : (s.setRegion k x).part i = s.part i := rfl
@[simp] theorem State.setRegion_port (s : State) (k : Nat) (x : Region) (i : Nat) : (s.setRegion k x).port i = s.port i := rfl

/-! ## setPart -/

@[simp] theorem State.setPart_mem (s : State) (k : Nat) (x : Part) : (s.setPart k x).mem = s.mem := rfl
@[simp] theorem State.setPart_host (s : State) (k : Nat) (x : Part) : (s.setPart k x).host = s.host := rfl
@[simp] theorem State.setPart_hostHoles (s : State) (k : Nat) (x : Part) : (s.setPart k x).hostHoles = s.hostHoles := rfl
@[simp] theorem State.setPart_regions (s : State) (k : Nat) (x : Part) : (s.setPart k x).regions = s.regions := rfl
@[simp] theorem State.setPart_clusters (s : State) (k : Nat) (x : Part) : (s.setPart k x).clusters = s.clusters := rfl
@[simp] theorem State.setPart_cores (s : State) (k : Nat) (x : Part) : (s.setPart k x).cores = s.cores := rfl
@[simp] theorem State.setPart_parts (s : State) (k : Nat) (x : Part) : (s.setPart k x).parts = tset s.parts k x := rfl
@[simp] theorem State.setPart_vfs (s : State) (k : Nat) (x : Part) : (s.setPart k x).vfs = s.vfs := rfl
@[simp] theorem State.setPart_lanes (s : State) (k : Nat) (x : Part) : (s.setPart k x).lanes = s.lanes := rfl
@[simp] theorem State.setPart_packets (s : State) (k : Nat) (x : Part) : (s.setPart k x).packets = s.packets := rfl
@[simp] theorem State.setPart_feOps (s : State) (k : Nat) (x : Part) : (s.setPart k x).feOps = s.feOps := rfl
@[simp] theorem State.setPart_spoiled (s : State) (k : Nat) (x : Part) : (s.setPart k x).spoiled = s.spoiled := rfl
@[simp] theorem State.setPart_notified (s : State) (k : Nat) (x : Part) : (s.setPart k x).notified = s.notified := rfl
@[simp] theorem State.setPart_vfmap (s : State) (k : Nat) (x : Part) : (s.setPart k x).vfmap = s.vfmap := rfl
@[simp] theorem State.setPart_ports (s : State) (k : Nat) (x : Part) : (s.setPart k x).ports = s.ports := rfl
@[simp] theorem State.setPart_outReqs (s : State) (k : Nat) (x : Part) : (s.setPart k x).outReqs = s.outReqs := rfl
@[simp] theorem State.setPart_paths (s : State) (k : Nat) (x : Part) : (s.setPart k x).paths = s.paths := rfl
@[simp] theorem State.setPart_inPaths (s : State) (k : Nat) (x : Part) : (s.setPart k x).inPaths = s.inPaths := rfl
@[simp] theorem State.setPart_outbox (s : State) (k : Nat) (x : Part) : (s.setPart k x).outbox = s.outbox := rfl
@[simp] theorem State.setPart_msi (s : State) (k : Nat) (x : Part) : (s.setPart k x).msi = s.msi := rfl
@[simp] theorem State.setPart_pkg (s : State) (k : Nat) (x : Part) : (s.setPart k x).pkg = s.pkg := rfl
@[simp] theorem State.setPart_launches (s : State) (k : Nat) (x : Part) : (s.setPart k x).launches = s.launches := rfl
@[simp] theorem State.setPart_blocks (s : State) (k : Nat) (x : Part) : (s.setPart k x).blocks = s.blocks := rfl
@[simp] theorem State.setPart_groups (s : State) (k : Nat) (x : Part) : (s.setPart k x).groups = s.groups := rfl
@[simp] theorem State.setPart_warps (s : State) (k : Nat) (x : Part) : (s.setPart k x).warps = s.warps := rfl
@[simp] theorem State.setPart_accs (s : State) (k : Nat) (x : Part) : (s.setPart k x).accs = s.accs := rfl
@[simp] theorem State.setPart_sfus (s : State) (k : Nat) (x : Part) : (s.setPart k x).sfus = s.sfus := rfl
@[simp] theorem State.setPart_ops (s : State) (k : Nat) (x : Part) : (s.setPart k x).ops = s.ops := rfl
@[simp] theorem State.setPart_fresh (s : State) (k : Nat) (x : Part) : (s.setPart k x).fresh = s.fresh := rfl
@[simp] theorem State.setPart_launchIds (s : State) (k : Nat) (x : Part) : (s.setPart k x).launchIds = s.launchIds := rfl
@[simp] theorem State.setPart_draws (s : State) (k : Nat) (x : Part) : (s.setPart k x).draws = s.draws := rfl
@[simp] theorem State.setPart_cur (s : State) (k : Nat) (x : Part) : (s.setPart k x).cur = s.cur := rfl
@[simp] theorem State.setPart_agenda (s : State) (k : Nat) (x : Part) : (s.setPart k x).agenda = s.agenda := rfl
@[simp] theorem State.setPart_core (s : State) (k : Nat) (x : Part) (i : Nat) : (s.setPart k x).core i = s.core i := rfl
@[simp] theorem State.setPart_cluster (s : State) (k : Nat) (x : Part) (i : Nat) : (s.setPart k x).cluster i = s.cluster i := rfl
@[simp] theorem State.setPart_region (s : State) (k : Nat) (x : Part) (i : Nat) : (s.setPart k x).region i = s.region i := rfl
theorem State.setPart_part (s : State) (k : Nat) (x : Part) (i : Nat) : (s.setPart k x).part i = if i = k then x else s.part i :=
  tget_tset _ _ _ _ _
@[simp] theorem State.setPart_part_self (s : State) (k : Nat) (x : Part) : (s.setPart k x).part k = x := tget_tset_self _ _ _ _
@[simp] theorem State.setPart_port (s : State) (k : Nat) (x : Part) (i : Nat) : (s.setPart k x).port i = s.port i := rfl

/-! ## setPort -/

@[simp] theorem State.setPort_mem (s : State) (k : Nat) (x : Port) : (s.setPort k x).mem = s.mem := rfl
@[simp] theorem State.setPort_host (s : State) (k : Nat) (x : Port) : (s.setPort k x).host = s.host := rfl
@[simp] theorem State.setPort_hostHoles (s : State) (k : Nat) (x : Port) : (s.setPort k x).hostHoles = s.hostHoles := rfl
@[simp] theorem State.setPort_regions (s : State) (k : Nat) (x : Port) : (s.setPort k x).regions = s.regions := rfl
@[simp] theorem State.setPort_clusters (s : State) (k : Nat) (x : Port) : (s.setPort k x).clusters = s.clusters := rfl
@[simp] theorem State.setPort_cores (s : State) (k : Nat) (x : Port) : (s.setPort k x).cores = s.cores := rfl
@[simp] theorem State.setPort_parts (s : State) (k : Nat) (x : Port) : (s.setPort k x).parts = s.parts := rfl
@[simp] theorem State.setPort_vfs (s : State) (k : Nat) (x : Port) : (s.setPort k x).vfs = s.vfs := rfl
@[simp] theorem State.setPort_lanes (s : State) (k : Nat) (x : Port) : (s.setPort k x).lanes = s.lanes := rfl
@[simp] theorem State.setPort_packets (s : State) (k : Nat) (x : Port) : (s.setPort k x).packets = s.packets := rfl
@[simp] theorem State.setPort_feOps (s : State) (k : Nat) (x : Port) : (s.setPort k x).feOps = s.feOps := rfl
@[simp] theorem State.setPort_spoiled (s : State) (k : Nat) (x : Port) : (s.setPort k x).spoiled = s.spoiled := rfl
@[simp] theorem State.setPort_notified (s : State) (k : Nat) (x : Port) : (s.setPort k x).notified = s.notified := rfl
@[simp] theorem State.setPort_vfmap (s : State) (k : Nat) (x : Port) : (s.setPort k x).vfmap = s.vfmap := rfl
@[simp] theorem State.setPort_ports (s : State) (k : Nat) (x : Port) : (s.setPort k x).ports = tset s.ports k x := rfl
@[simp] theorem State.setPort_outReqs (s : State) (k : Nat) (x : Port) : (s.setPort k x).outReqs = s.outReqs := rfl
@[simp] theorem State.setPort_paths (s : State) (k : Nat) (x : Port) : (s.setPort k x).paths = s.paths := rfl
@[simp] theorem State.setPort_inPaths (s : State) (k : Nat) (x : Port) : (s.setPort k x).inPaths = s.inPaths := rfl
@[simp] theorem State.setPort_outbox (s : State) (k : Nat) (x : Port) : (s.setPort k x).outbox = s.outbox := rfl
@[simp] theorem State.setPort_msi (s : State) (k : Nat) (x : Port) : (s.setPort k x).msi = s.msi := rfl
@[simp] theorem State.setPort_pkg (s : State) (k : Nat) (x : Port) : (s.setPort k x).pkg = s.pkg := rfl
@[simp] theorem State.setPort_launches (s : State) (k : Nat) (x : Port) : (s.setPort k x).launches = s.launches := rfl
@[simp] theorem State.setPort_blocks (s : State) (k : Nat) (x : Port) : (s.setPort k x).blocks = s.blocks := rfl
@[simp] theorem State.setPort_groups (s : State) (k : Nat) (x : Port) : (s.setPort k x).groups = s.groups := rfl
@[simp] theorem State.setPort_warps (s : State) (k : Nat) (x : Port) : (s.setPort k x).warps = s.warps := rfl
@[simp] theorem State.setPort_accs (s : State) (k : Nat) (x : Port) : (s.setPort k x).accs = s.accs := rfl
@[simp] theorem State.setPort_sfus (s : State) (k : Nat) (x : Port) : (s.setPort k x).sfus = s.sfus := rfl
@[simp] theorem State.setPort_ops (s : State) (k : Nat) (x : Port) : (s.setPort k x).ops = s.ops := rfl
@[simp] theorem State.setPort_fresh (s : State) (k : Nat) (x : Port) : (s.setPort k x).fresh = s.fresh := rfl
@[simp] theorem State.setPort_launchIds (s : State) (k : Nat) (x : Port) : (s.setPort k x).launchIds = s.launchIds := rfl
@[simp] theorem State.setPort_draws (s : State) (k : Nat) (x : Port) : (s.setPort k x).draws = s.draws := rfl
@[simp] theorem State.setPort_cur (s : State) (k : Nat) (x : Port) : (s.setPort k x).cur = s.cur := rfl
@[simp] theorem State.setPort_agenda (s : State) (k : Nat) (x : Port) : (s.setPort k x).agenda = s.agenda := rfl
@[simp] theorem State.setPort_core (s : State) (k : Nat) (x : Port) (i : Nat) : (s.setPort k x).core i = s.core i := rfl
@[simp] theorem State.setPort_cluster (s : State) (k : Nat) (x : Port) (i : Nat) : (s.setPort k x).cluster i = s.cluster i := rfl
@[simp] theorem State.setPort_region (s : State) (k : Nat) (x : Port) (i : Nat) : (s.setPort k x).region i = s.region i := rfl
@[simp] theorem State.setPort_part (s : State) (k : Nat) (x : Port) (i : Nat) : (s.setPort k x).part i = s.part i := rfl
theorem State.setPort_port (s : State) (k : Nat) (x : Port) (i : Nat) : (s.setPort k x).port i = if i = k then x else s.port i :=
  tget_tset _ _ _ _ _
@[simp] theorem State.setPort_port_self (s : State) (k : Nat) (x : Port) : (s.setPort k x).port k = x := tget_tset_self _ _ _ _

/-! ## putWarp -/

@[simp] theorem State.putWarp_mem (s : State) (w : Nat) (W : Warp) : (s.putWarp w W).mem = s.mem := by
  unfold State.putWarp; cases W.shr <;> rfl
@[simp] theorem State.putWarp_host (s : State) (w : Nat) (W : Warp) : (s.putWarp w W).host = s.host := by
  unfold State.putWarp; cases W.shr <;> rfl
@[simp] theorem State.putWarp_hostHoles (s : State) (w : Nat) (W : Warp) : (s.putWarp w W).hostHoles = s.hostHoles := by
  unfold State.putWarp; cases W.shr <;> rfl
@[simp] theorem State.putWarp_regions (s : State) (w : Nat) (W : Warp) : (s.putWarp w W).regions = s.regions := by
  unfold State.putWarp; cases W.shr <;> rfl
@[simp] theorem State.putWarp_clusters (s : State) (w : Nat) (W : Warp) : (s.putWarp w W).clusters = s.clusters := by
  unfold State.putWarp; cases W.shr <;> rfl
@[simp] theorem State.putWarp_cores (s : State) (w : Nat) (W : Warp) : (s.putWarp w W).cores = s.cores := by
  unfold State.putWarp; cases W.shr <;> rfl
@[simp] theorem State.putWarp_parts (s : State) (w : Nat) (W : Warp) : (s.putWarp w W).parts = s.parts := by
  unfold State.putWarp; cases W.shr <;> rfl
@[simp] theorem State.putWarp_vfs (s : State) (w : Nat) (W : Warp) : (s.putWarp w W).vfs = s.vfs := by
  unfold State.putWarp; cases W.shr <;> rfl
@[simp] theorem State.putWarp_lanes (s : State) (w : Nat) (W : Warp) : (s.putWarp w W).lanes = s.lanes := by
  unfold State.putWarp; cases W.shr <;> rfl
@[simp] theorem State.putWarp_packets (s : State) (w : Nat) (W : Warp) : (s.putWarp w W).packets = s.packets := by
  unfold State.putWarp; cases W.shr <;> rfl
@[simp] theorem State.putWarp_feOps (s : State) (w : Nat) (W : Warp) : (s.putWarp w W).feOps = s.feOps := by
  unfold State.putWarp; cases W.shr <;> rfl
@[simp] theorem State.putWarp_spoiled (s : State) (w : Nat) (W : Warp) : (s.putWarp w W).spoiled = s.spoiled := by
  unfold State.putWarp; cases W.shr <;> rfl
@[simp] theorem State.putWarp_notified (s : State) (w : Nat) (W : Warp) : (s.putWarp w W).notified = s.notified := by
  unfold State.putWarp; cases W.shr <;> rfl
@[simp] theorem State.putWarp_vfmap (s : State) (w : Nat) (W : Warp) : (s.putWarp w W).vfmap = s.vfmap := by
  unfold State.putWarp; cases W.shr <;> rfl
@[simp] theorem State.putWarp_ports (s : State) (w : Nat) (W : Warp) : (s.putWarp w W).ports = s.ports := by
  unfold State.putWarp; cases W.shr <;> rfl
@[simp] theorem State.putWarp_outReqs (s : State) (w : Nat) (W : Warp) : (s.putWarp w W).outReqs = s.outReqs := by
  unfold State.putWarp; cases W.shr <;> rfl
@[simp] theorem State.putWarp_paths (s : State) (w : Nat) (W : Warp) : (s.putWarp w W).paths = s.paths := by
  unfold State.putWarp; cases W.shr <;> rfl
@[simp] theorem State.putWarp_inPaths (s : State) (w : Nat) (W : Warp) : (s.putWarp w W).inPaths = s.inPaths := by
  unfold State.putWarp; cases W.shr <;> rfl
@[simp] theorem State.putWarp_outbox (s : State) (w : Nat) (W : Warp) : (s.putWarp w W).outbox = s.outbox := by
  unfold State.putWarp; cases W.shr <;> rfl
@[simp] theorem State.putWarp_msi (s : State) (w : Nat) (W : Warp) : (s.putWarp w W).msi = s.msi := by
  unfold State.putWarp; cases W.shr <;> rfl
@[simp] theorem State.putWarp_pkg (s : State) (w : Nat) (W : Warp) : (s.putWarp w W).pkg = s.pkg := by
  unfold State.putWarp; cases W.shr <;> rfl
@[simp] theorem State.putWarp_launches (s : State) (w : Nat) (W : Warp) : (s.putWarp w W).launches = s.launches := by
  unfold State.putWarp; cases W.shr <;> rfl
@[simp] theorem State.putWarp_blocks (s : State) (w : Nat) (W : Warp) : (s.putWarp w W).blocks = s.blocks := by
  unfold State.putWarp; cases W.shr <;> rfl
@[simp] theorem State.putWarp_groups (s : State) (w : Nat) (W : Warp) : (s.putWarp w W).groups = s.groups := by
  unfold State.putWarp; cases W.shr <;> rfl
@[simp] theorem State.putWarp_accs (s : State) (w : Nat) (W : Warp) : (s.putWarp w W).accs = s.accs := by
  unfold State.putWarp; cases W.shr <;> rfl
@[simp] theorem State.putWarp_sfus (s : State) (w : Nat) (W : Warp) : (s.putWarp w W).sfus = s.sfus := by
  unfold State.putWarp; cases W.shr <;> rfl
@[simp] theorem State.putWarp_ops (s : State) (w : Nat) (W : Warp) : (s.putWarp w W).ops = s.ops := by
  unfold State.putWarp; cases W.shr <;> rfl
@[simp] theorem State.putWarp_fresh (s : State) (w : Nat) (W : Warp) : (s.putWarp w W).fresh = s.fresh := by
  unfold State.putWarp; cases W.shr <;> rfl
@[simp] theorem State.putWarp_launchIds (s : State) (w : Nat) (W : Warp) : (s.putWarp w W).launchIds = s.launchIds := by
  unfold State.putWarp; cases W.shr <;> rfl
@[simp] theorem State.putWarp_draws (s : State) (w : Nat) (W : Warp) : (s.putWarp w W).draws = s.draws := by
  unfold State.putWarp; cases W.shr <;> rfl
@[simp] theorem State.putWarp_cur (s : State) (w : Nat) (W : Warp) : (s.putWarp w W).cur = s.cur := by
  unfold State.putWarp; cases W.shr <;> rfl
@[simp] theorem State.putWarp_agenda (s : State) (w : Nat) (W : Warp) : (s.putWarp w W).agenda = s.agenda := by
  unfold State.putWarp; cases W.shr <;> rfl
@[simp] theorem State.putWarp_core (s : State) (w : Nat) (W : Warp) (i : Nat) : (s.putWarp w W).core i = s.core i := by
  simp only [State.core, State.putWarp_cores]
@[simp] theorem State.putWarp_cluster (s : State) (w : Nat) (W : Warp) (i : Nat) : (s.putWarp w W).cluster i = s.cluster i := by
  simp only [State.cluster, State.putWarp_clusters]
@[simp] theorem State.putWarp_region (s : State) (w : Nat) (W : Warp) (i : Nat) : (s.putWarp w W).region i = s.region i := by
  simp only [State.region, State.putWarp_regions]
@[simp] theorem State.putWarp_part (s : State) (w : Nat) (W : Warp) (i : Nat) : (s.putWarp w W).part i = s.part i := by
  simp only [State.part, State.putWarp_parts]
@[simp] theorem State.putWarp_port (s : State) (w : Nat) (W : Warp) (i : Nat) : (s.putWarp w W).port i = s.port i := by
  simp only [State.port, State.putWarp_ports]

/-- A warp that shares no registers is put back alone. -/
theorem State.putWarp_warps_alone (s : State) (w : Nat) (W : Warp) (h : W.shr = none) :
    (s.putWarp w W).warps = tset s.warps w W := by unfold State.putWarp; rw [h]

/-! ## addAcc and signal -/

@[simp] theorem State.addAcc_mem (s : State) (a : Access) : (s.addAcc a).mem = s.mem := rfl
@[simp] theorem State.addAcc_host (s : State) (a : Access) : (s.addAcc a).host = s.host := rfl
@[simp] theorem State.addAcc_hostHoles (s : State) (a : Access) : (s.addAcc a).hostHoles = s.hostHoles := rfl
@[simp] theorem State.addAcc_regions (s : State) (a : Access) : (s.addAcc a).regions = s.regions := rfl
@[simp] theorem State.addAcc_clusters (s : State) (a : Access) : (s.addAcc a).clusters = s.clusters := rfl
@[simp] theorem State.addAcc_cores (s : State) (a : Access) : (s.addAcc a).cores = s.cores := rfl
@[simp] theorem State.addAcc_parts (s : State) (a : Access) : (s.addAcc a).parts = s.parts := rfl
@[simp] theorem State.addAcc_vfs (s : State) (a : Access) : (s.addAcc a).vfs = s.vfs := rfl
@[simp] theorem State.addAcc_lanes (s : State) (a : Access) : (s.addAcc a).lanes = s.lanes := rfl
@[simp] theorem State.addAcc_packets (s : State) (a : Access) : (s.addAcc a).packets = s.packets := rfl
@[simp] theorem State.addAcc_feOps (s : State) (a : Access) : (s.addAcc a).feOps = s.feOps := rfl
@[simp] theorem State.addAcc_spoiled (s : State) (a : Access) : (s.addAcc a).spoiled = s.spoiled := rfl
@[simp] theorem State.addAcc_notified (s : State) (a : Access) : (s.addAcc a).notified = s.notified := rfl
@[simp] theorem State.addAcc_vfmap (s : State) (a : Access) : (s.addAcc a).vfmap = s.vfmap := rfl
@[simp] theorem State.addAcc_ports (s : State) (a : Access) : (s.addAcc a).ports = s.ports := rfl
@[simp] theorem State.addAcc_outReqs (s : State) (a : Access) : (s.addAcc a).outReqs = s.outReqs := rfl
@[simp] theorem State.addAcc_paths (s : State) (a : Access) : (s.addAcc a).paths = s.paths := rfl
@[simp] theorem State.addAcc_inPaths (s : State) (a : Access) : (s.addAcc a).inPaths = s.inPaths := rfl
@[simp] theorem State.addAcc_outbox (s : State) (a : Access) : (s.addAcc a).outbox = s.outbox := rfl
@[simp] theorem State.addAcc_msi (s : State) (a : Access) : (s.addAcc a).msi = s.msi := rfl
@[simp] theorem State.addAcc_pkg (s : State) (a : Access) : (s.addAcc a).pkg = s.pkg := rfl
@[simp] theorem State.addAcc_launches (s : State) (a : Access) : (s.addAcc a).launches = s.launches := rfl
@[simp] theorem State.addAcc_blocks (s : State) (a : Access) : (s.addAcc a).blocks = s.blocks := rfl
@[simp] theorem State.addAcc_groups (s : State) (a : Access) : (s.addAcc a).groups = s.groups := rfl
@[simp] theorem State.addAcc_warps (s : State) (a : Access) : (s.addAcc a).warps = s.warps := rfl
@[simp] theorem State.addAcc_sfus (s : State) (a : Access) : (s.addAcc a).sfus = s.sfus := rfl
@[simp] theorem State.addAcc_ops (s : State) (a : Access) : (s.addAcc a).ops = s.ops := rfl
@[simp] theorem State.addAcc_launchIds (s : State) (a : Access) : (s.addAcc a).launchIds = s.launchIds := rfl
@[simp] theorem State.addAcc_draws (s : State) (a : Access) : (s.addAcc a).draws = s.draws := rfl
@[simp] theorem State.addAcc_cur (s : State) (a : Access) : (s.addAcc a).cur = s.cur := rfl
@[simp] theorem State.addAcc_agenda (s : State) (a : Access) : (s.addAcc a).agenda = s.agenda := rfl
@[simp] theorem State.addAcc_accs (s : State) (a : Access) : (s.addAcc a).accs = tset s.accs s.fresh a := rfl
@[simp] theorem State.addAcc_fresh (s : State) (a : Access) : (s.addAcc a).fresh = s.fresh + 1 := rfl
@[simp] theorem State.signal_mem (s : State) (vf : Option Nat) (v : Nat) : (s.signal vf v).mem = s.mem := rfl
@[simp] theorem State.signal_host (s : State) (vf : Option Nat) (v : Nat) : (s.signal vf v).host = s.host := rfl
@[simp] theorem State.signal_hostHoles (s : State) (vf : Option Nat) (v : Nat) : (s.signal vf v).hostHoles = s.hostHoles := rfl
@[simp] theorem State.signal_regions (s : State) (vf : Option Nat) (v : Nat) : (s.signal vf v).regions = s.regions := rfl
@[simp] theorem State.signal_clusters (s : State) (vf : Option Nat) (v : Nat) : (s.signal vf v).clusters = s.clusters := rfl
@[simp] theorem State.signal_cores (s : State) (vf : Option Nat) (v : Nat) : (s.signal vf v).cores = s.cores := rfl
@[simp] theorem State.signal_parts (s : State) (vf : Option Nat) (v : Nat) : (s.signal vf v).parts = s.parts := rfl
@[simp] theorem State.signal_vfs (s : State) (vf : Option Nat) (v : Nat) : (s.signal vf v).vfs = s.vfs := rfl
@[simp] theorem State.signal_lanes (s : State) (vf : Option Nat) (v : Nat) : (s.signal vf v).lanes = s.lanes := rfl
@[simp] theorem State.signal_packets (s : State) (vf : Option Nat) (v : Nat) : (s.signal vf v).packets = s.packets := rfl
@[simp] theorem State.signal_feOps (s : State) (vf : Option Nat) (v : Nat) : (s.signal vf v).feOps = s.feOps := rfl
@[simp] theorem State.signal_spoiled (s : State) (vf : Option Nat) (v : Nat) : (s.signal vf v).spoiled = s.spoiled := rfl
@[simp] theorem State.signal_notified (s : State) (vf : Option Nat) (v : Nat) : (s.signal vf v).notified = s.notified := rfl
@[simp] theorem State.signal_vfmap (s : State) (vf : Option Nat) (v : Nat) : (s.signal vf v).vfmap = s.vfmap := rfl
@[simp] theorem State.signal_ports (s : State) (vf : Option Nat) (v : Nat) : (s.signal vf v).ports = s.ports := rfl
@[simp] theorem State.signal_outReqs (s : State) (vf : Option Nat) (v : Nat) : (s.signal vf v).outReqs = s.outReqs := rfl
@[simp] theorem State.signal_paths (s : State) (vf : Option Nat) (v : Nat) : (s.signal vf v).paths = s.paths := rfl
@[simp] theorem State.signal_inPaths (s : State) (vf : Option Nat) (v : Nat) : (s.signal vf v).inPaths = s.inPaths := rfl
@[simp] theorem State.signal_outbox (s : State) (vf : Option Nat) (v : Nat) : (s.signal vf v).outbox = s.outbox := rfl
@[simp] theorem State.signal_pkg (s : State) (vf : Option Nat) (v : Nat) : (s.signal vf v).pkg = s.pkg := rfl
@[simp] theorem State.signal_launches (s : State) (vf : Option Nat) (v : Nat) : (s.signal vf v).launches = s.launches := rfl
@[simp] theorem State.signal_blocks (s : State) (vf : Option Nat) (v : Nat) : (s.signal vf v).blocks = s.blocks := rfl
@[simp] theorem State.signal_groups (s : State) (vf : Option Nat) (v : Nat) : (s.signal vf v).groups = s.groups := rfl
@[simp] theorem State.signal_warps (s : State) (vf : Option Nat) (v : Nat) : (s.signal vf v).warps = s.warps := rfl
@[simp] theorem State.signal_accs (s : State) (vf : Option Nat) (v : Nat) : (s.signal vf v).accs = s.accs := rfl
@[simp] theorem State.signal_sfus (s : State) (vf : Option Nat) (v : Nat) : (s.signal vf v).sfus = s.sfus := rfl
@[simp] theorem State.signal_ops (s : State) (vf : Option Nat) (v : Nat) : (s.signal vf v).ops = s.ops := rfl
@[simp] theorem State.signal_fresh (s : State) (vf : Option Nat) (v : Nat) : (s.signal vf v).fresh = s.fresh := rfl
@[simp] theorem State.signal_launchIds (s : State) (vf : Option Nat) (v : Nat) : (s.signal vf v).launchIds = s.launchIds := rfl
@[simp] theorem State.signal_draws (s : State) (vf : Option Nat) (v : Nat) : (s.signal vf v).draws = s.draws := rfl
@[simp] theorem State.signal_cur (s : State) (vf : Option Nat) (v : Nat) : (s.signal vf v).cur = s.cur := rfl
@[simp] theorem State.signal_agenda (s : State) (vf : Option Nat) (v : Nat) : (s.signal vf v).agenda = s.agenda := rfl
@[simp] theorem State.signal_msi (s : State) (vf : Option Nat) (v : Nat) :
    (s.signal vf v).msi = s.msi ++ [{ vf := vf, vector := v }] := rfl

end Sys2Proof.Machine
end

