-- ==== Sys2Proof/Laws/Issue.lean ====
section
/-! SUPPORT. What an issue does when its operands are ready: one lemma for each shared operation of Operands.lean. -/

namespace Sys2Proof.Machine

/-! ## Who issues -/

theorem issuer_s {s : State} {c : Ctx} (h : issuer s = some c) : c.s = s := by
  unfold issuer at h
  split at h
  · cases h
  · split at h
    · cases h
    · split at h
      · cases h
      · cases h; rfl

/-- The cursor names the warp and the split of the issuing context. -/
theorem issuer_cur {s : State} {c : Ctx} (h : issuer s = some c) :
    s.cur = some (c.w, c.sp.id) ∧ tfind s.warps c.w = some c.W ∧ c.W.split c.sp.id = some c.sp := by
  unfold issuer at h
  split at h
  · cases h
  · next w i hc =>
    split at h
    · cases h
    · next W hW =>
      split at h
      · cases h
      · next X hX =>
        cases h
        have hid : X.id = i := by
          have := List.find?_some hX
          simpa using this
        subst hid
        exact ⟨hc, hW, hX⟩

/-- A split that may issue runs its meaning. -/
theorem run_of_issues {s : State} {c : Ctx} (h : Issues s c) (k : Ctx → State) : run s k = .next (k c) := by
  unfold run
  rw [h.1]
  simp [h.2]

/-- No cause is the lowest of none. -/
@[simp] theorem lowest_nil : lowest [] = none := rfl

/-! ## Operands -/

theorem toPull_nil {c : Ctx} {f : Slot} {P : Mask} {srcs dsts : List Src} (hh : c.sp.home = .ncore f)
    (hs : srcs.all c.readable = true) (hd : dsts.all (c.writable P) = true) : f.toPull P srcs dsts = [] := by
  unfold Slot.toPull
  rw [List.append_eq_nil_iff]
  constructor
  · rw [List.map_eq_nil_iff, List.filter_eq_nil_iff]
    intro x hx
    have := List.all_eq_true.mp hs x hx
    simp only [Ctx.readable, Ctx.hasV, hh, Bool.and_eq_true] at this
    cases hv : x.vec <;> simp_all [Slot.absent]
  · rw [List.map_eq_nil_iff, List.filter_eq_nil_iff]
    intro x hx
    have := List.all_eq_true.mp hd x hx
    simp only [Ctx.writable, Ctx.covers, hh, Bool.and_eq_true] at this
    cases hv : x.vec
    · simp
    · have h2 := this.2
      simp only [hv, Bool.not_true, Bool.false_or, Bool.or_eq_true, beq_iff_eq] at h2
      rcases h2 with h2 | h2 <;> simp [Slot.absent, h2]

/-- R51, R52: with every operand ready and no cause of its own, an instruction goes on. -/
theorem check_go {c : Ctx} {P : Mask} {srcs dsts : List Src} {scal : Bool} {extra : Ctx → List Met}
    {early : Early} (h : c.ready P srcs dsts scal = true) (he : extra c = []) (hy : ∀ e ∈ early, e.2 c = []) :
    c.check P srcs dsts scal extra early = .go := by
  simp only [Ctx.ready, Bool.and_eq_true] at h
  obtain ⟨⟨hs, hd⟩, hc⟩ := h
  have hw : dsts.any c.dstWaits = false := by
    rw [List.any_eq_false]
    intro x hx
    have := List.all_eq_true.mp hd x hx
    simp only [Ctx.writable, Bool.and_eq_true] at this
    simpa using this.1
  have hwait : ∀ xs : List Src, (∀ x ∈ xs, c.srcWaits x = false) → c.waiting xs = false := by
    intro xs hx
    induction xs with
    | nil => rfl
    | cons x xs ih =>
      have h1 := hx x List.mem_cons_self
      have h2 := ih fun y hy => hx y (List.mem_cons_of_mem _ hy)
      simp [Ctx.waiting, h1, h2]
  have hws : c.waiting srcs = false := hwait srcs fun x hx => by
    have := List.all_eq_true.mp hs x hx
    simp only [Ctx.readable, Bool.and_eq_true, beq_iff_eq] at this
    simp [Ctx.srcWaits, this.1]
  have hz : srcs.filterMap c.srcCause = [] := by
    rw [List.filterMap_eq_nil_iff]
    intro x hx
    have := List.all_eq_true.mp hs x hx
    simp only [Ctx.readable, Bool.and_eq_true, beq_iff_eq] at this
    cases hv : x.vec <;> simp_all [Ctx.srcCause]
  have hfrag : (match c.sp.home with
      | .wcore => Ready.go
      | .ncore f => c.fragAsk f P srcs dsts (scal || srcs.any fun x => !x.vec)) = .go := by
    cases hh : c.sp.home with
    | wcore => rfl
    | ncore f =>
      simp only [Ctx.fragAsk, toPull_nil hh hs hd, List.any_nil]
      have : ((scal || srcs.any fun x => !x.vec) && f.snap.isNone) = false := by
        rw [Bool.and_eq_false_iff]
        by_cases hsn : f.snap.isNone
        · left
          rw [Bool.or_eq_false_iff]
          constructor
          · cases scal
            · rfl
            · simp [Ctx.scalarSide, hh] at hc
              rw [Option.isNone_iff_eq_none] at hsn
              simp [hsn] at hc
          · rw [List.any_eq_false]
            intro x hx
            have := List.all_eq_true.mp hs x hx
            simp only [Ctx.readable, Ctx.scalarSide, hh, Bool.and_eq_true] at this
            cases hv : x.vec
            · rw [Option.isNone_iff_eq_none] at hsn
              simp [hv, hsn] at this
            · simp
        · right; cases hsn2 : f.snap <;> simp_all
      simp only [this, List.isEmpty_nil, Bool.not_false, Bool.and_self, if_true]
      cases f.refused <;> rfl
  have hm : c.meets srcs extra early = [] := by
    unfold Ctx.meets
    simp only [hz, he, ite_self, List.nil_append, List.flatMap_eq_nil_iff]
    intro e hm
    rw [hy e hm, ite_self]
  unfold Ctx.check
  cases hh : c.sp.home with
  | wcore => simp [hws, hw, hm]
  | ncore f => simp only [hh] at hfrag; simp [hfrag, hws, hw, hm]

/-- A V-set instruction whose operands are ready acts. -/
theorem vIssue_go {s : State} {c : Ctx} {g : BitVec 3} {words : Nat} {srcs dsts : List Src} {extra : Ctx → List Met}
    {early : Early} (h : VReady s c g srcs dsts) (he : extra c = []) (hy : ∀ e ∈ early, e.2 c = [])
    (k : Ctx → Mask → State) : c.vIssue g words srcs dsts extra k early =
      k ((c.consume srcs).collect ((srcs.filter (·.vec)).map fun x => x.r.toNat)
        ((dsts.filter (·.vec)).map fun x => x.r.toNat)) (c.parts g) := by
  obtain ⟨-, hP, hc, hr⟩ := h
  unfold Ctx.vIssue
  have hcol : (c.sp.isLocal && decide (8 ≤ c.collectors)) = false := by
    rw [Bool.and_eq_false_iff]
    by_cases hl : c.sp.isLocal = true
    · right; simpa using hc hl
    · left; simpa using hl
  simp only [hP, if_false, hcol, check_go hr he hy]
  rfl

/-- A U-set instruction whose guard holds and whose operands are ready acts. -/
theorem uIssue_go {s : State} {c : Ctx} {q : BitVec 3} {neg scal : Bool} {words : Nat} {srcs dsts : List Src}
    {extra : Ctx → List Met} {early : Early} (h : UReady s c q neg scal srcs dsts) (he : extra c = [])
    (hy : ∀ e ∈ early, e.2 c = []) (k : Ctx → State) :
    c.uIssue q neg words scal srcs dsts extra k early = k (c.consume srcs) := by
  obtain ⟨-, hq, hg, hr⟩ := h
  unfold Ctx.uIssue
  have h1 : (if q = 7 then Ready.go else c.check 0 [] [] true noCause) = .go := by
    split
    · rfl
    · next hne =>
      refine check_go ?_ rfl (by simp)
      simp [Ctx.ready, hq.resolve_left hne]
  simp only [h1, hg, check_go hr he hy]
  cases neg <;> rfl

/-- A V-set instruction with no lane to act in goes on (R66). -/
theorem vIssue_none {c : Ctx} {g : BitVec 3} (h : c.parts g = 0) (words : Nat) (srcs dsts : List Src)
    (extra : Ctx → List Met) (k : Ctx → Mask → State) :
    c.vIssue g words srcs dsts extra k = (c.advance words).finish false := by
  unfold Ctx.vIssue; simp [h]

end Sys2Proof.Machine
end

