-- ==== Sys2Proof/Laws/Effects.lean ====
section
/-! SUPPORT. What the named operations on registers leave and change: the vocabulary of Safety.lean for a context and
the one an operation makes of it. -/

namespace Sys2Proof.Machine

/-! ## Lanes -/

theorem laneOf_lanes32 (f : Nat → Word) {l : Nat} (h : l < 32) : laneOf (lanes32 f) l = f l := by
  simp [laneOf, lanes32, List.getD_eq_getElem?_getD, h]

/-! ## Splits and slots -/

@[simp] theorem Split.modSlot_id (X : Split) (f : Slot → Slot) : (X.modSlot f).id = X.id := by
  unfold Split.modSlot; split <;> rfl

theorem Split.quiet_quiet (X : Split) : X.quiet.quiet = X.quiet := by
  unfold Split.quiet Split.modSlot
  cases h : X.home <;> simp [h]

/-- R198 changes only what is on its way to fragments. -/
theorem Warp.overpush_rest (W : Warp) (r : Nat) : (W.overpush r).rest = W.rest := by
  have : (W.overpush r).splits.map Split.quiet = W.splits.map Split.quiet := by
    simp only [Warp.overpush, List.map_map]
    refine List.map_congr_left fun X _ => ?_
    simp only [Function.comp, Split.quiet, Split.modSlot]
    cases h : X.home with
    | wcore => simp only [h]
    | ncore f => simp only; split <;> rfl
  simp only [Warp.rest, this]
  rfl

@[simp] theorem Warp.overpush_v (W : Warp) (r : Nat) : (W.overpush r).v = W.v := rfl
@[simp] theorem Warp.overpush_vst (W : Warp) (r : Nat) : (W.overpush r).vst = W.vst := rfl
@[simp] theorem Warp.overpush_p (W : Warp) (r : Nat) : (W.overpush r).p = W.p := rfl
@[simp] theorem Warp.overpush_sc (W : Warp) (r : Nat) : (W.overpush r).sc = W.sc := rfl
@[simp] theorem Warp.overpush_swrites (W : Warp) (r : Nat) : (W.overpush r).swrites = W.swrites := rfl
@[simp] theorem Warp.overpush_shr (W : Warp) (r : Nat) : (W.overpush r).shr = W.shr := rfl
@[simp] theorem Warp.overpush_core (W : Warp) (r : Nat) : (W.overpush r).core = W.core := rfl

theorem Warp.setVState_rest (W : Warp) (r : Nat) (q : RegState) : (W.setVState r q).rest = W.rest :=
  W.overpush_rest r

theorem Warp.writeV_rest (W : Warp) (r : Nat) (P : Mask) (f : Nat → Word) : (W.writeV r P f).rest = W.rest :=
  W.overpush_rest r

/-- The PC of a split without its registers. -/
@[simp] theorem Split.rest_pc_eq (X : Split) : X.rest.pc = X.pc := by unfold Split.rest Split.modSlot; split <;> rfl

theorem Split.rest_pc (X : Split) (t : Word) : ({ X with pc := t } : Split).rest = { X.rest with pc := t } := by
  unfold Split.rest Split.modSlot
  cases hX : X.home <;> simp [hX]

/-! ## The context that an operation makes -/

/-- Only registers and collectors may differ so far: the instruction has started. -/
structure Ctx.Begun (c c' : Ctx) : Prop where
  w : c'.w = c.w
  s : OnlyPipes c.s c'.s
  W : c'.W.rest = c.W.rest
  sp : c'.sp.rest = c.sp.rest

theorem OnlyPipes.refl (s : State) : OnlyPipes s s := ⟨rfl, fun _ => rfl⟩

theorem OnlyPipes.trans {s t u : State} (h : OnlyPipes s t) (k : OnlyPipes t u) : OnlyPipes s u := by
  refine ⟨?_, fun i => ?_⟩
  · rw [k.1]; simp only; rw [h.1]
  · rw [k.2 i, h.2 i]

theorem Ctx.Begun.refl (c : Ctx) : c.Begun c := ⟨rfl, OnlyPipes.refl _, rfl, rfl⟩

theorem Ctx.Begun.trans {a b c : Ctx} (h : a.Begun b) (k : b.Begun c) : a.Begun c :=
  ⟨k.w.trans h.w, h.s.trans k.s, k.W.trans h.W, k.sp.trans h.sp⟩

/-- After n words the PC has moved by as many. -/
theorem Ctx.Begun.advance {c c' : Ctx} (h : c.Begun c') (n : Nat) : c.onward (c'.advance n) n := by
  refine ⟨h.w, h.s, h.W, ?_⟩
  have hpc : c'.sp.pc = c.sp.pc := by simpa using congrArg Split.pc h.sp
  show ({ c'.sp with pc := c'.sp.pc + BitVec.ofNat 32 (4 * n) } : Split).rest = _
  rw [Split.rest_pc, h.sp, hpc]

/-! ## Consuming reads and collectors -/

theorem Ctx.consuming_setVState (c : Ctx) (r : Nat) (q : RegState) (x : Src) :
    ({ c with W := c.W.setVState r q } : Ctx).consuming x = c.consuming x := rfl

/-- R169: a consuming read empties a shared register and does nothing else. -/
theorem Ctx.consume_spec (srcs : List Src) (c : Ctx) :
    let d := c.consume srcs
    c.Begun d ∧ d.s = c.s ∧ d.sp = c.sp ∧ d.W.v = c.W.v ∧ d.W.p = c.W.p ∧ d.W.sc = c.W.sc ∧ d.W.swrites = c.W.swrites ∧
    d.W.shr = c.W.shr ∧ d.W.core = c.W.core ∧
    ∀ r : BitVec 6, d.vState r = if c.consumes srcs r then .empty else c.vState r := by
  induction srcs generalizing c with
  | nil => exact ⟨Ctx.Begun.refl c, rfl, rfl, rfl, rfl, rfl, rfl, rfl, rfl, fun _ => rfl⟩
  | cons x xs ih =>
    simp only [Ctx.consume, List.foldl_cons]
    by_cases hx : c.consuming x = true
    · simp only [hx, if_true]
      have := ih { c with W := c.W.setVState x.r.toNat .empty }
      simp only [Ctx.consume] at this
      obtain ⟨h1, h2, h3, h4, h5, h6, h7, h8, h8', h9⟩ := this
      refine ⟨Ctx.Begun.trans (b := { c with W := c.W.setVState x.r.toNat .empty })
        ⟨rfl, OnlyPipes.refl _, Warp.setVState_rest c.W x.r.toNat .empty, rfl⟩ h1, h2, h3, h4, h5, h6, h7, h8, h8', ?_⟩
      intro r
      rw [h9 r]
      have e1 : ({ c with W := c.W.setVState x.r.toNat .empty } : Ctx).consumes xs r = c.consumes xs r := rfl
      have e2 : c.consumes (x :: xs) r = ((x.r == r) || c.consumes xs r) := by
        simp only [Ctx.consumes, List.any_cons, hx, Bool.true_and]
      rw [e1, e2]
      cases hxs : c.consumes xs r
      · simp only [Bool.or_false, Bool.false_eq_true, if_false]
        have hl : c.sp.isLocal = true := by
          simp only [Ctx.consuming, Bool.and_eq_true] at hx; exact hx.1.2
        have hh : c.sp.home = .wcore := by
          unfold Split.isLocal at hl
          split at hl
          · assumption
          · cases hl
        simp only [Ctx.vState, Ctx.srcState, hh, if_true, Warp.vstate, Warp.setVState, tget_tset, beq_iff_eq]
        by_cases hr : x.r = r
        · simp [hr]
        · have : r.toNat ≠ x.r.toNat := fun h => hr (BitVec.eq_of_toNat_eq h.symm)
          simp [hr, this]
      · simp
    · have hf : c.consuming x = false := by simpa using hx
      simp only [hf, Bool.false_eq_true, if_false]
      have := ih c
      simp only [Ctx.consume] at this
      obtain ⟨h1, h2, h3, h4, h5, h6, h7, h8, h8', h9⟩ := this
      refine ⟨h1, h2, h3, h4, h5, h6, h7, h8, h8', ?_⟩
      intro r
      rw [h9 r]
      simp [Ctx.consumes, hf]

theorem OnlyPipes.setCore (s : State) (k : Nat) (p : List PipeE) :
    OnlyPipes s (s.setCore k { s.core k with pipe := p }) := by
  refine ⟨rfl, fun i => ?_⟩
  rw [State.setCore_core]
  split
  · next h => subst h; rfl
  · rfl

/-- R116: taking a collector changes the core's pipe alone. -/
theorem Ctx.collect_spec (c : Ctx) (a b : List Nat) :
    let d := c.collect a b
    d.w = c.w ∧ d.W = c.W ∧ d.sp = c.sp ∧ OnlyPipes c.s d.s := by
  unfold Ctx.collect
  split
  · exact ⟨rfl, rfl, rfl, OnlyPipes.setCore _ _ _⟩
  · exact ⟨rfl, rfl, rfl, OnlyPipes.refl _⟩

/-- The instruction has its operands: shared sources are consumed, a collector is taken, all else is as it was. -/
theorem Ctx.start_spec (c : Ctx) (srcs : List Src) (a b : List Nat) :
    let d := (c.consume srcs).collect a b
    c.Begun d ∧ d.sp = c.sp ∧ d.W.v = c.W.v ∧ d.W.p = c.W.p ∧ d.W.sc = c.W.sc ∧ d.W.swrites = c.W.swrites ∧
    ∀ r : BitVec 6, d.vState r = if c.consumes srcs r then .empty else c.vState r := by
  obtain ⟨h1, h2, h3, h4, h5, h6, h7, -, -, h9⟩ := c.consume_spec srcs
  obtain ⟨k1, k2, k3, k4⟩ := (c.consume srcs).collect_spec a b
  refine ⟨h1.trans ⟨k1, k4, by rw [k2], by rw [k3]⟩, by rw [k3, h3], by rw [k2, h4], by rw [k2, h5], by rw [k2, h6],
    by rw [k2, h7], fun r => ?_⟩
  rw [← h9 r]
  simp only [Ctx.vState, Ctx.srcState, k2, k3, if_true]

theorem Ctx.vlanes_eq {c d : Ctx} (h : d.sp = c.sp) (hv : d.W.v = c.W.v) (r : BitVec 6) : d.vlanes r = c.vlanes r := by
  simp only [Ctx.vlanes, h, Warp.vlanes, hv]

theorem Ctx.v_eq {c d : Ctx} (h : d.sp = c.sp) (hv : d.W.v = c.W.v) : d.v = c.v := by
  funext r l; simp only [Ctx.v, Ctx.vlanes_eq h hv]

theorem Ctx.pmask_eq {c d : Ctx} (h : d.sp = c.sp) (hp : d.W.p = c.W.p) : d.pmask = c.pmask := by
  funext n; simp only [Ctx.pmask, h, hp]

/-! ## Writes of vector registers -/

/-- A write of one vector register. -/
theorem Ctx.setV_spec (c : Ctx) (d : BitVec 6) (P : Mask) (f : Nat → Word) :
    let e := c.setV d P f
    c.Begun e ∧ e.W.sc = c.W.sc ∧ e.W.swrites = c.W.swrites ∧ e.W.shr = c.W.shr ∧ e.s = c.s ∧
    (∀ n, e.pmask n = c.pmask n) ∧
    (∀ r l, l < 32 → e.v r l = if r = d ∧ r ≠ 63 ∧ P.getLsbD l = true then f l else c.v r l) ∧
    (∀ r, e.vState r = if r = d ∧ r ≠ 63 then .full else c.vState r) := by
  unfold Ctx.setV
  by_cases hd : d = 63
  · rw [if_pos hd]
    refine ⟨Ctx.Begun.refl c, rfl, rfl, rfl, rfl, fun _ => rfl, fun r l _ => ?_, fun r => ?_⟩
    · rw [if_neg fun h => h.2.1 (h.1.trans hd)]
    · rw [if_neg fun h => h.2 (h.1.trans hd)]
  · simp only [hd, if_false]
    have key : ∀ r : BitVec 6, r.toNat = d.toNat ↔ r = d := fun r => ⟨BitVec.eq_of_toNat_eq, fun h => by rw [h]⟩
    have hne : ∀ r : BitVec 6, r = d → r ≠ 63 := fun r h => h ▸ hd
    cases hh : c.sp.home with
    | wcore =>
      refine ⟨⟨rfl, OnlyPipes.refl _, Warp.writeV_rest _ _ _ _, rfl⟩, rfl, rfl, rfl, rfl, fun n => ?_, fun r l hl => ?_,
        fun r => ?_⟩
      · simp only [Ctx.pmask, hh]; rfl
      · simp only [Ctx.v, Ctx.vlanes, hh]
        by_cases hr : r = 63
        · simp [hr]
        · simp only [hr, if_false, Warp.vlanes, Warp.writeV, tget_tset, key]
          by_cases hrd : r = d
          · subst hrd
            simp only [if_true, laneOf_lanes32 _ hl, true_and, ne_eq, hr, not_false_eq_true]
            rfl
          · simp only [hrd, if_false, false_and]; rfl
      · simp only [Ctx.vState, Ctx.srcState, hh, if_true, Warp.vstate, Warp.writeV, tget_tset, key]
        by_cases hrd : r = d
        · rw [if_pos hrd, if_pos ⟨hrd, hne r hrd⟩]
        · simp only [hrd, if_false, false_and]; rfl
    | ncore q =>
      refine ⟨⟨rfl, OnlyPipes.refl _, rfl, ?_⟩, rfl, rfl, rfl, rfl, fun n => ?_, fun r l hl => ?_, fun r => ?_⟩
      · simp only [Split.rest, Split.modSlot, hh]
      · simp only [Ctx.pmask, hh]
      · simp only [Ctx.v, Ctx.vlanes, hh]
        by_cases hr : r = 63
        · simp [hr]
        · simp only [hr, if_false, tget_tset, key]
          by_cases hrd : r = d
          · subst hrd; simp only [if_true, laneOf_lanes32 _ hl, hd, ne_eq, not_false_eq_true, true_and]
          · simp [hrd]
      · simp only [Ctx.vState, Ctx.srcState, hh, if_true, tget_tset, key]
        by_cases hrd : r = d
        · rw [if_pos hrd, if_pos ⟨hrd, hne r hrd⟩]
        · simp [hrd]

/-- A vector instruction that writes one register and goes on. -/
theorem vWrite_effect (c : Ctx) (srcs : List Src) (a b : List Nat) (n : Nat) (d : BitVec 6) (P : Mask) (f : Nat → Word) :
    let e := (((c.consume srcs).collect a b).setV d P f).advance n
    c.vEffect e n srcs [d] P fun _ l => f l := by
  obtain ⟨h1, h2, h3, h4, h5, h6, h7⟩ := c.start_spec srcs a b
  obtain ⟨k1, k2, k3, -, -, k4, k5, k6⟩ := ((c.consume srcs).collect a b).setV_spec d P f
  refine ⟨(h1.trans k1).advance n, ⟨fun r l hl => ?_, fun r => ?_⟩, fun m => ?_, ?_, ?_⟩
  · show Ctx.v (((c.consume srcs).collect a b).setV d P f) r l = _
    rw [k5 r l hl, Ctx.v_eq h2 h3]
    simp
  · show Ctx.vState (((c.consume srcs).collect a b).setV d P f) r = _
    rw [k6 r, h7 r]
    simp
  · show Ctx.pmask (((c.consume srcs).collect a b).setV d P f) m = _
    rw [k4 m, Ctx.pmask_eq h2 h4]
  · exact k2.trans h5
  · exact k3.trans h6

/-! ## Predicates and the scalar side -/

theorem getLsbD_maskTo (f : Nat → Bool) (n l : Nat) (hn : n ≤ 32) :
    (maskTo f n).getLsbD l = (decide (l < n) && f l) := by
  induction n with
  | zero => simp [maskTo]
  | succ n ih =>
    have hi := ih (by omega)
    simp only [maskTo]
    by_cases hf : f n = true
    · simp only [hf, if_true, BitVec.getLsbD_or, hi, BitVec.getLsbD_shiftLeft, BitVec.getLsbD_one]
      by_cases h1 : l = n
      · subst h1; simp [hf]; omega
      · by_cases h2 : l < n
        · simp [h2]; omega
        · simp [show ¬ l < n + 1 by omega, h2]; omega
    · rw [if_neg hf, hi]
      by_cases h1 : l = n
      · subst h1; simp [hf]
      · by_cases h2 : l < n
        · simp [h2, show l < n + 1 by omega]
        · simp [h2, show ¬ l < n + 1 by omega]

theorem getLsbD_maskOf (f : Nat → Bool) (l : Nat) : (maskOf f).getLsbD l = (decide (l < 32) && f l) :=
  getLsbD_maskTo f 32 l (Nat.le_refl _)

/-- A write of one lane predicate. -/
theorem Ctx.setP_spec (c : Ctx) (n : BitVec 3) (P : Mask) (f : Nat → Bool) :
    let e := c.setP n P f
    c.Begun e ∧ e.W.sc = c.W.sc ∧ e.W.swrites = c.W.swrites ∧ e.s = c.s ∧ e.v = c.v ∧ e.vState = c.vState ∧
    (∀ m, e.pmask m = if m = n ∧ m ≠ 7 then (c.pmask n &&& ~~~P) ||| (maskOf f &&& P) else c.pmask m) := by
  unfold Ctx.setP
  by_cases hd : n = 7
  · rw [if_pos hd]
    refine ⟨Ctx.Begun.refl c, rfl, rfl, rfl, rfl, rfl, fun m => ?_⟩
    rw [if_neg fun h => h.2 (h.1.trans hd)]
  · simp only [hd, if_false]
    have key : ∀ m : BitVec 3, m.toNat = n.toNat ↔ m = n := fun m => ⟨BitVec.eq_of_toNat_eq, fun h => by rw [h]⟩
    cases hh : c.sp.home with
    | wcore =>
      refine ⟨⟨rfl, OnlyPipes.refl _, rfl, rfl⟩, rfl, rfl, rfl, ?_, ?_, fun m => ?_⟩
      · funext r l; simp only [Ctx.v, Ctx.vlanes, hh]; rfl
      · funext r; simp only [Ctx.vState, Ctx.srcState, hh]; rfl
      · simp only [Ctx.pmask, hh, tget_tset, key]
        by_cases hm : m = n
        · subst hm; simp only [ne_eq, hd, not_false_eq_true, and_self, if_true, if_false]
        · simp [hm]
    | ncore q =>
      refine ⟨⟨rfl, OnlyPipes.refl _, rfl, ?_⟩, rfl, rfl, rfl, ?_, ?_, fun m => ?_⟩
      · simp only [Split.rest, Split.modSlot, hh]
      · funext r l; simp only [Ctx.v, Ctx.vlanes, hh]
      · funext r; simp only [Ctx.vState, Ctx.srcState, hh, if_true]
      · simp only [Ctx.pmask, hh, tget_tset, key]
        by_cases hm : m = n
        · subst hm; simp only [ne_eq, hd, not_false_eq_true, and_self, if_true, if_false]
        · simp [hm]

/-- A write of the scalar side leaves everything else. -/
theorem Ctx.scalWrite_spec (c : Ctx) (m : SWrite) (f : Scal → Scal) :
    let e := c.scalWrite m f
    c.Begun e ∧ e.s = c.s ∧ e.sp = c.sp ∧ e.v = c.v ∧ e.vState = c.vState ∧ e.pmask = c.pmask ∧
    (c.sp.home = .wcore → e.W.sc = f c.W.sc ∧ e.W.swrites = c.W.swrites) ∧
    (∀ q, c.sp.home = .ncore q → e.W.sc = c.W.sc ∧ e.W.swrites = c.W.swrites ++ [m]) := by
  unfold Ctx.scalWrite
  cases hh : c.sp.home with
  | wcore =>
    refine ⟨⟨rfl, OnlyPipes.refl _, rfl, rfl⟩, rfl, rfl, ?_, ?_, ?_, fun _ => ⟨rfl, rfl⟩, (fun q h => by cases h)⟩
    · funext r l; simp only [Ctx.v, Ctx.vlanes, hh]; rfl
    · funext r; simp only [Ctx.vState, Ctx.srcState, hh]; rfl
    · funext r; simp only [Ctx.pmask, hh]
  | ncore q =>
    refine ⟨⟨rfl, OnlyPipes.refl _, rfl, rfl⟩, rfl, rfl, ?_, ?_, ?_, (fun h => by cases h), fun _ _ => ⟨rfl, rfl⟩⟩
    · funext r l; simp only [Ctx.v, Ctx.vlanes, hh]
    · funext r; simp only [Ctx.vState, Ctx.srcState, hh]; rfl
    · funext r; simp only [Ctx.pmask, hh]

theorem cancelBit_inj {b : Bool} {r q : BitVec 6} (h : cancelBit b r = cancelBit b q) : r = q := by
  cases b <;> exact BitVec.eq_of_toNat_eq (by simpa [cancelBit] using h)

theorem cancelBit_lt (b : Bool) (r : BitVec 6) : cancelBit b r < 128 := by
  have := r.isLt
  cases b <;> simp [cancelBit] <;> omega

theorem getLsbD_andNot_shift (x : BitVec 128) (k i : Nat) (hi : i < 128) :
    (x &&& ~~~(1#128 <<< k)).getLsbD i = (x.getLsbD i && decide (i ≠ k)) := by
  simp only [BitVec.getLsbD_and, BitVec.getLsbD_not, BitVec.getLsbD_shiftLeft, BitVec.getLsbD_one, hi, decide_true,
    Bool.true_and]
  by_cases h : i = k
  · subst h; simp
  · by_cases h2 : i < k
    · simp [h2, h]
    · have : i - k ≠ 0 := by omega
      simp [h, this]

/-- A write of one scalar register (R172). -/
theorem Scal.write_spec (q : Scal) (bank : Bool) (d : BitVec 6) (v : Word) (st : RegState) :
    let e := q.write bank d v st
    (∀ r, e.sreg bank r = if r = d ∧ r ≠ 63 then v else q.sreg bank r) ∧
    (∀ r, e.sstate bank r = if r = d ∧ r ≠ 63 then st else q.sstate bank r) ∧
    (∀ r, d ≠ 63 → e.cancel.getLsbD (cancelBit bank r) = if r = d then false else q.cancel.getLsbD (cancelBit bank r)) ∧
    (d = 63 → e = q) ∧ (∀ r, r ≠ d → e.sreg (!bank) r = q.sreg (!bank) r ∧ e.sstate (!bank) r = q.sstate (!bank) r) ∧
    e = { q with s := e.s, st := e.st, supS := e.supS, supSt := e.supSt, cancel := e.cancel } := by
  unfold Scal.write
  have key : ∀ r : BitVec 6, r.toNat = d.toNat ↔ r = d := fun r => ⟨BitVec.eq_of_toNat_eq, fun h => by rw [h]⟩
  by_cases hd : d = 63
  · rw [if_pos hd]
    refine ⟨fun r => ?_, fun r => ?_, fun r h => absurd hd h, fun _ => rfl, fun r _ => ⟨rfl, rfl⟩, rfl⟩
    · rw [if_neg fun h => h.2 (h.1.trans hd)]
    · rw [if_neg fun h => h.2 (h.1.trans hd)]
  · simp only [hd, if_false]
    have hcan : ∀ r, (q.cancel &&& ~~~(1#128 <<< cancelBit bank d)).getLsbD (cancelBit bank r) =
        if r = d then false else q.cancel.getLsbD (cancelBit bank r) := by
      intro r
      rw [getLsbD_andNot_shift _ _ _ (cancelBit_lt ..)]
      by_cases h : r = d
      · simp [h]
      · have : cancelBit bank r ≠ cancelBit bank d := fun e => h (cancelBit_inj e)
        simp [h, this]
    cases bank
    · refine ⟨fun r => ?_, fun r => ?_, fun r _ => hcan r, fun h => absurd h (by simp), fun r hr => ?_, rfl⟩
      · simp only [Scal.sreg, Bool.false_eq_true, if_false, tget_tset, key]
        by_cases h1 : r = 63
        · simp only [h1, if_true, ne_eq, not_true, and_false, if_false]
        · simp only [h1, if_false, ne_eq, not_false_eq_true, and_true]
      · simp only [Scal.sstate, Bool.false_eq_true, if_false, tget_tset, key]
        by_cases h1 : r = 63
        · simp only [h1, if_true, ne_eq, not_true, and_false, if_false]
        · simp only [h1, if_false, ne_eq, not_false_eq_true, and_true]
      · simp [Scal.sreg, Scal.sstate]
    · refine ⟨fun r => ?_, fun r => ?_, fun r _ => hcan r, fun h => absurd h (by simp), fun r hr => ?_, rfl⟩
      · simp only [Scal.sreg, if_true, tget_tset, key]
        by_cases h1 : r = 63
        · simp only [h1, if_true, ne_eq, not_true, and_false, if_false]
        · simp only [h1, if_false, ne_eq, not_false_eq_true, and_true]
      · simp only [Scal.sstate, if_true, tget_tset, key]
        by_cases h1 : r = 63
        · simp only [h1, if_true, ne_eq, not_true, and_false, if_false]
        · simp only [h1, if_false, ne_eq, not_false_eq_true, and_true]
      · simp [Scal.sreg, Scal.sstate]

theorem Scal.write_cancel (q : Scal) (bank : Bool) {d : BitVec 6} (v : Word) (st : RegState) (hd : d ≠ 63) :
    (q.write bank d v st).cancel = q.cancel &&& ~~~(1#128 <<< cancelBit bank d) := by
  unfold Scal.write; rw [if_neg hd]; cases bank <;> rfl

/-- The writes of one register that go to the parent. -/
theorem Ctx.writes_of (c : Ctx) {d : BitVec 6} (hd : d ≠ 63) (v : Word) :
    (([d].filter fun r => r != 63).map fun r => SWrite.reg (scalarNo (c.bank r) r) v .full) =
      [.reg (scalarNo (c.bank d) d) v .full] := by
  have : (d != 63) = true := by rw [bne_iff_ne]; exact hd
  simp only [List.filter, this, List.map]

/-- A write of one scalar register. -/
theorem Ctx.setS_spec (c : Ctx) (d : BitVec 6) (v : Word) :
    let e := c.setS d v
    c.Begun e ∧ e.s = c.s ∧ e.sp = c.sp ∧ e.v = c.v ∧ e.vState = c.vState ∧ e.pmask = c.pmask ∧
    c.wroteS e [d] fun _ => v := by
  unfold Ctx.setS Ctx.setSState
  by_cases hd : d = 63
  · rw [if_pos hd]
    refine ⟨Ctx.Begun.refl c, rfl, rfl, rfl, rfl, rfl, ?_⟩
    unfold Ctx.wroteS
    have no : ∀ r : BitVec 6, ¬(r ∈ [d] ∧ r ≠ 63) := fun r h => h.2 ((List.mem_singleton.mp h.1).trans hd)
    cases hh : c.sp.home with
    | wcore =>
      refine ⟨fun r => by rw [if_neg (no r)], fun r => by rw [if_neg (no r)], fun r hr => ?_, rfl, rfl⟩
      rw [if_neg fun h => no r ⟨h, hr⟩]
    | ncore q => exact ⟨rfl, by simp [hd]⟩
  · rw [if_neg hd]
    obtain ⟨h1, h2, h3, h4, h5, h6, h7, h8⟩ :=
      c.scalWrite_spec (.reg (scalarNo (c.bank d) d) v .full) fun q => q.write (c.bank d) d v .full
    refine ⟨h1, h2, h3, h4, h5, h6, ?_⟩
    have hb : ∀ (e : Ctx) (r : BitVec 6), e.sp = c.sp → e.bank r = c.bank r := fun e r h => by simp only [Ctx.bank, h]
    unfold Ctx.wroteS
    cases hh : c.sp.home with
    | wcore =>
      obtain ⟨k1, k2⟩ := h7 hh
      obtain ⟨w1, w2, w3, -, w5, w6⟩ := c.W.sc.write_spec (c.bank d) d v .full
      have hs : ∀ e : Ctx, e.sp = c.sp → e.scal = e.W.sc := fun e he => by simp only [Ctx.scal, he, hh]
      have hbank : ∀ r, c.bank r ≠ c.bank d → r ≠ d := fun r h e => h (by rw [e])
      have key : ∀ r, c.bank r = !c.bank d ∨ c.bank r = c.bank d := fun r => by
        cases c.bank r <;> cases c.bank d <;> simp
      refine ⟨fun r => ?_, fun r => ?_, fun r hr => ?_, ?_, k2⟩
      · simp only [Ctx.sreg, hb _ r h3, hs _ h3, hs c rfl, k1]
        rcases key r with h | h
        · have : r ≠ d := fun e => by rw [e] at h; cases c.bank d <;> simp at h
          rw [h, (w5 r this).1]
          simp [this]
        · rw [h, w1 r]; simp
      · simp only [Ctx.sState, Ctx.sstate, hb _ r h3, hs _ h3, hs c rfl, k1]
        rcases key r with h | h
        · have : r ≠ d := fun e => by rw [e] at h; cases c.bank d <;> simp at h
          rw [h, (w5 r this).2]
          simp [this]
        · rw [h, w2 r]; simp
      · simp only [Ctx.smark, hb _ r h3, hs _ h3, hs c rfl, k1, List.mem_singleton]
        rcases key r with h | h
        · have hrd : r ≠ d := fun e => by rw [e] at h; cases c.bank d <;> simp at h
          rw [if_neg hrd]
          have hc : cancelBit (c.bank r) r ≠ cancelBit (c.bank d) d := by
            have := r.isLt; have := d.isLt
            rw [h]
            cases c.bank d <;> simp [cancelBit] <;> omega
          rw [Scal.write_cancel _ _ _ _ hd, getLsbD_andNot_shift _ _ _ (cancelBit_lt ..), decide_eq_true hc, Bool.and_true]
        · rw [h, w3 r hd]
      · rw [k1]; exact w6
    | ncore q =>
      obtain ⟨k1, k2⟩ := h8 q hh
      exact ⟨k1, by rw [k2, c.writes_of hd]⟩

/-- A write of one uniform predicate, or its way to the parent. -/
theorem Ctx.setQ_spec (c : Ctx) (n : BitVec 3) (b : Bool) :
    let e := c.setQ n b
    c.Begun e ∧ e.s = c.s ∧ e.sp = c.sp ∧ e.v = c.v ∧ e.vState = c.vState ∧ e.pmask = c.pmask ∧
    (c.sp.home = .wcore → e.W.sc = (if n = 7 then c.W.sc else c.W.sc.writeQ c.sp.sup n b) ∧ e.W.swrites = c.W.swrites) ∧
    (∀ q, c.sp.home = .ncore q →
      e.W.sc = c.W.sc ∧ e.W.swrites = c.W.swrites ++ if n = 7 then [] else [.q (predNo c.sp.sup n) b]) := by
  unfold Ctx.setQ
  by_cases hn : n = 7
  · rw [if_pos hn, if_pos hn]
    exact ⟨Ctx.Begun.refl c, rfl, rfl, rfl, rfl, rfl, fun _ => ⟨rfl, rfl⟩,
      fun _ _ => ⟨rfl, by rw [if_pos hn, List.append_nil]⟩⟩
  · rw [if_neg hn, if_neg hn]
    obtain ⟨h1, h2, h3, h4, h5, h6, h7, h8⟩ := c.scalWrite_spec (.q (predNo c.sp.sup n) b) fun q => q.writeQ c.sp.sup n b
    exact ⟨h1, h2, h3, h4, h5, h6, h7, fun q hq => by rw [if_neg hn]; exact h8 q hq⟩

theorem getLsbD_setBit8 (m : BitVec 8) (n i : Nat) (b : Bool) (hi : i < 8) :
    (setBit8 m n b).getLsbD i = if i = n then b else m.getLsbD i := by
  have h1 : (1#8 <<< n).getLsbD i = decide (i = n) := by
    simp only [BitVec.getLsbD_shiftLeft, BitVec.getLsbD_one, hi, decide_true, Bool.true_and]
    by_cases h : i = n
    · subst h; simp
    · by_cases h2 : i < n
      · simp [h2, h]
      · simp [h]; omega
  unfold setBit8
  cases b
  · simp only [Bool.false_eq_true, if_false, BitVec.getLsbD_and, BitVec.getLsbD_not, h1, hi, decide_true, Bool.true_and]
    by_cases h : i = n <;> simp [h]
  · simp only [if_true, BitVec.getLsbD_or, h1]
    by_cases h : i = n <;> simp [h]

/-- Reading uniform predicates after a write (R182). -/
theorem Scal.writeQ_qreg (q : Scal) (sup : Bool) (n m : BitVec 3) (b : Bool) :
    (q.writeQ sup n b).qreg sup m = if m = n ∧ m ≠ 7 then b else q.qreg sup m := by
  have hm := m.isLt
  have key : m.toNat = n.toNat ↔ m = n := ⟨BitVec.eq_of_toNat_eq, fun h => by rw [h]⟩
  unfold Scal.writeQ
  by_cases h7 : n = 7
  · rw [if_pos h7, if_neg fun h => h.2 (h.1.trans h7)]
  · rw [if_neg h7]
    unfold Scal.qreg
    by_cases hm7 : m = 7
    · simp only [hm7, if_true, ne_eq, not_true, and_false, if_false]
    · simp only [hm7, if_false, ne_eq, not_false_eq_true, and_true]
      by_cases hs : (sup && decide (4 ≤ n.toNat)) = true
      · simp only [hs, if_true]
        by_cases hms : (sup && decide (4 ≤ m.toNat)) = true
        · simp only [hms, if_true, getLsbD_setBit8 _ _ _ _ hm, key]
        · simp only [hms]
          have : m ≠ n := fun e => hms (by rw [e]; exact hs)
          simp [this]
      · simp only [hs]
        by_cases hms : (sup && decide (4 ≤ m.toNat)) = true
        · have : m ≠ n := fun e => hs (by rw [← e]; exact hms)
          simp [hms, this]
        · simp only [hms, Bool.false_eq_true, if_false, getLsbD_setBit8 _ _ _ _ hm, key]

end Sys2Proof.Machine
end

