-- ==== Sys2Proof/Laws/Finish.lean ====
section
/-! SUPPORT. What follows an instruction: Ctx.finish and Ctx.put change the warps and, for finish, the time of the last
issue; memory reads as before. -/

namespace Sys2Proof.Machine

@[simp] theorem Ctx.finish_mem (c : Ctx) (u : Bool) : (c.finish u).mem = c.s.mem := by
  unfold Ctx.finish; simp
@[simp] theorem Ctx.finish_host (c : Ctx) (u : Bool) : (c.finish u).host = c.s.host := by
  unfold Ctx.finish; simp
@[simp] theorem Ctx.finish_hostHoles (c : Ctx) (u : Bool) : (c.finish u).hostHoles = c.s.hostHoles := by
  unfold Ctx.finish; simp
@[simp] theorem Ctx.finish_regions (c : Ctx) (u : Bool) : (c.finish u).regions = c.s.regions := by
  unfold Ctx.finish; simp
@[simp] theorem Ctx.finish_clusters (c : Ctx) (u : Bool) : (c.finish u).clusters = c.s.clusters := by
  unfold Ctx.finish; simp
@[simp] theorem Ctx.finish_cores (c : Ctx) (u : Bool) : (c.finish u).cores = c.s.cores := by
  unfold Ctx.finish; simp
@[simp] theorem Ctx.finish_parts (c : Ctx) (u : Bool) : (c.finish u).parts = c.s.parts := by
  unfold Ctx.finish; simp
@[simp] theorem Ctx.finish_vfs (c : Ctx) (u : Bool) : (c.finish u).vfs = c.s.vfs := by
  unfold Ctx.finish; simp
@[simp] theorem Ctx.finish_lanes (c : Ctx) (u : Bool) : (c.finish u).lanes = c.s.lanes := by
  unfold Ctx.finish; simp
@[simp] theorem Ctx.finish_packets (c : Ctx) (u : Bool) : (c.finish u).packets = c.s.packets := by
  unfold Ctx.finish; simp
@[simp] theorem Ctx.finish_feOps (c : Ctx) (u : Bool) : (c.finish u).feOps = c.s.feOps := by
  unfold Ctx.finish; simp
@[simp] theorem Ctx.finish_spoiled (c : Ctx) (u : Bool) : (c.finish u).spoiled = c.s.spoiled := by
  unfold Ctx.finish; simp
@[simp] theorem Ctx.finish_notified (c : Ctx) (u : Bool) : (c.finish u).notified = c.s.notified := by
  unfold Ctx.finish; simp
@[simp] theorem Ctx.finish_vfmap (c : Ctx) (u : Bool) : (c.finish u).vfmap = c.s.vfmap := by
  unfold Ctx.finish; simp
@[simp] theorem Ctx.finish_ports (c : Ctx) (u : Bool) : (c.finish u).ports = c.s.ports := by
  unfold Ctx.finish; simp
@[simp] theorem Ctx.finish_outReqs (c : Ctx) (u : Bool) : (c.finish u).outReqs = c.s.outReqs := by
  unfold Ctx.finish; simp
@[simp] theorem Ctx.finish_paths (c : Ctx) (u : Bool) : (c.finish u).paths = c.s.paths := by
  unfold Ctx.finish; simp
@[simp] theorem Ctx.finish_inPaths (c : Ctx) (u : Bool) : (c.finish u).inPaths = c.s.inPaths := by
  unfold Ctx.finish; simp
@[simp] theorem Ctx.finish_outbox (c : Ctx) (u : Bool) : (c.finish u).outbox = c.s.outbox := by
  unfold Ctx.finish; simp
@[simp] theorem Ctx.finish_msi (c : Ctx) (u : Bool) : (c.finish u).msi = c.s.msi := by
  unfold Ctx.finish; simp
@[simp] theorem Ctx.finish_pkg (c : Ctx) (u : Bool) : (c.finish u).pkg = c.s.pkg := by
  unfold Ctx.finish; simp
@[simp] theorem Ctx.finish_launches (c : Ctx) (u : Bool) : (c.finish u).launches = c.s.launches := by
  unfold Ctx.finish; simp
@[simp] theorem Ctx.finish_blocks (c : Ctx) (u : Bool) : (c.finish u).blocks = c.s.blocks := by
  unfold Ctx.finish; simp
@[simp] theorem Ctx.finish_groups (c : Ctx) (u : Bool) : (c.finish u).groups = c.s.groups := by
  unfold Ctx.finish; simp
@[simp] theorem Ctx.finish_accs (c : Ctx) (u : Bool) : (c.finish u).accs = c.s.accs := by
  unfold Ctx.finish; simp
@[simp] theorem Ctx.finish_sfus (c : Ctx) (u : Bool) : (c.finish u).sfus = c.s.sfus := by
  unfold Ctx.finish; simp
@[simp] theorem Ctx.finish_ops (c : Ctx) (u : Bool) : (c.finish u).ops = c.s.ops := by
  unfold Ctx.finish; simp
@[simp] theorem Ctx.finish_launchIds (c : Ctx) (u : Bool) : (c.finish u).launchIds = c.s.launchIds := by
  unfold Ctx.finish; simp
@[simp] theorem Ctx.finish_draws (c : Ctx) (u : Bool) : (c.finish u).draws = c.s.draws := by
  unfold Ctx.finish; simp
@[simp] theorem Ctx.finish_cur (c : Ctx) (u : Bool) : (c.finish u).cur = c.s.cur := by
  unfold Ctx.finish; simp
@[simp] theorem Ctx.finish_agenda (c : Ctx) (u : Bool) : (c.finish u).agenda = c.s.agenda := by
  unfold Ctx.finish; simp
@[simp] theorem Ctx.finish_fresh (c : Ctx) (u : Bool) : (c.finish u).fresh = c.s.fresh + 1 := by
  unfold Ctx.finish; simp
@[simp] theorem Ctx.finish_core (c : Ctx) (u : Bool) (i : Nat) : (c.finish u).core i = c.s.core i := by
  simp only [State.core, Ctx.finish_cores]
@[simp] theorem Ctx.finish_cluster (c : Ctx) (u : Bool) (i : Nat) : (c.finish u).cluster i = c.s.cluster i := by
  simp only [State.cluster, Ctx.finish_clusters]
@[simp] theorem Ctx.finish_region (c : Ctx) (u : Bool) (i : Nat) : (c.finish u).region i = c.s.region i := by
  simp only [State.region, Ctx.finish_regions]
@[simp] theorem Ctx.finish_part (c : Ctx) (u : Bool) (i : Nat) : (c.finish u).part i = c.s.part i := by
  simp only [State.part, Ctx.finish_parts]
@[simp] theorem Ctx.finish_port (c : Ctx) (u : Bool) (i : Nat) : (c.finish u).port i = c.s.port i := by
  simp only [State.port, Ctx.finish_ports]
@[simp] theorem Ctx.put_mem (c : Ctx) : c.put.mem = c.s.mem := by
  unfold Ctx.put; simp
@[simp] theorem Ctx.put_host (c : Ctx) : c.put.host = c.s.host := by
  unfold Ctx.put; simp
@[simp] theorem Ctx.put_hostHoles (c : Ctx) : c.put.hostHoles = c.s.hostHoles := by
  unfold Ctx.put; simp
@[simp] theorem Ctx.put_regions (c : Ctx) : c.put.regions = c.s.regions := by
  unfold Ctx.put; simp
@[simp] theorem Ctx.put_clusters (c : Ctx) : c.put.clusters = c.s.clusters := by
  unfold Ctx.put; simp
@[simp] theorem Ctx.put_cores (c : Ctx) : c.put.cores = c.s.cores := by
  unfold Ctx.put; simp
@[simp] theorem Ctx.put_parts (c : Ctx) : c.put.parts = c.s.parts := by
  unfold Ctx.put; simp
@[simp] theorem Ctx.put_vfs (c : Ctx) : c.put.vfs = c.s.vfs := by
  unfold Ctx.put; simp
@[simp] theorem Ctx.put_lanes (c : Ctx) : c.put.lanes = c.s.lanes := by
  unfold Ctx.put; simp
@[simp] theorem Ctx.put_packets (c : Ctx) : c.put.packets = c.s.packets := by
  unfold Ctx.put; simp
@[simp] theorem Ctx.put_feOps (c : Ctx) : c.put.feOps = c.s.feOps := by
  unfold Ctx.put; simp
@[simp] theorem Ctx.put_spoiled (c : Ctx) : c.put.spoiled = c.s.spoiled := by
  unfold Ctx.put; simp
@[simp] theorem Ctx.put_notified (c : Ctx) : c.put.notified = c.s.notified := by
  unfold Ctx.put; simp
@[simp] theorem Ctx.put_vfmap (c : Ctx) : c.put.vfmap = c.s.vfmap := by
  unfold Ctx.put; simp
@[simp] theorem Ctx.put_ports (c : Ctx) : c.put.ports = c.s.ports := by
  unfold Ctx.put; simp
@[simp] theorem Ctx.put_outReqs (c : Ctx) : c.put.outReqs = c.s.outReqs := by
  unfold Ctx.put; simp
@[simp] theorem Ctx.put_paths (c : Ctx) : c.put.paths = c.s.paths := by
  unfold Ctx.put; simp
@[simp] theorem Ctx.put_inPaths (c : Ctx) : c.put.inPaths = c.s.inPaths := by
  unfold Ctx.put; simp
@[simp] theorem Ctx.put_outbox (c : Ctx) : c.put.outbox = c.s.outbox := by
  unfold Ctx.put; simp
@[simp] theorem Ctx.put_msi (c : Ctx) : c.put.msi = c.s.msi := by
  unfold Ctx.put; simp
@[simp] theorem Ctx.put_pkg (c : Ctx) : c.put.pkg = c.s.pkg := by
  unfold Ctx.put; simp
@[simp] theorem Ctx.put_launches (c : Ctx) : c.put.launches = c.s.launches := by
  unfold Ctx.put; simp
@[simp] theorem Ctx.put_blocks (c : Ctx) : c.put.blocks = c.s.blocks := by
  unfold Ctx.put; simp
@[simp] theorem Ctx.put_groups (c : Ctx) : c.put.groups = c.s.groups := by
  unfold Ctx.put; simp
@[simp] theorem Ctx.put_accs (c : Ctx) : c.put.accs = c.s.accs := by
  unfold Ctx.put; simp
@[simp] theorem Ctx.put_sfus (c : Ctx) : c.put.sfus = c.s.sfus := by
  unfold Ctx.put; simp
@[simp] theorem Ctx.put_ops (c : Ctx) : c.put.ops = c.s.ops := by
  unfold Ctx.put; simp
@[simp] theorem Ctx.put_fresh (c : Ctx) : c.put.fresh = c.s.fresh := by
  unfold Ctx.put; simp
@[simp] theorem Ctx.put_launchIds (c : Ctx) : c.put.launchIds = c.s.launchIds := by
  unfold Ctx.put; simp
@[simp] theorem Ctx.put_draws (c : Ctx) : c.put.draws = c.s.draws := by
  unfold Ctx.put; simp
@[simp] theorem Ctx.put_cur (c : Ctx) : c.put.cur = c.s.cur := by
  unfold Ctx.put; simp
@[simp] theorem Ctx.put_agenda (c : Ctx) : c.put.agenda = c.s.agenda := by
  unfold Ctx.put; simp

/-- Memory of every kind is in these fields. -/
theorem sameMemory_of {s t : State} (h1 : t.mem = s.mem) (h2 : t.host = s.host) (h3 : ∀ k, (t.core k).csm = (s.core k).csm)
    (h4 : ∀ r, t.region r = s.region r) : SameMemory s t :=
  ⟨fun _ => by rw [h1], fun _ => by rw [h2], fun _ _ => by rw [h3], fun _ _ => by rw [h4]⟩

theorem OnlyPipes.fields {s t : State} (h : OnlyPipes s t) :
    t.mem = s.mem ∧ t.host = s.host ∧ (∀ k, (t.core k).csm = (s.core k).csm) ∧ (∀ r, t.region r = s.region r) := by
  refine ⟨?_, ?_, fun k => by rw [h.2 k], fun r => ?_⟩
  · rw [h.1]
  · rw [h.1]
  · simp only [State.region]; rw [h.1]

/-- An instruction that changed only registers and pipes leaves memory as it was. -/
theorem onward_memory {s : State} {c c' : Ctx} {n : Nat} (hs : c.s = s) (h : c.onward c' n) (u : Bool) :
    SameMemory s (c'.finish u) := by
  obtain ⟨h1, h2, h3, h4⟩ := h.2.1.fields
  subst hs
  exact sameMemory_of (by rw [Ctx.finish_mem, h1]) (by rw [Ctx.finish_host, h2]) (fun k => by rw [Ctx.finish_core, h3])
    (fun r => by rw [Ctx.finish_region, h4])

end Sys2Proof.Machine
end

