-- ==== Sys2Proof/Laws/Forms.lean ====
section
/-! SUPPORT. What each arithmetic form of Operands.lean does when its operands are ready, said once. -/

namespace Sys2Proof.Machine

theorem Ctx.vB_eq {c d : Ctx} (hv : d.v = c.v) (b : SrcB) : d.vB b = c.vB b := by
  funext l
  cases b with
  | reg w r => exact congrFun (congrFun hv r) l
  | lit v => rfl

theorem Ctx.vPair_eq {c d : Ctx} (hv : d.v = c.v) (r : BitVec 6) : d.vPair r = c.vPair r := by
  funext l; simp only [Ctx.vPair, hv]

/-- The context with which a ready V-set instruction acts. -/
def Ctx.started (c : Ctx) (srcs dsts : List Src) : Ctx :=
  (c.consume srcs).collect ((srcs.filter (·.vec)).map fun x => x.r.toNat) ((dsts.filter (·.vec)).map fun x => x.r.toNat)

theorem Ctx.started_v (c : Ctx) (srcs dsts : List Src) : (c.started srcs dsts).v = c.v := by
  obtain ⟨-, h2, h3, -⟩ := c.start_spec srcs ((srcs.filter (·.vec)).map fun x => x.r.toNat)
    ((dsts.filter (·.vec)).map fun x => x.r.toNat)
  exact Ctx.v_eq h2 h3

theorem Ctx.started_pmask (c : Ctx) (srcs dsts : List Src) : (c.started srcs dsts).pmask = c.pmask := by
  obtain ⟨-, h2, -, h4, -⟩ := c.start_spec srcs ((srcs.filter (·.vec)).map fun x => x.r.toNat)
    ((dsts.filter (·.vec)).map fun x => x.r.toNat)
  exact Ctx.pmask_eq h2 h4

theorem Ctx.started_sp (c : Ctx) (srcs dsts : List Src) : (c.started srcs dsts).sp = c.sp :=
  (c.start_spec srcs _ _).2.1

theorem Ctx.started_sc (c : Ctx) (srcs dsts : List Src) : (c.started srcs dsts).W.sc = c.W.sc :=
  (c.start_spec srcs _ _).2.2.2.2.1

theorem Ctx.started_vlanes (c : Ctx) (srcs dsts : List Src) : (c.started srcs dsts).vlanes = c.vlanes := by
  obtain ⟨-, h2, h3, -⟩ := c.start_spec srcs ((srcs.filter (·.vec)).map fun x => x.r.toNat)
    ((dsts.filter (·.vec)).map fun x => x.r.toNat)
  funext r; exact Ctx.vlanes_eq h2 h3 r

/-- The scalar side that a split reads follows its warp and home. -/
theorem Ctx.scal_eq {c d : Ctx} (h : d.sp = c.sp) (hs : d.W.sc = c.W.sc) : d.scal = c.scal := by
  simp only [Ctx.scal, h, hs]

theorem Ctx.sreg_eq {c d : Ctx} (h : d.sp = c.sp) (hs : d.W.sc = c.W.sc) : d.sreg = c.sreg := by
  funext r; simp only [Ctx.sreg, Ctx.bank, Ctx.scal_eq h hs, h]

/-- A ready V-set instruction runs its effect on the context that has started. -/
theorem v_go {s : State} {c : Ctx} {g : BitVec 3} {srcs dsts : List Src} (h : VReady s c g srcs dsts) (words : Nat)
    {extra : Ctx → List Met} (he : extra c = []) (k : Ctx → Mask → State) :
    run s (fun c => c.vIssue g words srcs dsts extra k) = .next (k (c.started srcs dsts) (c.parts g)) := by
  rw [run_of_issues h.1, vIssue_go (early := []) h he (by simp)]; rfl

/-- A ready U-set instruction runs its effect; scalar sources consume nothing. -/
theorem u_go {s : State} {c : Ctx} {q : BitVec 3} {neg scal : Bool} {srcs dsts : List Src}
    (h : UReady s c q neg scal srcs dsts) (hv : ∀ x ∈ srcs, x.vec = false) (words : Nat) {extra : Ctx → List Met}
    (he : extra c = []) (k : Ctx → State) : c.uIssue q neg words scal srcs dsts extra k = k c := by
  rw [uIssue_go (early := []) h he (by simp)]
  congr 1
  clear h
  induction srcs with
  | nil => rfl
  | cons x xs ih =>
    have h1 := hv x (List.mem_cons_self ..)
    simp only [Ctx.consume, List.foldl_cons]
    have : c.consuming x = false := by simp [Ctx.consuming, h1]
    rw [if_neg (by simp [this])]
    exact ih fun y hy => hv y (List.mem_cons_of_mem _ hy)

theorem group_scalar (r : BitVec 6) (n : Nat) (w : Bool) : ∀ x ∈ group false r n w, x.vec = false := by
  intro x hx
  unfold group at hx
  split at hx
  · cases hx
  · obtain ⟨i, -, rfl⟩ := List.mem_map.mp hx; rfl

theorem bSrcs_scalar (b : SrcB) : ∀ x ∈ bSrcs b false, x.vec = false := by
  cases b with
  | reg w r => exact group_scalar r 1 w
  | lit v => intro x hx; cases hx

theorem scalar_append {xs ys : List Src} (h : ∀ x ∈ xs, x.vec = false) (k : ∀ x ∈ ys, x.vec = false) :
    ∀ x ∈ xs ++ ys, x.vec = false := by
  intro x hx
  rcases List.mem_append.mp hx with hx | hx
  · exact h x hx
  · exact k x hx

/-! ## Vector arithmetic -/

theorem started_write (c : Ctx) (srcs dsts : List Src) (n : Nat) (d : BitVec 6) (P : Mask) (f : Nat → Word) :
    c.vEffect (((c.started srcs dsts).setV d P f).advance n) n srcs [d] P fun _ l => f l :=
  vWrite_effect c srcs _ _ n d P f

/-- R122: VR arithmetic with two sources. -/
theorem vArith_spec {op : Word → Word → Word → Word} {readsD : Bool} {f : R3} {s : State} {c : Ctx}
    (h : VReady s c f.g (group true f.a 1 f.wA ++ bSrcs f.b true ++ if readsD then group true f.d 1 true else [])
      (group true f.d 1 true)) :
    ∃ c', vArith op readsD f s = .next (c'.finish false) ∧
      c.vEffect c' (bWords f.b) (group true f.a 1 f.wA ++ bSrcs f.b true ++ if readsD then group true f.d 1 true else [])
        [f.d] (c.parts f.g) fun _ l => op (c.v f.a l) (c.vB f.b l) (c.v f.d l) := by
  refine ⟨_, v_go h _ rfl _, ?_⟩
  rw [Ctx.started_v, Ctx.vB_eq (Ctx.started_v ..)]
  exact started_write ..

/-- R122: VR arithmetic with one source. -/
theorem vArith1_spec {op : Word → Word} {f : R2} {s : State} {c : Ctx}
    (h : VReady s c f.g (group true f.a 1 f.wA) (group true f.d 1 true)) :
    ∃ c', vArith1 op f s = .next (c'.finish false) ∧
      c.vEffect c' 1 (group true f.a 1 f.wA) [f.d] (c.parts f.g) fun _ l => op (c.v f.a l) := by
  refine ⟨_, v_go h _ rfl _, ?_⟩
  rw [Ctx.started_v]
  exact started_write ..

/-- R139: VF. -/
theorem vArith3_spec {op : Word → Word → Word → Word} {f : F4} {s : State} {c : Ctx}
    (h : VReady s c 7 (group true f.a 1 true ++ group true f.b 1 true ++ group true f.c 1 true) (group true f.d 1 true)) :
    ∃ c', vArith3 op f s = .next (c'.finish false) ∧
      c.vEffect c' 1 (group true f.a 1 true ++ group true f.b 1 true ++ group true f.c 1 true) [f.d] (c.parts 7)
        fun _ l => op (c.v f.a l) (c.v f.b l) (c.v f.c l) := by
  refine ⟨_, v_go h _ rfl _, ?_⟩
  rw [Ctx.started_v]
  exact started_write ..

/-- R143: VK. -/
theorem vArithK_spec {op : Word → Word → Word} {imm : BitVec 20 → Word} {readsD : Bool} {f : K} {s : State} {c : Ctx}
    (h : VReady s c 7 (if readsD then group true f.d 1 true else []) (group true f.d 1 true)) :
    ∃ c', vArithK op imm readsD f s = .next (c'.finish false) ∧
      c.vEffect c' 1 (if readsD then group true f.d 1 true else []) [f.d] (c.parts 7)
        fun _ l => op (c.v f.d l) (imm f.i) := by
  refine ⟨_, v_go h _ rfl _, ?_⟩
  rw [Ctx.started_v]
  exact started_write ..

/-- An unguarded instruction acts in every lane of the split's mask (R66). -/
theorem parts_unguarded (c : Ctx) : c.parts 7 = c.sp.mask := by
  simp only [Ctx.parts, Ctx.pmask, if_true, allLanes]
  exact BitVec.and_allOnes (w := 32) (x := c.sp.mask)

/-! ## Compares and pairs -/

/-- R128, R132: a compare writes one lane predicate. -/
theorem vCmp_spec {cond : BitVec 3 → Word → Word → Bool} {f : RCmp} {s : State} {c : Ctx}
    (h : VReady s c f.g (group true f.a 1 f.wA ++ bSrcs f.b true) []) :
    ∃ c', vCmp cond f s = .next (c'.finish false) ∧ c.onward c' (bWords f.b) ∧
      c.wroteV c' (group true f.a 1 f.wA ++ bSrcs f.b true) [] 0 (fun _ _ => 0) ∧ c.sameS c' ∧
      ∀ m, c'.pmask m = if m = f.p ∧ m ≠ 7 then
          (c.pmask m &&& ~~~c.parts f.g) ||| (maskOf (fun l => cond f.c (c.v f.a l) (c.vB f.b l)) &&& c.parts f.g)
        else c.pmask m := by
  refine ⟨_, v_go h _ rfl _, ?_⟩
  obtain ⟨h1, h2, h3, h4, h5, h6, h7⟩ := c.start_spec (group true f.a 1 f.wA ++ bSrcs f.b true)
    (((group true f.a 1 f.wA ++ bSrcs f.b true).filter (·.vec)).map fun x => x.r.toNat) []
  obtain ⟨k1, k2, k3, -, k5, k6, k7⟩ := (c.started (group true f.a 1 f.wA ++ bSrcs f.b true) []).setP_spec f.p
    (c.parts f.g) fun l => cond f.c ((c.started (group true f.a 1 f.wA ++ bSrcs f.b true) []).v f.a l)
      ((c.started (group true f.a 1 f.wA ++ bSrcs f.b true) []).vB f.b l)
  refine ⟨(h1.trans k1).advance _, ⟨fun r l _ => ?_, fun r => ?_⟩, ⟨k2.trans h5, k3.trans h6⟩, fun m => ?_⟩
  · rw [if_neg (by simp)]
    show Ctx.v (Ctx.setP _ _ _ _) r l = _
    rw [k5, Ctx.started_v]
  · rw [if_neg (by simp)]
    show Ctx.vState (Ctx.setP _ _ _ _) r = _
    rw [k6]
    exact h7 r
  · show Ctx.pmask (Ctx.setP _ _ _ _) m = _
    rw [k7 m, Ctx.started_pmask, Ctx.started_v, Ctx.vB_eq (Ctx.started_v ..)]
    by_cases hm : m = f.p ∧ m ≠ 7
    · rw [if_pos hm, if_pos hm, hm.1]
    · rw [if_neg hm, if_neg hm]

theorem Ctx.setVPair_spec (c : Ctx) {d : BitVec 6} (hd : pairOk d = true) (P : Mask) (f : Nat → DWord) :
    let e := c.setVPair d P f
    c.Begun e ∧ e.W.sc = c.W.sc ∧ e.W.swrites = c.W.swrites ∧ (∀ n, e.pmask n = c.pmask n) ∧
    (∀ r l, l < 32 → e.v r l = if r ∈ (if d = 63 then [] else [d, d + 1]) ∧ r ≠ 63 ∧ P.getLsbD l = true then
        (if r = d then (f l).extractLsb' 0 32 else (f l).extractLsb' 32 32) else c.v r l) ∧
    (∀ r, e.vState r = if r ∈ (if d = 63 then [] else [d, d + 1]) ∧ r ≠ 63 then .full else c.vState r) := by
  unfold Ctx.setVPair
  by_cases h63 : d = 63
  · rw [if_pos h63]
    exact ⟨Ctx.Begun.refl c, rfl, rfl, fun _ => rfl, fun r l _ => by rw [if_pos h63, if_neg (by simp)],
      fun r => by rw [if_pos h63, if_neg (by simp)]⟩
  · rw [if_neg h63]
    simp only [if_neg h63]
    obtain ⟨a1, a2, a3, -, -, a4, a5, a6⟩ := c.setV_spec d P fun l => (f l).extractLsb' 0 32
    obtain ⟨b1, b2, b3, -, -, b4, b5, b6⟩ :=
      (c.setV d P fun l => (f l).extractLsb' 0 32).setV_spec (d + 1) P fun l => (f l).extractLsb' 32 32
    have hne : d + 1 ≠ d := by
      have : ∀ d : BitVec 6, d + 1 ≠ d := by decide
      exact this d
    refine ⟨a1.trans b1, b2.trans a2, b3.trans a3, fun n => (b4 n).trans (a4 n), fun r l hl => ?_, fun r => ?_⟩
    · rw [b5 r l hl, a5 r l hl]
      by_cases h1 : r = d
      · subst h1; simp
      · by_cases h2 : r = d + 1
        · simp [h2]
        · simp [h1]
    · rw [b6 r, a6 r]
      by_cases h1 : r = d
      · subst h1; simp
      · by_cases h2 : r = d + 1
        · simp [h2]
        · simp [h1]

/-- R127: the sum goes to both halves of the pair. -/
theorem vLea_spec {scale : Nat} {f : R3} {s : State} {c : Ctx} (hd : pairOk f.d = true)
    (h : VReady s c f.g (group true f.a 2 f.wA ++ bSrcs f.b true) (group true f.d 2 true)) :
    ∃ c', vLea scale f s = .next (c'.finish false) ∧
      c.vEffect c' (bWords f.b) (group true f.a 2 f.wA ++ bSrcs f.b true) (if f.d = 63 then [] else [f.d, f.d + 1])
        (c.parts f.g) fun r l =>
          let x := c.vPair f.a l + (c.vB f.b l).signExtend 64 * BitVec.ofNat 64 scale
          if r = f.d then x.extractLsb' 0 32 else x.extractLsb' 32 32 := by
  refine ⟨_, v_go h _ rfl _, ?_⟩
  obtain ⟨h1, h2, h3, h4, h5, h6, h7⟩ := c.start_spec (group true f.a 2 f.wA ++ bSrcs f.b true)
    (((group true f.a 2 f.wA ++ bSrcs f.b true).filter (·.vec)).map fun x => x.r.toNat)
    (((group true f.d 2 true).filter (·.vec)).map fun x => x.r.toNat)
  rw [Ctx.vB_eq (Ctx.started_v ..), Ctx.vPair_eq (Ctx.started_v ..)]
  obtain ⟨k1, k2, k3, k4, k5, k6⟩ := (c.started (group true f.a 2 f.wA ++ bSrcs f.b true) (group true f.d 2 true)).setVPair_spec
    hd (c.parts f.g) fun l => c.vPair f.a l + (c.vB f.b l).signExtend 64 * BitVec.ofNat 64 scale
  refine ⟨(h1.trans k1).advance _, ⟨fun r l hl => ?_, fun r => ?_⟩, fun m => ?_, k2.trans h5, k3.trans h6⟩
  · show Ctx.v (Ctx.setVPair _ _ _ _) r l = _
    rw [k5 r l hl, Ctx.started_v]
  · show Ctx.vState (Ctx.setVPair _ _ _ _) r = _
    rw [k6 r]
    by_cases hr : r ∈ (if f.d = 63 then [] else [f.d, f.d + 1]) ∧ r ≠ 63
    · rw [if_pos hr, if_pos hr]
    · rw [if_neg hr, if_neg hr]; exact h7 r
  · show Ctx.pmask (Ctx.setVPair _ _ _ _) m = _
    rw [k4 m, Ctx.started_pmask]

/-! ## Scalar arithmetic -/

/-- A scalar instruction that writes one register and goes on. -/
theorem setS_effect (c : Ctx) (n : Nat) (d : BitVec 6) (v : Word) : c.sEffect ((c.setS d v).advance n) n [d] fun _ => v := by
  obtain ⟨h1, -, h3, h4, h5, h6, h7⟩ := c.setS_spec d v
  refine ⟨h1.advance n, ?_, fun m => ?_, fun r l _ => ?_, fun r => ?_⟩
  · exact h7
  · show Ctx.pmask (Ctx.setS _ _ _) m = _
    rw [h6]
  · rw [if_neg (by simp)]
    show Ctx.v (Ctx.setS _ _ _) r l = _
    rw [h4]
  · rw [if_neg (by simp), if_neg (by simp [Ctx.consumes])]
    show Ctx.vState (Ctx.setS _ _ _) r = _
    rw [h5]

/-- R123: UR arithmetic with two sources. -/
theorem sArith_spec {op : Word → Word → Word} {f : R3} {s : State} {c : Ctx}
    (h : UReady s c f.g false false (group false f.a 1 f.wA ++ bSrcs f.b false) (group false f.d 1 true)) :
    ∃ c', sArith op f s = .next (c'.finish true) ∧
      c.sEffect c' (bWords f.b) [f.d] fun _ => op (c.sreg f.a) (c.sB f.b) := by
  refine ⟨_, ?_, setS_effect c (bWords f.b) f.d _⟩
  unfold sArith
  rw [run_of_issues h.1, u_go h (scalar_append (group_scalar _ _ _) (bSrcs_scalar _)) _ rfl]

/-- R123: UR arithmetic with one source. -/
theorem sArith1_spec {op : Word → Word} {f : R2} {s : State} {c : Ctx}
    (h : UReady s c f.g false false (group false f.a 1 f.wA) (group false f.d 1 true)) :
    ∃ c', sArith1 op f s = .next (c'.finish true) ∧ c.sEffect c' 1 [f.d] fun _ => op (c.sreg f.a) := by
  refine ⟨_, ?_, setS_effect c 1 f.d _⟩
  unfold sArith1
  rw [run_of_issues h.1, u_go h (group_scalar _ _ _) _ rfl]

/-- R144: UK. -/
theorem sArithK_spec {op : Word → Word → Word} {readsD : Bool} {f : K} {s : State} {c : Ctx}
    (h : UReady s c 7 false false (if readsD then group false f.d 1 true else []) (group false f.d 1 true)) :
    ∃ c', sArithK op readsD f s = .next (c'.finish true) ∧ c.sEffect c' 1 [f.d] fun _ => op (c.sreg f.d) (immN f.i) := by
  refine ⟨_, ?_, setS_effect c 1 f.d _⟩
  unfold sArithK
  have hv : ∀ x ∈ (if readsD then group false f.d 1 true else []), x.vec = false := by
    split
    · exact group_scalar _ _ _
    · intro x hx; cases hx
  rw [run_of_issues h.1, u_go h hv _ rfl]

end Sys2Proof.Machine
end

