-- ==== Sys2Proof/Tests/Slice0.lean ====
section
/-! SUPPORT. Small tests: ill-formed terms, words that the spec writes out, single instructions on small states, and
for each statement a state and operands that meet its hypotheses. -/

namespace Sys2Proof.Tests

set_option Elab.async false

open Sys2Proof Sys2Proof.Machine Sys2Proof.Claims

/-! ## Small states -/

/-- After reset, one launch (1) of one block (2) of one warp (3) is placed, and its split issues. -/
def base : State := { placed State.reset 0 with cur := some (3, 0), agenda := [] }
/-- The warp changed. -/
def onWarp (s : State) (f : Warp → Warp) : State := { s with warps := tmod s.warps 3 f }
/-- Its splits changed. -/
def onSplit (s : State) (f : Split → Split) : State := onWarp s fun W => { W with splits := W.splits.map f }
/-- The block changed. -/
def onBlock (s : State) (f : Block → Block) : State := { s with blocks := tmod s.blocks 2 f }
/-- The launch changed. -/
def onLaunch (s : State) (f : Launch → Launch) : State := { s with launches := tmod s.launches 1 f }
/-- The partition changed. -/
def onPart (s : State) (f : Part → Part) : State := s.setPart 0 (f (s.part 0))
/-- The VF changed. -/
def onVf (s : State) (f : Vf → Vf) : State := { s with vfs := tmod s.vfs 0 f }

/-- A slot whose fragment runs; its parent's scalar side is at hand. -/
def slot0 : Slot :=
  { ncore := 0, slot := 0, stage := .running, lanes := 1, present := 0, dirty := 0, vst := [], v := [], p := [], pDirty := 0
    pending := 0, pulls := [], xfers := [], refused := none, sreq := none, snap := some Scal.reset, barReq := none
    hintdrop := 0, cycleh := 0, queue := [], older := 0, last := 0 }

/-- The issuing context, or any. -/
def ctxOf (s : State) : Ctx := (issuer s).getD { s := s, w := 0, W := newWarp 0 0 0 0 0 0 0, sp := blankSplit 0 }

theorem issuer_of (s : State) (h : (issuer s).isSome = true) : issuer s = some (ctxOf s) := by
  unfold ctxOf
  cases h' : issuer s <;> simp_all

/-- The split may issue. -/
def canIssue (s : State) : Bool := (issuer s).isSome && (ctxOf s).mayIssue

theorem issues_of (s : State) (h : canIssue s = true) : Issues s (ctxOf s) := by
  simp only [canIssue, Bool.and_eq_true] at h
  exact ⟨issuer_of s h.1, h.2⟩

theorem vready_of (s : State) (g : BitVec 3) (srcs dsts : List Src)
    (h : (canIssue s && (ctxOf s).parts g != 0 && decide ((ctxOf s).collectors < 8) &&
      (ctxOf s).ready ((ctxOf s).parts g) srcs dsts false) = true) : VReady s (ctxOf s) g srcs dsts := by
  simp only [Bool.and_eq_true, decide_eq_true_eq, bne_iff_ne] at h
  exact ⟨issues_of s h.1.1.1, h.1.1.2, fun _ => h.1.2, h.2⟩

theorem uready_of (s : State) (q : BitVec 3) (neg scal : Bool) (srcs dsts : List Src)
    (h : (canIssue s && ((q == 7) || (ctxOf s).scalarSide) && ((ctxOf s).qreg q == !neg) &&
      (ctxOf s).ready 0 srcs dsts scal) = true) : UReady s (ctxOf s) q neg scal srcs dsts := by
  simp only [Bool.and_eq_true, Bool.or_eq_true, beq_iff_eq] at h
  exact ⟨issues_of s h.1.1.1, h.1.1.2, h.1.2, h.2⟩

theorem eready_of (s : State) (d : BitVec 6) (srcs : List Src)
    (h : ((ctxOf s).settled && (canIssue s && (ctxOf s).ready 0 srcs (group false d 1 true) false)) = true) :
    EReady s (ctxOf s) d srcs := by
  simp only [Bool.and_eq_true] at h
  exact ⟨h.1, issues_of s h.2.1, .inl rfl, by simp [Ctx.qreg, Scal.qreg], h.2.2⟩

theorem runs {i : Instr} {s : State} {u : Bool} {P : Ctx → Prop} (h : completes i s u P) : ∃ t, exec i s = .next t := by
  obtain ⟨c', h, _⟩ := h
  exact ⟨_, h⟩

theorem made {i : Instr} {s : State} {c : Ctx} {k : OpKind} {d : BitVec 6} {P : Ctx → Prop} (h : issues i s c k d P) :
    ∃ t, exec i s = .next t := by
  obtain ⟨c', h, _⟩ := h
  exact ⟨_, h⟩

theorem pushed {i : Instr} {s : State} {c : Ctx} {u : Bool} {P : Ctx → Prop} (h : pushes i s c u P) : ∃ t, exec i s = .next t := by
  obtain ⟨c', _, h, _⟩ := h
  exact ⟨_, h⟩

/-- Operands that the tests share: registers 3, 1 and 2, every source waiting. -/
def r3 : R3 := { g := 7, wA := true, d := 3, a := 1, b := .reg true 2 }
def r2 : R2 := { g := 7, wA := true, d := 3, a := 1 }
def rp : R3 := { g := 7, wA := true, d := 4, a := 2, b := .reg true 6 }
def cmp : RCmp := { g := 7, wA := true, c := 2, p := 1, a := 1, b := .lit 5 }
def plop : PLop := { g := 7, f := 1, p := 0, t := 1, u := 2 }
def kk : K := { d := 3, i := 0xFFFFF }

/-! ## Hypotheses met: vector and scalar results -/

theorem test_witness_IntegerAndUnaryResults : Obligations.IntegerAndUnaryResults →
    (∃ t, exec (.iadd r3) base = .next t) ∧ (∃ t, exec (.iabs r2) base = .next t) ∧
    (∃ t, exec (.frnd { g := 7, wA := true, d := 3, a := 1, m := 3 }) base = .next t) ∧
    ∃ t, exec (.cvt { g := 7, wA := true, d := 63, a := 1, k := 5 }) base = .next t :=
  fun h => ⟨runs (h.1 _ (.head _) r3 base _ (vready_of base _ _ _ (by decide))),
    runs (h.2.1 _ (.head _) r2 base _ (vready_of base _ _ _ (by decide))),
    runs (h.2.2.1 { g := 7, wA := true, d := 3, a := 1, m := 3 } base _ (vready_of base _ _ _ (by decide))),
    runs (h.2.2.2 { g := 7, wA := true, d := 63, a := 1, k := 5 } base _ (vready_of base _ _ _ (by decide)))⟩

theorem test_witness_VectorFloatResults : Obligations.VectorFloatResults → ∃ t, exec (.fadd r3) base = .next t :=
  fun h => runs (h _ (.head _) r3 base _ (vready_of base _ _ _ (by decide)))

theorem test_witness_VectorThreeSourceAndImmediate : Obligations.VectorThreeSourceAndImmediate →
    (∃ t, exec (.imad { c := 1, d := 2, a := 3, b := 63 }) base = .next t) ∧ ∃ t, exec (.faddk kk) base = .next t :=
  fun h => ⟨runs (h.1 _ (.head _) { c := 1, d := 2, a := 3, b := 63 } base _ (vready_of base _ _ _ (by decide))),
    runs (h.2 _ (.head _) kk base _ (vready_of base _ _ _ (by decide)))⟩

theorem test_witness_VectorAddressForms : Obligations.VectorAddressForms → ∃ t, exec (.leaw rp) base = .next t :=
  fun h => runs (h _ (.head _) rp base _ (vready_of base _ _ _ (by decide)) (by decide) (by decide))

theorem test_witness_ScalarResults : Obligations.ScalarResults →
    (∃ t, exec (.sadd r3) base = .next t) ∧ (∃ t, exec (.spopc r2) base = .next t) ∧ ∃ t, exec (.saddk kk) base = .next t :=
  fun h => ⟨runs (h.1 _ (.head _) r3 base _ (uready_of base _ _ _ _ _ (by decide))),
    runs (h.2.1 _ (.head _) r2 base _ (uready_of base _ _ _ _ _ (by decide))),
    runs (h.2.2 _ (.head _) kk base _ (uready_of base _ _ _ _ _ (by decide)))⟩

theorem test_witness_ScalarPredicateAndSelect : Obligations.ScalarPredicateAndSelect →
    (∃ t, exec (.scmp cmp) base = .next t) ∧ (∃ t, exec (.qlop plop) base = .next t) ∧
    (∃ t, exec (.slea rp) base = .next t) ∧ ∃ t, exec (.ssel { r3 with g := 2 }) base = .next t :=
  fun h => ⟨runs (h.1 cmp base _ (uready_of base _ _ _ _ _ (by decide))),
    runs (h.2.1 plop base _ (uready_of base _ _ _ _ _ (by decide))),
    runs (h.2.2.1 rp base _ (by decide) (by decide) (uready_of base _ _ _ _ _ (by decide))),
    runs (h.2.2.2 { r3 with g := 2 } base _ (uready_of base _ _ _ _ _ (by decide)))⟩

theorem test_witness_LanePredicateResults : Obligations.LanePredicateResults →
    (∃ t, exec (.icmp cmp) base = .next t) ∧ ∃ t, exec (.plop plop) base = .next t :=
  fun h => ⟨runs (h.1 cmp base _ (vready_of base _ _ _ (by decide))).1,
    runs (h.2 plop base _ (vready_of base _ _ _ (by decide)))⟩

theorem test_witness_ShuffleResults : Obligations.ShuffleResults → ∃ t, exec (.shfli r3) base = .next t :=
  fun h => runs (h _ (.head _) r3 base _ (vready_of base _ _ _ (by decide)))

theorem test_witness_CrossLaneResults : Obligations.CrossLaneResults →
    (∃ t, exec (.readlane r3) base = .next t) ∧ (∃ t, exec (.bcast r2) base = .next t) ∧
    (∃ t, exec (.vote { g := 7, m := 2, p := 1, t := 3 }) base = .next t) ∧
    (∃ t, exec (.ballot { g := 7, d := 3, t := 7 }) base = .next t) ∧
    ∃ t, exec (.csrv { g := 7, d := 3, b := 5 }) base = .next t :=
  fun h => ⟨runs (h.1 r3 base _ (vready_of base _ _ _ (by decide))),
    runs (h.2.1 r2 base _ (vready_of base _ _ _ (by decide))),
    runs (h.2.2.1 { g := 7, m := 2, p := 1, t := 3 } base _ (by decide) (vready_of base _ _ _ (by decide))),
    runs (h.2.2.2.1 { g := 7, d := 3, t := 7 } base _ (vready_of base _ _ _ (by decide))),
    runs (h.2.2.2.2 { g := 7, d := 3, b := 5 } base _ (by decide) (vready_of base _ _ _ (by decide)))⟩

/-- The split is a fragment that runs on a narrow core. -/
def inFragment : State := onSplit base fun X => { X with mask := 1, home := .ncore slot0 }

/-- A reduction into sq1 is on its way. -/
def reducing : State := onWarp base fun W => { W with reds := [(1, 9)] }

theorem test_witness_ReductionResults : Obligations.ReductionResults →
    (∃ t, exec (.redadd { g := 7, wA := true, n := 1, a := 9 }) base = .next t) ∧
    exec (.redadd { g := 7, wA := true, n := 1, a := 9 }) inFragment = .next (recalled (ctxOf inFragment) slot0) ∧
    (∃ t, exec (.reductionComplete 3 1) reducing = .next t) ∧
    ∃ t, exec (.sqrd { g := 7, d := 3, n := 1, b := .lit 0x10000 }) base = .next t :=
  fun h => ⟨(h.1 _ (.head _) { g := 7, wA := true, n := 1, a := 9 } base _ rfl
      (vready_of base _ _ _ (by decide))).elim fun _ x => ⟨_, x.1⟩,
    h.2.1 _ (.head _) { g := 7, wA := true, n := 1, a := 9 } inFragment _ slot0 (issues_of inFragment (by decide)) rfl,
    (h.2.2.1 reducing 3 1 _ 9 rfl (by decide) (by decide)).elim fun _ x => x.elim fun _ x => ⟨_, x.1⟩,
    runs (h.2.2.2 { g := 7, d := 3, n := 1, b := .lit 0x10000 } base _ (uready_of base _ _ _ _ _ (by decide)) (by decide))⟩

/-! ## Hypotheses met: memory -/

def fm : M := { g := 7, w := true, d := 3, a := 4, o := 0 }
def fq : M := { g := 7, w := true, d := 4, a := 8, o := 0x80 }
def fz : M := { g := 7, w := true, d := 63, a := 4, o := 1 }
def fs : MS := { g := 7, w := true, d := 4, a := 8, s := 3 }
/-- Two lanes; the block has CSM; v1 holds references, v4 and v5 the addresses of granules of CSM, s8 a global address. -/
def csm : State :=
  onSplit (onBlock (onWarp base fun W => { W with
    v := [(1, [0, 1008]), (4, [0, 0xF8]), (5, [0x01FFFF00, 0x01FFFF00])], vst := []
    sc := { W.sc with s := [(1, 16), (8, 0x100)] } }) fun B => { B with size := 1024 }) fun X => { X with mask := 3 }

theorem test_witness_VectorLoads : Obligations.VectorLoads →
    (∃ t, exec (.ldbs fm) base = .next t) ∧ (∃ t, exec (.ldbs fm) csm = .next t) ∧ (∃ t, exec (.ldbs fz) csm = .next t) ∧
    ∃ t, exec (.sldw fz) csm = .next t :=
  fun h => ⟨runs (h.1 _ (.head _) fm base _ _ (by decide) (by decide) (vready_of base _ _ _ (by decide))
      (by unfold clean; decide) (fun e => by cases e) rfl),
    runs (h.1 _ (.head _) fm csm _ _ (by decide) (by decide) (vready_of csm _ _ _ (by decide))
      (by unfold clean; decide) (fun e => by cases e) rfl),
    runs (h.2.1 _ (.head _) rfl fz csm _ rfl rfl (vready_of csm _ _ _ (by decide))),
    runs (h.2.2 _ (.head _) fz csm _ rfl rfl (uready_of csm _ _ _ _ _ (by decide)))⟩

theorem test_witness_VectorStoreIssue : Obligations.VectorStoreIssue → ∃ t, exec (.stb fm) csm = .next t :=
  fun h => runs (h _ (.head _) fm csm _ (by decide) (vready_of csm _ _ _ (by decide)) (by unfold clean; decide) (by decide))

theorem test_witness_VectorOrderedIssue : Obligations.VectorOrderedIssue →
    (∃ t, exec (.ldacq fs) base = .next t) ∧ (∃ t, exec (.strel fs) base = .next t) ∧ ∃ t, exec (.atadd fs) base = .next t :=
  fun h => ⟨runs (h.1 fs base _ (vready_of base _ _ _ (by decide)) (by unfold clean; decide) rfl),
    runs (h.2.1 fs base _ (vready_of base _ _ _ (by decide)) (by unfold clean; decide) rfl),
    runs (h.2.2 _ (.head _) fs base _ (by decide) (vready_of base _ _ _ (by decide)) (by unfold clean; decide) rfl)⟩

def fl : M := { g := 7, w := true, d := 8, a := 1, o := 0 }

/-- Both lanes name one granule. -/
def oneGranule : State := onWarp csm fun W => { W with v := [(1, [0, 0])] }

theorem test_witness_GranuleForms : Obligations.GranuleForms →
    (∃ t, exec (.ldlf fl) csm = .next t) ∧ (∃ t, exec (.ldlc fl) csm = .next t) ∧ (∃ t, exec (.ldlc fl) oneGranule = .next t) ∧
    ∃ t, exec (.stlf fl) csm = .next t :=
  fun h => ⟨runs (h.1 fl csm _ (by decide) (vready_of csm _ _ _ (by decide)) (by unfold clean; decide) (by decide) (by decide)),
    runs (h.2.1 fl csm _ (by decide) (vready_of csm _ _ _ (by decide)) (by unfold clean; decide) (by decide) (by decide)
      (by decide) (by decide)),
    (h.2.2.1 fl oneGranule _ (by decide) (vready_of oneGranule _ _ _ (by decide)) (by unfold clean; decide) (by decide) (by decide)
      (by decide) ⟨1, by decide, 0, by decide, by decide, by decide⟩).elim fun _ x => x.elim fun _ x => ⟨_, x.1⟩,
    runs (h.2.2.2 fl csm _ (by decide) (vready_of csm _ _ _ (by decide)) (by unfold clean; decide) (by decide))⟩

/-- A special function is on its way; a lane in CSM of a load, and of an atomic, reads now. -/
def later : State :=
  let o : SfuOp := { warp := 3, split := 0, frag := false, fn := 0, d := 3, lanes := 1, args := [] }
  let x : LaneAcc := { lane := 31, ea := localBase, tgt := .csm 0 0, val := 5, val2 := 0, res := 0, denied := false, got := false }
  let a : Access :=
    { warp := 3, split := 0, uid := 0, frag := false, threads := 0x80000000, age := 0, sup := false, pc := 0, kind := .load 8 false
      scalar := false, dst := [6, 7], lanes := [x], subs := [], released := false, gone := none }
  { base with sfus := [(9, o)], accs := [(10, a), (11, { a with kind := .atom 0 1, dst := [5], frag := false, split := 1 })] }

/-- Its register is shared with warp 6, whose copy follows; the function was issued by a fragment. -/
def laterShared : State :=
  { onWarp later fun W => { W with shr := some (3, 1, 6) } with
    warps := [(3, { (ctxOf base).W with shr := some (3, 1, 6) }), (6, newWarp 2 1 0 1 allLanes 0 0)] }

theorem test_witness_SpecialFunctions : Obligations.SpecialFunctions →
    (∃ t, exec (.frcp r2) base = .next t) ∧ (∃ t, exec (.sfuResult 9) later = .next t) ∧
    (∃ (t : State) (W P : Warp), exec (.sfuResult 9) laterShared = .next t ∧ tfind t.warps 6 = some P ∧ P.vlanes 3 = W.vlanes 3) ∧
    ∃ t, exec (.sfuResult 9) { onSplit later fun X => { X with mask := 1, home := .ncore slot0 } with
      sfus := [(9, { warp := 3, split := 0, frag := true, fn := 0, d := 3, lanes := 1, args := [] })] } = .next t :=
  fun h => ⟨runs (h.1 _ (.head _) r2 base _ (vready_of base _ _ _ (by decide))),
    (h.2.1 9 later _ _ rfl rfl rfl).elim fun _ x => x.elim fun _ x => ⟨_, x.1⟩,
    (h.2.1 9 laterShared _ _ rfl rfl rfl).elim fun _ x => x.elim fun W x =>
      (x.2.2.2.2.2.1 3 1 6 _ rfl (by decide) rfl).elim fun P y => ⟨_, W, P, x.1, y.1, (y.2.1 3 (by decide) (by decide)).1⟩,
    (h.2.2 9 { onSplit later fun X => { X with mask := 1, home := .ncore slot0 } with
      sfus := [(9, { warp := 3, split := 0, frag := true, fn := 0, d := 3, lanes := 1, args := [] })] } _ _ _ _ rfl rfl rfl rfl rfl
      rfl).elim fun _ x => ⟨_, x.1⟩⟩

theorem test_witness_LoadResults : Obligations.LoadResults → ∃ t, exec (.longLatencyResult 10) later = .next t :=
  fun h => (h 10 later _ _ rfl rfl rfl rfl rfl (.inr (.inr ⟨8, false, rfl⟩)) (by decide) (by decide) (by decide) (by decide)
    (fun _ => rfl)).elim fun _ x => x.elim fun _ x => ⟨_, x.1⟩

theorem test_witness_AtomicOnCsm : Obligations.AtomicOnCsm → ∃ t, exec (.longLatencyResult 11) { later with accs := later.accs.drop 1 } = .next t :=
  fun h => (h 11 0 { later with accs := later.accs.drop 1 } _ _ _ 5 0 0 rfl rfl rfl rfl rfl rfl rfl rfl rfl rfl (by decide) rfl
    (by decide) (by decide)).elim fun _ x => x.elim fun _ x => ⟨_, x.1⟩

/-- The older of two stores that share a byte with a load lies beneath the younger, which holds all of it. -/
theorem test_witness_StoreForwarding : Obligations.StoreForwarding →
    let y : LaneAcc := { lane := 0, ea := 8, tgt := .glob, val := 0xAABBCCDD, val2 := 0, res := 0, denied := false, got := false }
    let e : StoreE := { size := 4, rel := none, stlf := false, lanes := [y], pc := 0, split := 0, sup := false, age := 0, uid := 0, threads := 1 }
    forwardOne 1 { y with ea := 11 } [e, { e with size := 1 }] = some { y with ea := 11, res := 0xAA, got := true } :=
  fun h => ((h 1 _ [_, _]).2 [] [_] _ _ [] [] rfl (by decide) rfl (by decide) (by decide)).trans rfl

/-- A queue holds a store. -/
def stored (x : LaneAcc) : StoreE :=
  { size := 4, rel := none, stlf := true, lanes := [x], pc := 0, split := 0, sup := false, age := 0, uid := 0, threads := 1 }
def storing (x : LaneAcc) : State := onWarp base fun W => { W with fifo := [stored x] }

theorem test_witness_StoreDrain : Obligations.StoreDrain →
    let x : LaneAcc := { lane := 0, ea := 8, tgt := .csm 0 8, val := 1, val2 := 0, res := 0, denied := false, got := false }
    (∃ t, exec (.storeFifoDrain 3 none) (storing x) = .next t) ∧
    (∃ t, exec (.storeFifoDrain 3 none) (storing { x with tgt := .glob }) = .next t) ∧
    ∃ t, exec (.storeFifoDrain 3 (some 0)) (onSplit base fun X => { X with mask := 1, home := .ncore { slot0 with queue := [stored x] } }) =
      .next t :=
  fun h => ⟨(h.1 (storing _) 3 _ _ _ rfl rfl rfl (by decide) (by simp [stored])).elim fun _ x => x.elim fun _ x => ⟨_, x.1⟩,
    (h.1 (storing _) 3 _ _ _ rfl rfl rfl (by decide) (by simp [stored])).elim fun _ x => x.elim fun _ x => ⟨_, x.1⟩,
    (h.2 (onSplit base fun X => { X with mask := 1, home := .ncore { slot0 with queue := [stored _] } }) 3 0 _ _ _ _ ⟨rfl, rfl⟩ rfl rfl
      (by decide) (by simp [stored])).elim fun _ x => ⟨_, x.1⟩⟩

theorem test_witness_ScalarMemoryIssue : Obligations.ScalarMemoryIssue →
    (∃ t, exec (.sldw fm) base = .next t) ∧ (∃ t, exec (.sldacq fs) base = .next t) ∧ (∃ t, exec (.satadd fs) base = .next t) ∧
    (∃ t, exec (.waitv fs) base = .next t) ∧ (∃ t, exec (.sstw fm) base = .next t) ∧ ∃ t, exec (.sstrel fs) base = .next t :=
  fun h => ⟨runs (h.1 _ (.head _) fm base _ _ (by decide) (uready_of base _ _ _ _ _ (by decide)) (by decide) rfl),
    runs (h.2.1 fs base _ (uready_of base _ _ _ _ _ (by decide)) (by decide) rfl),
    runs (h.2.2.1 _ (.head _) fs base _ (uready_of base _ _ _ _ _ (by decide)) (by decide) rfl),
    runs (h.2.2.2.1 fs base _ (uready_of base _ _ _ _ _ (by decide)) (by decide) rfl),
    runs (h.2.2.2.2.1 _ (.head _) fm base _ (uready_of base _ _ _ _ _ (by decide)) (by decide) (by decide)),
    runs (h.2.2.2.2.2 fs base _ (uready_of base _ _ _ _ _ (by decide)) (by decide) rfl)⟩

/-! ## Hypotheses met: control flow -/

theorem test_witness_GuardFalseDoesNothing : Obligations.GuardFalseDoesNothing →
    (∃ t, exec (.nop { g := 2 }) base = .next t) ∧ (∃ t, exec (.iadd { r3 with g := 2, b := .lit 1 }) base = .next t) ∧
    ∃ t, exec (.bra { g := 7, n := true, o := 1 }) base = .next t :=
  fun h => ⟨⟨_, h (.nop { g := 2 }) _ false 2 false base _ rfl rfl (issues_of base (by decide)) rfl (by decide)⟩,
    ⟨_, h (.iadd { r3 with g := 2, b := .lit 1 }) _ true 2 false base _ rfl rfl (issues_of base (by decide)) rfl (by decide)⟩,
    ⟨_, h (.bra { g := 7, n := true, o := 1 }) _ false 7 true base _ rfl rfl (issues_of base (by decide)) rfl (by decide)⟩⟩

/-- The split called, and its pass counter s1 is at its last pass. -/
def called : State := onSplit (onWarp base fun W => { W with sc := { W.sc with s := [(1, 1), (2, 0x40)] } })
  fun X => { X with stack := [.call 0xFFC] }

theorem test_witness_UniformBranches : Obligations.UniformBranches →
    (∃ t, exec (.bra { g := 7, n := false, o := 0x3FF }) base = .next t) ∧
    (∃ t, exec (.call { g := 7, n := false, o := 0 }) base = .next t) ∧
    (∃ t, exec (.jmp { g := 7, wA := true, a := 2 }) called = .next t) ∧
    (∃ t, exec (.callr { g := 7, wA := true, a := 2 }) called = .next t) ∧
    (∃ t, exec (.ret { g := 7 }) called = .next t) ∧ (∃ t, exec (.loop { g := 7, d := 1, o := 0x7FFFFFFF }) called = .next t) ∧
    ∃ t, exec (.loop { g := 7, d := 2, o := 3 }) called = .next t :=
  fun h => ⟨runs (h.1 { g := 7, n := false, o := 0x3FF } base _ (uready_of base _ _ _ _ _ (by decide)) (by decide)).1,
    pushed ((h.1 { g := 7, n := false, o := 0 } base _ (uready_of base _ _ _ _ _ (by decide)) (by decide)).2 (by decide)),
    runs (h.2.1 { g := 7, wA := true, a := 2 } called _ (uready_of called _ _ _ _ _ (by decide)) (by decide)).1,
    pushed ((h.2.1 { g := 7, wA := true, a := 2 } called _ (uready_of called _ _ _ _ _ (by decide)) (by decide)).2 (by decide)),
    runs (h.2.2.1 { g := 7 } called _ _ _ (uready_of called _ _ _ _ _ (by decide)) rfl (by decide) (by decide)),
    runs (h.2.2.2 { g := 7, d := 1, o := 0x7FFFFFFF } called _ (uready_of called _ _ _ _ _ (by decide)) (.inl (by decide))),
    runs (h.2.2.2 { g := 7, d := 2, o := 3 } called _ (uready_of called _ _ _ _ _ (by decide)) (.inr (by decide)))⟩

def brd : BrdOps := { p := 1, n := false, x := true, t := 10, j := 20 }
/-- p1 holds in two lanes; a path of two lanes may be exported. -/
def dividing : State := onWarp base fun W => { W with p := [(1, 3)], sc := { W.sc with csr := { W.sc.csr with exthr := 2 } } }
/-- Every split id is in use. -/
def crowded : State := onWarp dividing fun W => { W with splits := W.splits ++ [blankSplit 1, blankSplit 2, blankSplit 3] }

theorem test_witness_DivergentBranch : Obligations.DivergentBranch →
    (∃ t, exec (.brd { brd with p := 7 }) dividing = .next t) ∧ (∃ t, exec (.brd { brd with p := 7, n := true }) dividing = .next t) ∧
    (∃ t, exec (.brd brd) crowded = .next t) ∧ (∃ t, exec (.brd { brd with x := false }) dividing = .next t) ∧
    (∃ t, exec (.brd { brd with x := false, t := 20 }) dividing = .next t) ∧ ∃ t, exec (.brd brd) dividing = .next t :=
  fun h => ⟨runs ((h { brd with p := 7 } dividing _ (vready_of dividing _ _ _ (by decide)) (by decide) (by decide)).1 (by decide)),
    runs ((h { brd with p := 7, n := true } dividing _ (vready_of dividing _ _ _ (by decide)) (by decide) (by decide)).2.1 (by decide)),
    pushed (((h brd crowded _ (vready_of crowded _ _ _ (by decide)) (by decide) (by decide)).2.2 (by decide) (by decide)
      (by decide)).1 (.inr fun k hk => by
        have h1 := hk.2.1
        have h2 : ∀ k, k < 4 → ∃ X ∈ (ctxOf crowded).W.splits, X.id = k := by decide
        obtain ⟨X, hX, e⟩ := h2 k hk.1
        exact h1 X hX e)),
    pushed (((h { brd with x := false } dividing _ (vready_of dividing _ _ _ (by decide)) (by decide) (by decide)).2.2 (by decide)
      (by decide) (by decide)).2 1 rfl (by unfold lowestFree; decide) |>.1 (.inl rfl) |>.1 (by decide)),
    pushed (((h { brd with x := false, t := 20 } dividing _ (vready_of dividing _ _ _ (by decide)) (by decide) (by decide)).2.2
      (by decide) (by decide) (by decide)).2 1 rfl (by unfold lowestFree; decide) |>.1 (.inl rfl) |>.2 rfl),
    ((((h brd dividing _ (vready_of dividing _ _ _ (by decide)) (by decide) (by decide)).2.2 (by decide)
      (by decide) (by decide)).2 1 rfl (by unfold lowestFree; decide)).2 0 0 rfl (by decide) (by decide)).elim fun _ x =>
        x.elim fun _ x => ⟨_, x.1⟩⟩

/-- Lanes 0 and 1 jump to 16 and to 1008. -/
def jumps : JmpV := { wA := true, a := 1, b := .lit 64 }

theorem test_witness_LaneJumps : Obligations.LaneJumps →
    (∃ t, exec (.jmpv { jumps with a := 2 }) csm = .next t) ∧ (∃ t, exec (.jmpv jumps) csm = .next t) ∧
    ∃ t, exec (.jmpv { jumps with b := .lit 0 }) csm = .next t :=
  fun h => ⟨runs ((h { jumps with a := 2 } csm _ (vready_of csm _ _ _ (by decide)) (by decide) (by decide) (by decide)).1 (by decide)),
    pushed ((((h jumps csm _ (vready_of csm _ _ _ (by decide)) (by decide) (by decide) (by decide)).2 (by decide)
      (by decide)).2 1 rfl (by unfold lowestFree; decide)).1 (by decide)),
    pushed ((((h { jumps with b := .lit 0 } csm _ (vready_of csm _ _ _ (by decide)) (by decide) (by decide) (by decide)).2 (by decide)
      (by decide)).2 1 rfl (by unfold lowestFree; decide)).2 (by decide))⟩

/-- The split stands at the J of its innermost join. -/
def joining (e : JoinE) : Ctx := ctxOf (onSplit base fun X => { X with pc := 64, mask := 1, stack := [.join e] })
def join1 : JoinE := { id := 0, j := 64, mask := 3, arrived := 2, fmt := 0, defer := none, joins := 0 }

theorem test_witness_JoinArrival : Obligations.JoinArrival →
    (∃ X, ((tfind ((joining { join1 with defer := some (8, 2) }).finish true).warps 3).bind fun W => W.split 0) = some X ∧
      X.pc = 8) ∧
    (∃ X, ((tfind ((joining { join1 with arrived := 0 }).finish true).warps 3).bind fun W => W.split 0) = some X ∧
      X.wait = .atJoin 0) ∧
    ∃ X, ((tfind ((joining join1).finish true).warps 3).bind fun W => W.split 0) = some X ∧ X.mask = 3 :=
  fun h => ⟨((h (joining { join1 with defer := some (8, 2) }) _ [] true rfl rfl rfl (by simp) rfl rfl rfl (by decide) rfl rfl
      rfl).1 8 2 rfl (by decide) (by decide)).elim fun X x => ⟨X, x.1, x.2.1⟩,
    ((h (joining { join1 with arrived := 0 }) _ [] true rfl rfl rfl (by simp) rfl rfl rfl (by decide) rfl rfl rfl).2.1 rfl
      (.inr (by decide))).elim fun X x => ⟨X, x.1, x.2.1⟩,
    ((h (joining join1) _ [] true rfl rfl rfl (by simp) rfl rfl rfl (by decide) rfl rfl rfl).2.2 rfl rfl (by decide) rfl rfl
      (by decide)).elim fun X x => ⟨X, x.1, x.2.2.2.2.1⟩⟩

theorem test_witness_IdleAndExit : Obligations.IdleAndExit →
    (∃ t, exec (.nop { g := 7 }) base = .next t) ∧ (∃ t, exec (.yield { g := 7 }) base = .next t) ∧
    (∃ t, exec (.exit { g := 7 }) base = .next t) ∧ (∃ t, exec (.sleep { g := 7, b := .lit 0 }) base = .next t) ∧
    (∃ t, exec (.sleepExpire 3 0) (onSplit base fun X => { X with wait := .sleep 5 }) = .next t) ∧
    ∃ t, exec (.waitvWake 3 0) (onSplit base fun X => { X with wait := .waitvSleep 8 1 }) = .next t :=
  fun h => ⟨runs (h.1 { g := 7 } base _ (uready_of base _ _ _ _ _ (by decide))).1,
    runs ((h.1 { g := 7 } base _ (uready_of base _ _ _ _ _ (by decide))).2.1 (.inl rfl)),
    (h.1 { g := 7 } base _ (uready_of base _ _ _ _ _ (by decide))).2.2.elim fun _ x => x.elim fun _ x => ⟨_, x.1⟩,
    runs (h.2.1 { g := 7, b := .lit 0 } base _ (uready_of base _ _ _ _ _ (by decide))),
    ((h.2.2 3 0 5 0 0 (onSplit base fun X => { X with wait := .sleep 5 }) _ rfl rfl).1 rfl rfl (by decide)).elim
      fun _ x => ⟨_, x.1⟩,
    ((h.2.2 3 0 0 8 1 (onSplit base fun X => { X with wait := .waitvSleep 8 1 }) _ rfl rfl).2 rfl).elim fun _ x => ⟨_, x.1⟩⟩

/-! ## Hypotheses met: traps, returns, CSRs -/

/-- The warp has a user handler at 0x40. -/
def handler (s : State) : State := onWarp s fun W => { W with sc := { W.sc with csr := { W.sc.csr with trapv := 0x40 } } }
/-- The issuing split is a fragment. -/
def away (f : Slot) : State := onSplit base fun X => { X with mask := 1, home := .ncore f }
/-- The instruction buffer holds a word without a meaning. -/
def unknown : State := onSplit (handler base) fun X => { X with ibuf := [(0, 0xBF000000)] }

theorem test_witness_UserTraps : Obligations.UserTraps →
    (∃ t, exec (.trap { g := 7, wA := true, a := 63, b := 63 }) (handler base) = .next t) ∧
    (∃ t, exec (.trap { g := 7, wA := true, a := 63, b := 0 }) (away slot0) = .next t) ∧
    (∃ t, exec (.bkpt { g := 7 }) (handler base) = .next t) ∧ (∃ t, exec (.illegalEncoding 0xBF000000) unknown = .next t) ∧
    ∃ t, exec (.trap { g := 7, wA := true, a := 63, b := 16 }) base = .next t :=
  fun h => ⟨⟨_, (h.1.1 { g := 7, wA := true, a := 63, b := 63 } (handler base) _ (uready_of (handler base) _ _ _ _ _ (by decide))).1 (by unfold canTrap; decide)⟩,
    ⟨_, (h.1.1 { g := 7, wA := true, a := 63, b := 0 } (away slot0) _ (uready_of (away slot0) _ _ _ _ _ (by decide))).2 _ rfl rfl⟩,
    ⟨_, h.1.2.1 { g := 7 } (handler base) _ (uready_of (handler base) _ _ _ _ _ (by decide)) (by unfold canTrap; decide) rfl⟩,
    ⟨_, h.1.2.2 0xBF000000 unknown _ (issues_of unknown (by decide)) (by unfold canTrap; decide) rfl⟩,
    (h.2 { g := 7, wA := true, a := 63, b := 16 } base _ _ _ (uready_of base _ _ _ _ _ (by decide)) rfl rfl (.inl rfl) (by decide)
      rfl rfl rfl).elim fun _ x => ⟨_, x.1⟩⟩

/-- The handler runs in split 0. -/
def handling : State := onWarp (handler base) fun W => { W with sc := { W.sc with csr := { W.sc.csr with
  trapc := 0x80A, trappc := 0x80 } } }
/-- A cause of the supervisor that waits on an instruction. -/
def sup0 : SupCause := { cause := 0x05, split := 0, uid := 0, frag := false, addr := 64, aux := 7, kind := 2, ref := 0, sub := 0 }
/-- The supervisor handler runs for it. -/
def serving : State := onWarp (onSplit base fun X => { X with sup := true }) fun W => { W with supNow := some sup0 }
/-- It runs for the cause of an access. -/
def servingAccess : State := onWarp serving fun W => { W with supNow := some { sup0 with kind := 0, ref := 10 } }
/-- The handler interrupted an LDLC that had consumed a granule. -/
def consumed : State := onSplit handling fun X => { X with kept := [(0x80, [(1, [7])])] }

theorem test_witness_HandlerReturn : Obligations.HandlerReturn →
    (∃ t, exec (.eret { g := 7 }) handling = .next t) ∧ (∃ t, exec (.eret { g := 7 }) base = .next t) ∧
    (∃ t, exec (.eret { g := 7 }) consumed = .next t) ∧ (∃ t, exec (.eret { g := 7 }) serving = .next t) ∧
    ∃ t, exec (.eret { g := 7 }) servingAccess = .next t :=
  fun h => ⟨runs ((h { g := 7 } handling _ (uready_of handling _ _ _ _ _ (by decide))).1 rfl rfl (by decide) (by decide) rfl
      (fun _ _ e => nomatch e)),
    ⟨_, (h { g := 7 } base _ (uready_of base _ _ _ _ _ (by decide))).2.1 rfl (.inr (.inl (by decide)))⟩,
    ((h { g := 7 } consumed _ (uready_of consumed _ _ _ _ _ (by decide))).2.2.1 _ _ rfl rfl (by decide) (by decide) rfl rfl rfl
      (by decide) rfl).elim fun _ x => x.elim fun _ x => ⟨_, x.1⟩,
    runs (((h { g := 7 } serving _ (uready_of serving _ _ _ _ _ (by decide))).2.2.2 sup0 rfl rfl rfl rfl rfl rfl rfl
      (by decide) rfl rfl (fun _ _ e => nomatch e)).1 rfl rfl),
    (((h { g := 7 } servingAccess _ (uready_of servingAccess _ _ _ _ _ (by decide))).2.2.2 _ rfl rfl rfl rfl rfl rfl rfl
      (by decide) rfl rfl (fun _ _ e => nomatch e)).2 rfl).elim fun _ x => x.elim fun _ x => ⟨_, x.1⟩⟩

theorem test_witness_SupervisorEntry : Obligations.SupervisorEntry →
    (∃ t, exec (.supervisorTrapEntry 3) (onWarp base fun W => { W with supQ := [sup0] }) = .next t) ∧
    ∃ t, exec (.supervisorTrapEntry 3) (onWarp (away slot0) fun W => { W with supQ := [sup0] }) = .next t :=
  fun h => ⟨(h (onWarp base fun W => { W with supQ := [sup0] }) 3 _ _ sup0 [] _ _ _ rfl rfl rfl rfl rfl rfl rfl rfl
      (.inl ⟨rfl, rfl, rfl, rfl⟩)).elim fun _ x => x.elim fun _ x => x.elim fun _ x => ⟨_, x.1⟩,
    (h (onWarp (away slot0) fun W => { W with supQ := [sup0] }) 3 _ _ sup0 [] _ _ _ rfl rfl rfl rfl rfl rfl rfl rfl
      (.inr ⟨rfl, rfl, rfl, rfl⟩)).elim fun _ x => x.elim fun _ x => x.elim fun _ x => ⟨_, x.1⟩⟩

theorem test_witness_CsrInstructions : Obligations.CsrInstructions →
    (∃ t, exec (.csrr { g := 7, d := 3, i := 0x010 }) base = .next t) ∧ (∃ t, exec (.csrr { g := 7, d := 3, i := 0x020 }) base = .next t) ∧
    (∃ t, exec (.csrw { g := 7, d := 3, i := 0x018 }) base = .next t) ∧ (∃ t, exec (.csrw { g := 7, d := 3, i := 0x13F }) serving = .next t) ∧
    (∃ t, exec (.csrw { g := 7, d := 3, i := 0x000 }) base = .next t) ∧
    exec (.csrw { g := 7, d := 3, i := 0x013 }) inFragment = .next (recalled (ctxOf inFragment) slot0) ∧
    (∃ t, exec (.setfmt { g := 7, d := 3, b := .lit 0xFFFFFFFF }) base = .next t) ∧
    (∃ t, exec (.csrr { g := 7, d := 3, i := 0x100 }) base = .next t) ∧ ∃ t, exec (.csrw { g := 7, d := 3, i := 0x018 }) handling = .next t :=
  fun h => ⟨runs (((h.1.1 { g := 7, d := 3, i := 0x010 } base _ rfl (by decide) (by decide)).1 (uready_of base _ _ _ _ _ (by decide))).1 (by decide)),
    runs (((h.1.1 { g := 7, d := 3, i := 0x020 } base _ rfl (by decide) (by decide)).1 (uready_of base _ _ _ _ _ (by decide))).2 rfl),
    runs ((h.1.1 { g := 7, d := 3, i := 0x018 } base _ rfl (by decide) (by decide)).2 (uready_of base _ _ _ _ _ (by decide)) (by decide) (fun _ => .inr (by decide))),
    runs ((h.1.1 { g := 7, d := 3, i := 0x13F } serving _ rfl (by decide) (by decide)).2 (uready_of serving _ _ _ _ _ (by decide)) (by decide) (by decide)),
    runs ((h.1.1 { g := 7, d := 3, i := 0x000 } base _ rfl (by decide) (by decide)).2 (uready_of base _ _ _ _ _ (by decide)) (by decide) (by decide)),
    h.1.2.1 { g := 7, d := 3, i := 0x013 } inFragment _ slot0 (issues_of inFragment (by decide)) rfl (.inr rfl),
    runs (h.1.2.2 { g := 7, d := 3, b := .lit 0xFFFFFFFF } base _ rfl (uready_of base _ _ _ _ _ (by decide))),
    ⟨_, (h.2 { g := 7, d := 3, i := 0x100 } base _ rfl rfl).1 (by decide) (uready_of base _ _ _ _ _ (by decide))⟩,
    ⟨_, (h.2 { g := 7, d := 3, i := 0x018 } handling _ rfl rfl).2 (.inr (by decide)) (uready_of handling _ _ _ _ _ (by decide))⟩⟩

/-- s1 is EMPTY, s2 marked cancelled. -/
def lacking : State := onWarp base fun W => { W with sc := { W.sc with st := [(1, .empty)], cancel := 4 } }
def addTo (d a : BitVec 6) (w : Bool) : R3 := { g := 7, wA := w, d := d, a := a, b := .lit 0 }

theorem test_witness_SourceAndDestinationRules : Obligations.SourceAndDestinationRules →
    (exec (.sadd (addTo 3 1 true)) lacking = .next lacking) ∧ (exec (.sadd (addTo 1 3 true)) lacking = .next lacking) ∧
    (∃ t, exec (.sadd (addTo 3 1 false)) lacking = .next t) ∧ ∃ t, exec (.sadd (addTo 3 2 true)) lacking = .next t :=
  fun h => ⟨(h (addTo 3 1 true) 1 lacking _ (issues_of lacking (by decide)) rfl rfl rfl rfl (by decide)).1 (by decide) rfl (by decide),
    (h (addTo 1 3 true) 3 lacking _ (issues_of lacking (by decide)) rfl rfl rfl rfl (by decide)).2.1 (by decide) rfl (by decide),
    ⟨_, (h (addTo 3 1 false) 1 lacking _ (issues_of lacking (by decide)) rfl rfl rfl rfl (by decide)).2.2.1 rfl rfl (by decide)⟩,
    ⟨_, (h (addTo 3 2 true) 2 lacking _ (issues_of lacking (by decide)) rfl rfl rfl rfl (by decide)).2.2.2 rfl⟩⟩

/-! ## Hypotheses met: barriers, fences, futures, shared ranges, constants -/

/-- Every lane of the warp is marked, or one less. -/
def marked (m : Mask) : State := onWarp base fun W => { W with barArr := m }
/-- Lane 0 waits to arrive again. -/
def again : State := onSplit (marked allLanes) fun X => { X with wait := .barRest false true 0 1 }

theorem test_witness_Barriers : Obligations.Barriers →
    (∃ t, exec (.bar { g := 7 }) base = .next t) ∧ (∃ t, exec (.barw { g := 7 }) (marked 1) = .next t) ∧
    (∃ t, exec (.bar { g := 7 }) (marked 1) = .next t) ∧
    (marked 1).barCheck 2 false = marked 1 ∧ (∃ W, tfind ((marked allLanes).barCheck 2 false).warps 3 = some W ∧ W.barArr = 0) ∧
    ∃ W, tfind (again.barCheck 2 false).warps 3 = some W ∧ W.barArr = 1 :=
  fun h => ⟨(h.1 _ (.head _) { g := 7 } base _ (uready_of base _ _ _ _ _ (by decide)) rfl (.inr (.inl (by decide))) rfl).elim
      fun _ x => ⟨_, x.1⟩,
    (h.1 _ (.tail _ (.tail _ (.head _))) { g := 7 } (marked 1) _ (uready_of (marked 1) _ _ _ _ _ (by decide)) rfl (.inl rfl) rfl).elim
      fun _ x => ⟨_, x.1⟩,
    (h.1 _ (.head _) { g := 7 } (marked 1) _ (uready_of (marked 1) _ _ _ _ _ (by decide)) rfl (.inr (.inr (by decide))) rfl).elim
      fun _ x => ⟨_, x.1⟩,
    (h.2 (marked 1) 2 _ 3 _ rfl rfl rfl (by decide)).1 (by decide),
    ((h.2 (marked allLanes) 2 _ 3 _ rfl rfl rfl (by decide)).2.1 (by decide) (by decide)).elim fun W x => x.elim fun _ x =>
      ⟨W, x.1, x.2.1⟩,
    ((h.2 again 2 _ 3 _ rfl rfl rfl (by decide)).2.2 _ 1 (by decide) rfl rfl rfl rfl rfl (by decide) (by decide) (by decide)).elim
      fun W x => ⟨W, x.1, x.2.1⟩⟩

/-- A transaction barrier of one arrival stands at reference 16. -/
def barriered : State := csm.setCore 0 { csm.core 0 with csm := [(17, 1), (24, 1)] }
def tb : TbOps := { g := 7, wA := true, a := 1, b := .lit 0xFFFFF }

theorem test_witness_FencesAndTransactions : Obligations.FencesAndTransactions →
    (∃ t, exec (.fenceAcq { s := 5 }) base = .next t) ∧ (∃ t, exec (.fenceEng { s := 0 }) base = .next t) ∧
    (∃ t, exec (.tbinit tb) csm = .next t) ∧ (∃ t, exec (.tbwait tb) csm = .next t) ∧
    (∃ t, exec (.tbarv { r3 with b := .lit 0 }) barriered = .next t) ∧ ∃ t, exec (.tbarv { r3 with b := .lit 0x7FFFFF }) barriered = .next t :=
  fun h => ⟨runs (h.1 _ (.head _) { s := 5 } base _ (uready_of base _ _ _ _ _ (by decide)) rfl (by simp)),
    runs (h.1 _ (.tail _ (.tail _ (.tail _ (.head _)))) { s := 0 } base _ (uready_of base _ _ _ _ _ (by decide)) rfl
      (by simp [base, placed, State.reset])),
    ((h.2.1 tb csm _ (uready_of csm _ _ _ _ _ (by decide)) (by decide)).1 (by decide)).elim fun _ x => ⟨_, x.1⟩,
    runs ((h.2.1 tb csm _ (uready_of csm _ _ _ _ _ (by decide)) (by decide)).2 (by decide) (by decide)),
    (h.2.2 { r3 with b := .lit 0 } barriered _ (uready_of barriered _ _ _ _ _ (by decide)) (by decide) (by decide) (by decide)
      (by decide) (by decide) (by decide) (by decide)).elim fun _ x => ⟨_, x.1⟩,
    (h.2.2 { r3 with b := .lit 0x7FFFFF } barriered _ (uready_of barriered _ _ _ _ _ (by decide)) (by decide) (by decide) (by decide)
      (by decide) (by decide) (by decide) (by decide)).elim fun _ x => ⟨_, x.1⟩⟩

theorem test_witness_FutureInstructions : Obligations.FutureInstructions →
    (∃ t, exec (.ftest { g := 7, p := 1, a := 1 }) lacking = .next t) ∧ (∃ t, exec (.fcancel { g := 7, p := 1, a := 1 }) lacking = .next t) ∧
    (∃ t, exec (.fmove { g := 7, d := 3, a := 1 }) lacking = .next t) ∧ ∃ t, exec (.fwait { g := 7, d := 3, a := 2 }) lacking = .next t :=
  fun h => ⟨runs (h.1 { g := 7, p := 1, a := 1 } lacking _ (uready_of lacking _ _ _ _ _ (by decide)) rfl rfl).1,
    runs (h.1 { g := 7, p := 1, a := 1 } lacking _ (uready_of lacking _ _ _ _ _ (by decide)) rfl rfl).2,
    runs ((h.2 { g := 7, d := 3, a := 1 } lacking _ rfl rfl (by decide) (by decide)).1 (by decide) (uready_of lacking _ _ _ _ _ (by decide))),
    runs ((h.2 { g := 7, d := 3, a := 2 } lacking _ rfl rfl (by decide) (by decide)).2 (uready_of lacking _ _ _ _ _ (by decide)) (by decide))⟩

/-- A second warp (6) of the block, idx 1; s1 of each names the other. -/
def two (who : Nat) (req : Option ShrReq) (shr : Bool) : State :=
  let s := onWarp (onBlock base fun B => { B with warps := [3, 6] }) fun W => { W with
    sc := { W.sc with s := [(1, 1)] }, shrReq := req, shr := if shr then some (40, 4, 6) else none }
  { s with warps := s.warps ++ [(6, { newWarp 2 1 0 1 allLanes 0 0 with shr := if shr then some (40, 4, 3) else none })]
           cur := some (who, 0) }

/-- The request of a SHRMAP that waits in warp 3. -/
def asked : ShrReq := { first := 40, count := 4, peer := 1, split := 0, pc := 0 }
/-- Warp 6 waits, and the lower-numbered warp 3 issues. -/
def lower : State :=
  let s := two 3 none false
  { s with warps := tmod s.warps 6 fun W => { W with shrReq := some { asked with peer := 0 } } }

theorem test_witness_SharedRanges : Obligations.SharedRanges →
    (∃ t, exec (.shrmap (.map 7 true 40 1 3)) (two 3 none false) = .next t) ∧
    (∃ t, exec (.shrmap (.map 7 true 40 2 3)) (two 6 (some asked) false) = .next t) ∧
    (∃ t, exec (.shrmap (.map 7 true 40 1 3)) lower = .next t) ∧
    (∃ t, exec (.shrmap (.unmap 7)) (two 3 none true) = .next t) ∧ ∃ t, exec (.shrmap (.unmap 7)) (away slot0) = .next t :=
  fun h => ⟨⟨_, (h.1 7 true 40 1 3 (two 3 none false) _ 6 _ (uready_of (two 3 none false) _ _ _ _ _ (by decide)) rfl (by decide) rfl
      (by decide) rfl rfl rfl (fun _ x => nomatch x)).1 rfl⟩,
    ((h.1 7 true 40 2 3 (two 6 (some asked) false) _ 3 _ (uready_of (two 6 (some asked) false) _ _ _ _ _ (by decide)) rfl
      (by decide) rfl (by decide) rfl rfl rfl (fun _ x => nomatch x)).2.1 asked _ rfl rfl rfl rfl (by decide) rfl rfl (by decide)
      (by decide)).elim fun _ x => x.elim fun _ x => ⟨_, x.1⟩,
    ((h.1 7 true 40 1 3 lower _ 6 _ (uready_of lower _ _ _ _ _ (by decide)) rfl (by decide) rfl (by decide) rfl rfl rfl
      (fun _ x => nomatch x)).2.2 _ _ rfl rfl rfl rfl (by decide) rfl rfl rfl (by decide)).elim fun _ x => x.elim fun _ x =>
        x.elim fun _ x => x.elim fun _ x => ⟨_, x.1⟩,
    (h.2.1 7 (two 3 none true) _ _ _ 6 _ (uready_of (two 3 none true) _ _ _ _ _ (by decide)) rfl rfl (by decide) rfl).elim fun _ x =>
      x.elim fun _ x => x.elim fun _ x => ⟨_, x.1⟩,
    ⟨_, h.2.2 (.unmap 7) (away slot0) _ _ (issues_of (away slot0) (by decide)) rfl⟩⟩

/-- The image has a bank of constants, whose first line is cached or not. -/
def banked (there : Bool) : State :=
  let s := onLaunch base fun L => { L with img := { L.img with cbCount := 1 } }
  s.setCore 0 { s.core 0 with ccache := if there then [{ set := 0, sup := false, asid := 16, addr := 0, words := [7], used := 0 }] else [] }

/-- An instruction with the constant had missed; its word is there now. -/
def refetched : State := onSplit (banked true) fun X => { X with cuse := some { addr := 0, set := 0, lanes := 1, a := [5], d := [6] } }

theorem test_witness_ConstantOperands : Obligations.ConstantOperands →
    (∃ t, exec (.faddcb { g := 7, wA := true, d := 3, a := 1, k := 0 }) (banked true) = .next t) ∧
    (∃ t, exec (.fmarcb { g := 7, wA := true, d := 3, a := 1, k := 0 }) refetched = .next t) ∧
    (∃ t, exec (.movcb { g := 7, d := 3, k := 0 }) (banked true) = .next t) ∧
    (∃ t, exec (.movcb { g := 7, d := 3, k := 255 }) (banked false) = .next t) ∧
    (∃ t, exec (.sldcb { fm with a := 1, o := 0 }) (banked true) = .next t) ∧
    ∃ t, exec (.cbset { g := 7, w := true, a := 2, n := 0 }) (banked true) = .next t :=
  fun h => ⟨runs (h.1 _ (.head _) { g := 7, wA := true, d := 3, a := 1, k := 0 } (banked true) _ _
      (vready_of (banked true) _ _ _ (by decide)) rfl (by decide) (by decide) rfl),
    runs (h.2.1 _ (.tail _ (.tail _ (.head _))) { g := 7, wA := true, d := 3, a := 1, k := 0 } refetched _ _ 7
      (issues_of refetched (by decide)) rfl (by decide) (by decide)),
    runs ((h.2.2.1 { g := 7, d := 3, k := 0 } (banked true) _ (vready_of (banked true) _ _ _ (by decide)) rfl (by decide)
      (by decide)).1 _ rfl),
    ⟨_, (h.2.2.1 { g := 7, d := 3, k := 255 } (banked false) _ (vready_of (banked false) _ _ _ (by decide)) rfl (by decide)
      (by decide)).2 rfl⟩,
    runs (h.2.2.2.1 { fm with a := 1, o := 0 } (banked true) _ _ (uready_of (banked true) _ _ _ _ _ (by decide)) (by decide) (by decide) rfl),
    runs (h.2.2.2.2 { g := 7, w := true, a := 2, n := 0 } (banked true) _ (uready_of (banked true) _ _ _ _ _ (by decide)) (by decide)
      (by decide) (by decide) (by decide))⟩

/-! ## Hypotheses met: engine instructions -/

/-- The block has a whole CSM slice; s1 is all ones, s2 16, s3 1, s4 and s5 the ids of a registered tensor of one tile and
of a slot for a view of it, s6 the packed operand of a TRACEX, s8 256, s11 all ones; queue 0 holds a record or none. -/
def eng (bytes : Tab Byte) (tail : Nat) : State :=
  let s := onVf (onPart (onBlock (onWarp (onSplit base fun X => { X with fmt := 0x11 }) fun W => { W with sc := { W.sc with
    s := [(1, 0xFFFFFFFF), (2, 16), (3, 1), (4, 40), (5, 41), (6, 5), (8, 256), (11, 0xFFFFFFFF)] } })
      fun B => { B with size := 262144 }) fun P => { P with
        registered := [(16, 40)]
        wqs := [(0, { asid := 16, ring := 0, log2n := 6, head := 0, tail := tail, closed := false, sleepers := [], pusher := none, popper := none })] })
    fun v => { v with ttlen := 64, qslots := 2 }
  { s.setCore 0 { s.core 0 with csm := bytes } with
    mem := [(10240 + 8, 1), (10240 + 9, 6), (10240 + 0x21, 16), (10240 + 0x99, 16), (10496 + 0x10, 8)] }

/-- A copy descriptor: its direction, and whether it names a barrier, at 2048. -/
def copying (dir : Byte) (red : Byte) (tb : Bool) : Tab Byte :=
  (if dir = 0 then [] else [(0, dir)]) ++ (if red = 0 then [] else [(2, red)]) ++ [(9, 4)] ++
  (if tb then [(13, 8)] else [(12, 255), (13, 255), (14, 255), (15, 255)]) ++
  (if dir = 0 then [(64, 1)] else [(17, 8), (20, 16)])

theorem test_witness_CopyInstructions : Obligations.CopyInstructions →
    (∃ t, exec (.copy { d := 30, a := 20 }) (eng (copying 0 0 true) 0) = .next t) ∧
    (∃ t, exec (.copyx { d := 30, a := 20 }) (eng (copying 2 1 false) 0) = .next t) ∧
    (∃ t, exec (.copyl { d := 30, a := 20 }) (eng (copying 2 0 false) 0) = .next t) ∧
    ∃ t, exec (.fillz { d := 30, a := 20, b := 2, c := 1 }) (eng [] 0) = .next t :=
  fun h => ⟨made (h.1 _ (.head _) { d := 30, a := 20 } (eng (copying 0 0 true) 0) _ (eready_of _ _ _ (by decide)) (by decide) (by decide)),
    made (h.1 _ (.tail _ (.head _)) { d := 30, a := 20 } (eng (copying 2 1 false) 0) _ (eready_of _ _ _ (by decide)) (by decide) (by decide)),
    made (h.1 _ (.tail _ (.tail _ (.head _))) { d := 30, a := 20 } (eng (copying 2 0 false) 0) _ (eready_of _ _ _ (by decide)) (by decide) (by decide)),
    made (h.2 { d := 30, a := 20, b := 2, c := 1 } (eng [] 0) _ (eready_of _ _ _ (by decide)) (by decide) (by decide) (by decide)
      (by decide) (by decide) (by decide) (by decide))⟩

theorem mready_of (s : State) (d : BitVec 6) (srcs : List Src)
    (h : ((ctxOf s).settled && (canIssue s && (ctxOf s).ready 0 srcs (group false d 1 true) false)) = true)
    (h1 : (ctxOf s).sp.home = .wcore) (h2 : ((ctxOf s).s.cluster (coreCluster (ctxOf s).W.core)).resv.length < 32) :
    MReady s (ctxOf s) d srcs := ⟨eready_of s d srcs h, h1, h2⟩

def e4 : E4 := { d := 30, a := 20, b := 20, c := 20 }
def edac : EDAC := { d := 30, a := 20, c := 20 }
/-- The warp and another are a gang. -/
def ganged : State :=
  let s := onWarp (onBlock (eng [] 0) fun B => { B with warps := [3, 6] }) fun W => { W with
    sc := { W.sc with csr := { W.sc.csr with ganga := 0x8180 } } }
  { s with warps := s.warps ++ [(6, newWarp 2 1 0 1 allLanes 0 0)] }

/-- In supervisor mode, with the first address of the physical window in s12. -/
def engSup : State := onSplit (onWarp (eng [] 0) fun W => { W with sc := { W.sc with s := W.sc.s ++ [(13, 0x1FF0000)] } }) fun X =>
  { X with sup := true }

theorem test_witness_MatrixInstructions : Obligations.MatrixInstructions →
    (∃ t, exec (.mma { e4 with a := 10 }) (eng [] 0) = .next t) ∧ (∃ t, exec (.mma { e4 with a := 10 }) ganged = .next t) ∧
    (∃ t, exec (.mmaz { d := 30, c := 20 }) (eng [] 0) = .next t) ∧ (∃ t, exec (.topkr edac) (eng [] 0) = .next t) ∧
    (∃ t, exec (.accrd e4) (eng [] 0) = .next t) ∧ (∃ t, exec (.accst edac) (eng [] 0) = .next t) ∧
    (∃ t, exec (.accld { edac with a := 12 }) engSup = .next t) ∧
    (∃ t, exec (.osld e4) (eng [] 0) = .next t) ∧ ∃ t, exec (.osld { e4 with c := 3 }) (eng [] 0) = .next t :=
  fun h => ⟨made (h.1 { e4 with a := 10 } (eng [] 0) _ (mready_of _ _ _ (by decide) rfl (by decide)) (by decide) (.inl (by decide))),
    made (h.1 { e4 with a := 10 } ganged _ (mready_of _ _ _ (by decide) rfl (by decide)) (by decide) (.inr (by decide))),
    made (h.2.1 { d := 30, c := 20 } (eng [] 0) _ (mready_of _ _ _ (by decide) rfl (by decide)) (by decide) (by decide) (by decide)
      (by decide) (by unfold owned; decide)),
    made (h.2.2.1 edac (eng [] 0) _ (mready_of _ _ _ (by decide) rfl (by decide)) (by decide) (by decide) (by decide) (by decide)
      (by unfold owned; decide)),
    made (h.2.2.2.1 e4 (eng [] 0) _ (mready_of _ _ _ (by decide) rfl (by decide)) (by decide) (by decide) (by decide) (by decide)
      (by unfold owned; decide) (by decide) (by decide)),
    made ((h.2.2.2.2.1 edac (eng [] 0) _ (mready_of _ _ _ (by decide) rfl (by decide)) (by decide) (by decide)
      (by unfold owned; decide)).1 (.inl (by decide))),
    made ((h.2.2.2.2.1 { edac with a := 12 } engSup _ (mready_of _ _ _ (by decide) rfl (by decide)) (by decide)
      (by decide) (.inl rfl)).2 (.inr (by decide))),
    made (h.2.2.2.2.2 e4 (eng [] 0) _ (mready_of _ _ _ (by decide) rfl (by decide)) (by decide) (by decide) (by decide) (by decide)
      (by decide)),
    made (h.2.2.2.2.2 { e4 with c := 3 } (eng [] 0) _ (mready_of _ _ _ (by decide) rfl (by decide)) (by decide) (by decide) (by decide)
      (by decide) (by decide))⟩

theorem test_witness_TileInstructions : Obligations.TileInstructions →
    (∃ t, exec (.tlook { d := 30, a := 20 }) (eng [] 0) = .next t) ∧ (∃ t, exec (.tpref { d := 30, a := 20, b := 3 }) (eng [] 0) = .next t) ∧
    (∃ t, exec (.twb { d := 30, a := 20, b := 3 }) (eng [] 0) = .next t) ∧ (∃ t, exec (.thalo e4) (eng [] 0) = .next t) ∧
    (∃ t, exec (.tdead { e4 with b := 3, c := 3 }) (eng [] 0) = .next t) ∧
    (∃ t, exec (.tinv { d := 30, a := 4, c := 3 }) (eng [] 0) = .next t) ∧
    (∃ t, exec (.tview { d := 30, a := 4, b := 5, c := 20 }) (eng [(48, 1)] 0) = .next t) ∧
    ∃ t, exec (.tview { d := 30, a := 4, b := 5, c := 1 }) (eng [] 0) = .next t :=
  fun h => ⟨made (h.1 { d := 30, a := 20 } (eng [] 0) _ _ _ (eready_of _ _ _ (by decide)) rfl),
    made ((h.2.1 { d := 30, a := 20, b := 3 } (eng [] 0) _ _ _ (eready_of _ _ _ (by decide)) rfl).1 (by decide) (by decide)),
    made ((h.2.1 { d := 30, a := 20, b := 3 } (eng [] 0) _ _ _ (eready_of _ _ _ (by decide)) rfl).2 (by decide)),
    made ((h.2.2.1 e4 (eng [] 0) _ _ _ (eready_of _ _ _ (by decide)) rfl).1 (by decide) (by decide) (by decide) (by decide) (by decide)
      (by decide) (fun k x _ hk => by revert hk; show pteBit 0 k = true → _; simp [pteBit, bits]) (by decide) (by decide)),
    made ((h.2.2.1 { e4 with b := 3, c := 3 } (eng [] 0) _ _ _ (eready_of _ _ _ (by decide)) rfl).2 (by decide) (by decide) (by decide)
      (by decide) (by decide)),
    made (h.2.2.2.1 { d := 30, a := 4, c := 3 } (eng [] 0) _ _ (eready_of _ _ _ (by decide)) (by decide) (by decide) rfl (by decide)),
    made ((h.2.2.2.2 { d := 30, a := 4, b := 5, c := 20 } (eng [(48, 1)] 0) _ _ _ (eready_of _ _ _ (by decide)) (by decide) (by decide)
      (by decide) (by decide) rfl rfl rfl).1 (by decide) (by decide) (by decide) (by decide)),
    made ((h.2.2.2.2 { d := 30, a := 4, b := 5, c := 1 } (eng [] 0) _ _ _ (eready_of _ _ _ (by decide)) (by decide) (by decide)
      (by decide) (by decide) rfl rfl rfl).2 (by decide) (by decide))⟩

theorem test_witness_MulticastTraceAndQueues : Obligations.MulticastTraceAndQueues →
    (∃ t, exec (.mcast { e4 with b := 3 }) (eng [] 0) = .next t) ∧ (∃ t, exec (.tracex { e4 with c := 6 }) (eng [] 0) = .next t) ∧
    (∃ t, exec (.tracex { e4 with b := 3 }) (eng [] 0) = .next t) ∧ (∃ t, exec (.wqpush { d := 30, a := 20, b := 20 }) (eng [] 0) = .next t) ∧
    (∃ t, exec (.wqpop { d := 30, a := 20, b := 20 }) (eng [] 0) = .next t) ∧
    (∃ t, exec (.wqwait { d := 30, a := 20 }) (eng [] 1) = .next t) ∧ ∃ t, exec (.wqwait { d := 30, a := 20 }) (eng [] 0) = .next t :=
  fun h => ⟨made (h.1 { e4 with b := 3 } (eng [] 0) _ _ _ _ (eready_of _ _ _ (by decide)) rfl rfl (by decide) (by decide) (by decide) (by decide)),
    made ((h.2.1 { e4 with c := 6 } (eng [] 0) _ (eready_of _ _ _ (by decide))).1 (by decide) (by decide)),
    made ((h.2.1 { e4 with b := 3 } (eng [] 0) _ (eready_of _ _ _ (by decide))).2 _ _ (by decide) (by decide) (by decide) rfl),
    made (h.2.2.1 { d := 30, a := 20, b := 20 } (eng [] 0) _ _ rfl (eready_of _ _ _ (by decide)) (by decide) rfl (by decide)).1,
    made (h.2.2.1 { d := 30, a := 20, b := 20 } (eng [] 0) _ _ rfl (eready_of _ _ _ (by decide)) (by decide) rfl (by decide)).2,
    runs ((h.2.2.2 { d := 30, a := 20 } (eng [] 1) _ _ rfl (uready_of _ _ _ _ _ _ (by decide)) (by decide) rfl).1 (.inl (by decide))),
    ((h.2.2.2 { d := 30, a := 20 } (eng [] 0) _ _ rfl (uready_of _ _ _ _ _ _ (by decide)) (by decide) rfl).2 (by decide) rfl).elim
      fun _ x => ⟨_, x.1⟩⟩

/-- The VF agreed to no feature. -/
def plain : State := onVf base fun v => { v with featAgreed := 0 }

theorem test_witness_JoinRecallAndFeatures : Obligations.JoinRecallAndFeatures →
    (∃ t, exec (.join { d := 30, a := 20 }) base = .next t) ∧ (∃ t, exec (.mma e4) (away slot0) = .next t) ∧
    (∃ t, exec (.wqwait { d := 30, a := 20 }) plain = .next t) ∧ ∃ t, exec (.reprint { d := 30, a := 20, b := 20 }) plain = .next t :=
  fun h => ⟨(h.1 { d := 30, a := 20 } base _ _ (uready_of base _ _ _ _ _ (by decide)) rfl rfl rfl).elim fun _ x => ⟨_, x.1⟩,
    ⟨_, ((h.2.1 (away slot0) _ _ (issues_of _ (by decide)) rfl).1 e4).1⟩,
    ⟨_, ((h.2.2 plain _ (issues_of _ (by decide))).1 (by decide) { d := 30, a := 20, b := 20 } { d := 30, a := 20 }).2.2⟩,
    ⟨_, (h.2.2 plain _ (issues_of _ (by decide))).2 (by decide) { d := 30, a := 20, b := 20 }⟩⟩

theorem test_witness_LaunchInstructions : Obligations.LaunchInstructions →
    (∃ t, exec (.launch { d := 30, a := 20, b := 20 }) (eng [] 0) = .next t) ∧
    ∃ t, exec (.reprint { d := 30, a := 20, b := 3 }) (eng [] 0) = .next t :=
  fun h => ⟨(h { d := 30, a := 20, b := 20 } (eng [] 0) _ _ _ _ false (eready_of _ _ _ (by decide)) rfl (by decide) rfl rfl (by decide)).elim
      fun _ x => ⟨_, x.1⟩,
    (h { d := 30, a := 20, b := 3 } (eng [] 0) _ _ _ _ true (eready_of _ _ _ (by decide)) rfl (by decide) rfl rfl (by decide)).elim
      fun _ x => ⟨_, x.1⟩⟩

/-! ## Hypotheses met: events of cores, and messages of fragments -/

/-- An instruction stands in the pipe. -/
def piped (d : Bool) : State :=
  base.setCore 0 { base.core 0 with pipe := [{ warp := 3, split := 0, srcs := [1], dst := [3], dispatched := d }] }
/-- The buffer is empty; the line of the code is cached, or the supervisor's code is wanted. -/
def unfetched (sup : Bool) : State :=
  let s := onSplit base fun X => { X with ibuf := [], sup := sup }
  { s.setCore 0 { s.core 0 with icache := if sup then [] else [{ sup := false, asid := 16, addr := 0, words := [] }] } with mem := [(13, 1)] }
/-- Every split waits at a join entry. -/
def stuck : State := onSplit (handler base) fun X => { X with wait := .atJoin 0 }
/-- A cause found after issue waits. -/
def found : DefCause := { cause := 0x03, reason := 0, addr := 64, split := 0, uid := 0, pc := 8, aux := none, sup := false }

theorem test_witness_CoreEvents : Obligations.CoreEvents →
    (∃ t, exec (.collectorDispatch 0 0) (piped false) = .next t) ∧ (∃ t, exec (.resultWriteback 0 0) (piped true) = .next t) ∧
    (∃ t, exec (.constantFill 3 0) (onSplit base fun X => { X with sup := true, cwant := some (60, 0) }) = .next t) ∧
    (∃ t, exec (.instructionFetch 1) (unfetched false) = .next t) ∧ (∃ t, exec (.instructionFetch 1) (unfetched true) = .next t) ∧
    (∃ t, exec (.rejoinDeadlockDetect 3) stuck = .next t) ∧
    (∃ t, exec (.deferredCauseRaise 3) (onWarp (handler base) fun W => { W with defQ := [found] }) = .next t) ∧
    ∃ t, exec (.deferredEngineCause 3) (onWarp (handler base) fun W => { W with engQ := [found] }) = .next t :=
  fun h => ⟨⟨_, h.1 0 0 (piped false) _ rfl rfl (by simp) (by simp)⟩, ⟨_, h.2.1 0 0 (piped true) _ rfl rfl⟩,
    (h.2.2.1 3 0 60 0 (onSplit base fun X => { X with sup := true, cwant := some (60, 0) }) _ _ _ rfl rfl rfl rfl).elim fun _ x =>
      x.elim fun _ x => x.elim fun _ x => ⟨_, x.1⟩,
    ((h.2.2.2.1 1 (unfetched false) _ (issues_of _ (by decide)) rfl rfl).1 _ rfl).elim fun _ x => ⟨_, x.1⟩,
    ((h.2.2.2.1 1 (unfetched true) _ (issues_of _ (by decide)) rfl rfl).2 rfl rfl (by decide)).elim fun _ x => x.elim fun _ x => x.elim fun _ x =>
      ⟨_, x.1⟩,
    (h.2.2.2.2.1 3 stuck _ _ rfl rfl rfl rfl rfl (by decide) (by unfold canTrap; decide)).elim fun _ x => x.elim fun _ x => x.elim
      fun _ x => ⟨_, x.1⟩,
    ⟨_, (h.2.2.2.2.2 3 (onWarp (handler base) fun W => { W with defQ := [found] }) _ _ found rfl rfl (by unfold atEase canTrap; decide)).1 rfl⟩,
    ⟨_, (h.2.2.2.2.2 3 (onWarp (handler base) fun W => { W with engQ := [found] }) _ _ found rfl rfl (by unfold atEase canTrap; decide)).2 rfl⟩⟩

/-- r1 is EMPTY at the parent. -/
def away1 (f : Slot) : State := onWarp (away f) fun W => { W with vst := [(1, .empty)] }
/-- A fragment of split 1, whose parent waits at the join. -/
def linked (f : Slot) (joins : Nat) : State := onWarp base fun W => { W with splits :=
  [{ blankSplit 0 with mask := 2, wait := .atJoin 0, stack := [.join { join1 with joins := joins }] },
   { blankSplit 1 with mask := 1, link := some 0, home := .ncore f }] }
/-- A cause of the fragment is held. -/
def held : State := onWarp (handler (away { slot0 with stage := .stopped 5 64 7 true })) fun W => { W with causeDue := true }

/-- Its first instruction is the one at J. -/
def atJ : State := onWarp base fun W => { W with splits :=
  [{ blankSplit 0 with mask := 2, wait := .atJoin 0, stack := [.join { join1 with joins := 1 }] },
   { blankSplit 1 with pc := 64, mask := 1, link := some 0, home := .ncore { slot0 with stage := .exporting } }] }

theorem staysOn_of (c : Ctx) (X : Split) (h1 : X.mask ≠ 0) (h2 : X.innermost = none) : staysOn c X :=
  ⟨h1, fun _ _ h => by rw [h2] at h; cases h⟩
theorem joinsAt (c : Ctx) (e : Nat)
    (h : (c.W.splits.all fun Y => (stackEntry Y.stack e).all fun E => E.j = c.sp.pc && E.joins != 0) = true) :
    ∀ Y ∈ c.W.splits, ∀ E, stackEntry Y.stack e = some E → E.j = c.sp.pc ∧ E.joins ≠ 0 := by
  intro Y hY E hE
  have := List.all_eq_true.1 h Y hY
  simpa [hE] using this

theorem test_witness_FragmentMessages : Obligations.FragmentMessages →
    (∃ t, exec (.exportMsg 3 0) (away { slot0 with stage := .exporting }) = .next t) ∧ (∃ t, exec (.exportMsg 3 1) atJ = .next t) ∧
    (∃ t, exec (.pullreq 3 0 1) (away { slot0 with pulls := [(1, false)], pending := 2 }) = .next t) ∧
    (∃ t, exec (.pullreq 3 0 1) (away1 { slot0 with pulls := [(1, false)], pending := 2 }) = .next t) ∧
    (∃ t, exec (.pulldata 3 0 62) (away { slot0 with xfers := [(62, { pushed := false, vals := [] })] }) = .next t) ∧
    (∃ t, exec (.overpush 3 0 62) (away { slot0 with xfers := [(62, { pushed := true, vals := [] })] }) = .next t) ∧
    (∃ t, exec (.backpush 3 0 62) (away { slot0 with stage := .rejoining, dirty := 0x4000000000000000 }) = .next t) ∧
    (∃ t, exec (.backpush 3 0 64) (away { slot0 with stage := .recalling }) = .next t) ∧
    (∃ t, exec (.sread 3 0) (away { slot0 with sreq := some [(1, true)] }) = .next t) ∧
    (∃ t, exec (.bararr 3 0) (away { slot0 with barReq := some (true, 1) }) = .next t) ∧
    (∃ t, exec (.barrierCompletionMessage 3 0) (onSplit (away slot0) fun X => { X with wait := .bar 9 }) = .next t) ∧
    (∃ t, exec (.barrierCompletionMessage 3 0) (onSplit (away slot0) fun X => { X with wait := .barRest false false 9 1 }) = .next t) ∧
    (∃ t, exec (.fragmentRecall 3 0) (onBlock (away slot0) fun B => { B with stop := some .preempt }) = .next t) :=
  fun h => ⟨⟨_, ((h 3 0 (away { slot0 with stage := .exporting }) _ _ ⟨rfl, rfl⟩ rfl).1 rfl rfl).1 (staysOn_of _ _ (by decide) rfl)⟩,
    ⟨_, ((h 3 1 atJ _ _ ⟨rfl, rfl⟩ rfl).1 rfl rfl).2 0 rfl rfl rfl rfl rfl (by decide) (joinsAt _ _ (by decide)) (by decide)⟩,
    ((h 3 0 (away { slot0 with pulls := [(1, false)], pending := 2 }) _ _ ⟨rfl, rfl⟩ rfl).2.1 1 false rfl rfl).1 rfl |>.elim fun _ x => ⟨_, x.1⟩,
    ⟨_, ((h 3 0 (away1 { slot0 with pulls := [(1, false)], pending := 2 }) _ _ ⟨rfl, rfl⟩ rfl).2.1 1 false rfl rfl).2 (by decide) rfl⟩,
    ((h 3 0 (away { slot0 with xfers := [(62, { pushed := false, vals := [] })] }) _ _ ⟨rfl, rfl⟩ rfl).2.2.1 62 _ rfl (by decide) rfl).elim fun _ x => ⟨_, x.1⟩,
    ((h 3 0 (away { slot0 with xfers := [(62, { pushed := true, vals := [] })] }) _ _ ⟨rfl, rfl⟩ rfl).2.2.1 62 _ rfl (by decide) rfl).elim fun _ x => ⟨_, x.1⟩,
    (((h 3 0 (away { slot0 with stage := .rejoining, dirty := 0x4000000000000000 }) _ _ ⟨rfl, rfl⟩ rfl).2.2.2.1 rfl rfl).1 62 (by decide) (by decide)
      (by decide)).elim fun _ x => x.elim fun _ x => x.elim fun _ x => ⟨_, x.1⟩,
    ((h 3 0 (away { slot0 with stage := .recalling }) _ _ ⟨rfl, rfl⟩ rfl).2.2.2.1 rfl rfl).2.elim fun _ x => x.elim fun _ x => x.elim fun _ x => ⟨_, x.1⟩,
    ⟨_, (h 3 0 (away { slot0 with sreq := some [(1, true)] }) _ _ ⟨rfl, rfl⟩ rfl).2.2.2.2.1 _ rfl rfl (by decide)⟩,
    ⟨_, (h 3 0 (away { slot0 with barReq := some (true, 1) }) _ _ ⟨rfl, rfl⟩ rfl).2.2.2.2.2.1 true 1 rfl rfl (by intro _ x; cases x)⟩,
    ⟨_, (h 3 0 (onSplit (away slot0) fun X => { X with wait := .bar 9 }) _ _ ⟨rfl, rfl⟩ rfl).2.2.2.2.2.2.1 9 rfl (by decide)
      (staysOn_of _ _ (by decide) rfl)⟩,
    ⟨_, (h 3 0 (onSplit (away slot0) fun X => { X with wait := .barRest false false 9 1 }) _ _ ⟨rfl, rfl⟩ rfl).2.2.2.2.2.2.2.1 false 9 1
      rfl (by decide) rfl (staysOn_of _ _ (by decide) rfl)⟩,
    ⟨_, (h 3 0 (onBlock (away slot0) fun B => { B with stop := some .preempt }) _ _ ⟨rfl, rfl⟩ rfl).2.2.2.2.2.2.2.2.1 rfl (by decide) rfl
      (by decide)⟩⟩

theorem test_witness_FragmentReturns : Obligations.FragmentMessages →
    (∃ t, exec (.joindec 3 1) (linked { slot0 with stage := .rejoining } 2) = .next t) ∧
    (∃ t, exec (.joindec 3 0) (away { slot0 with stage := .recalling }) = .next t) ∧
    (∃ t, exec (.joindec 3 1) (linked { slot0 with stage := .recalling } 2) = .next t) ∧
    (∃ t, exec (.cause 3 0) (handler (away { slot0 with stage := .stopped 5 64 7 false })) = .next t) ∧
    (∃ t, exec (.fragmentCauseDelivery 3) held = .next t) ∧
    ∃ t, exec (.swrite 3) (onWarp (away slot0) fun W => { W with swrites := [.reg 1 9 .full] }) = .next t :=
  fun h => ⟨((h 3 1 (linked { slot0 with stage := .rejoining } 2) _ _ ⟨rfl, rfl⟩ rfl).2.2.2.2.2.2.2.2.2.1 rfl).1 0 _ _ 0 rfl rfl rfl
      (by decide) rfl |>.elim fun _ x => x.elim fun _ x => ⟨_, x.1⟩,
    ((h 3 0 (away { slot0 with stage := .recalling }) _ _ ⟨rfl, rfl⟩ rfl).2.2.2.2.2.2.2.2.2.1 rfl).2 rfl rfl rfl (by decide) rfl (.inl rfl)
      |>.elim fun _ x => x.elim fun _ x => x.elim fun _ x => ⟨_, x.1⟩,
    ((h 3 1 (linked { slot0 with stage := .recalling } 2) _ _ ⟨rfl, rfl⟩ rfl).2.2.2.2.2.2.2.2.2.1 rfl).2 rfl rfl rfl (by decide) rfl
      (.inr ⟨0, _, _, rfl, rfl, by decide, by decide, by decide⟩) |>.elim fun _ x => x.elim fun _ x => x.elim fun _ x => ⟨_, x.1⟩,
    ⟨_, (h 3 0 (handler (away { slot0 with stage := .stopped 5 64 7 false })) _ _ ⟨rfl, rfl⟩ rfl).2.2.2.2.2.2.2.2.2.2.1 5 64 7 rfl
      (by decide) rfl rfl (by intro _ x; cases x)⟩,
    (h 3 0 held _ _ ⟨rfl, rfl⟩ rfl).2.2.2.2.2.2.2.2.2.2.2.1 5 64 7 rfl rfl rfl rfl rfl rfl rfl rfl rfl rfl (by decide) rfl
      (by decide) (by decide) (by decide) (by decide) |>.elim fun _ x => x.elim fun _ x => x.elim fun _ x => ⟨_, x.1⟩,
    (h 3 0 (onWarp (away slot0) fun W => { W with swrites := [.reg 1 9 .full] }) _ _ ⟨rfl, rfl⟩ rfl).2.2.2.2.2.2.2.2.2.2.2.2 1 9 _ []
      (by decide) rfl rfl |>.elim fun _ x => x.elim fun _ x => ⟨_, x.1⟩⟩

/-! ## Hypotheses met: engine operations and accesses under way -/

/-- What was performed leaves a state with p. -/
def gotIn (z : Got) (p : State → Bool) : Bool :=
  match z with
  | .ok s _ => p s
  | _ => false

theorem got_of {z : Got} {p : State → Bool} (h : gotIn z p = true) : ∃ s bs, z = .ok s bs ∧ p s = true := by
  unfold gotIn at h
  split at h
  · exact ⟨_, _, rfl, h⟩
  · simp at h

/-- The first GiB is mapped to itself, for reads and writes. -/
def mapped (s : State) : State :=
  onPart (onVf { s with mem := s.mem ++ [(65536, 0x01), (65537, 0x20), (131072, 0x03), (131073, 0x06)] } fun v =>
    { v with ptroot := 65536 }) fun P => { P with tchashk := 0 }
/-- Operation 9 of the warp is under way in every queue of its cluster; its future is s30. -/
def working (s : State) (k : OpKind) (f : EngOp → EngOp) : State :=
  let s := onWarp s fun W => { W with sc := { W.sc with st := [(30, .future)] } }
  { s.setCluster 0 { s.cluster 0 with copyQ := [9], tileQ := [9], resv := [9] } with ops := [(9, f (opOf (ctxOf s) k 30))] }
def grant (o : EngOp) : EngOp := { o with granted := true }
def tens : Tensor := { flatTensor with id := 40, root := 40 }

/-- An MCAST of the first flat tile. -/
def sending : State := working (mapped (eng [] 0)) (.mcast flatTensor 0 1 [(0, 0)] none) grant
def opOf9 (s : State) : EngOp := (tfind s.ops 9).getD (opOf (ctxOf s) (.mmaz 0 0) 0)

/-- An MCAST of it to two places, the first of which has had sector 31. -/
def twice : State := working (mapped (eng [] 0)) (.mcast flatTensor 0 1 [(0, 0), (0, 4096)] none) fun o =>
  { grant o with sent := [(31, [7])], unitsDone := [31] }

/-- A sum is a left one with p. -/
def leftIs {α β : Type} (z : α ⊕ β) (p : α → Bool) : Bool :=
  match z with
  | .inl r => p r
  | .inr _ => false

theorem inl_of {α β : Type} {z : α ⊕ β} {p : α → Bool} (h : leftIs z p = true) : ∃ r, z = .inl r ∧ p r = true := by
  cases z with
  | inl r => exact ⟨r, rfl, h⟩
  | inr _ => simp [leftIs] at h

theorem mcast_read :
    leftIs (sending.sector 9 (opOf9 sending) (tileOf 16 flatTensor 0) (31 % 32 * 128) (min 128 (4096 - 31 % 32 * 128)))
      (fun r => (tfind (r.1.modOp 9 fun y => { y with sent := tset (opOf9 sending).sent 31 r.2 }).ops 9).isSome) = true := by
  decide +kernel

theorem test_witness_CopyUnits : Obligations.EngineEvents →
    (∃ t, exec (.copyUnitDelivered 9 1) (working (eng [(130, 1)] 0) (.fillz 0 144 none) id) = .next t) ∧
    (∃ t, exec (.copyOpComplete 9) (working (eng [] 0) (.fillz 0 144 none) fun o => { o with unitsDone := [1, 0] }) = .next t) ∧
    (∃ t, exec (.mcastSectorSend 9 31) sending = .next t) ∧ ∃ t, exec (.mcastSectorSend 9 63) twice = .next t :=
  fun h => ⟨((h.1 9 (working (eng [(130, 1)] 0) (.fillz 0 144 none) id) _ rfl).1 1 0 144 0 0 ⟨rfl, rfl, rfl⟩ rfl (by decide) (by decide)
      (by decide) (by decide) rfl).elim fun _ x => ⟨_, x.1⟩,
    ⟨_, (h.1 9 (working (eng [] 0) (.fillz 0 144 none) fun o => { o with unitsDone := [1, 0] }) _ rfl).2.1 _ rfl rfl (by decide)⟩,
    (inl_of mcast_read).elim fun r x => ((h.1 9 sending _ rfl).2.2.1 flatTensor 0 1 [(0, 0)] 0 (0, 0) 31 _ _ _
        ⟨rfl, rfl, rfl⟩ rfl rfl rfl (by decide) (by decide) (.inr ⟨rfl, r, x.1, rfl, rfl⟩) (Option.eq_some_of_isSome x.2)).elim
        fun _ x => x.elim fun _ x => ⟨_, x.1⟩,
    ((h.1 9 twice _ rfl).2.2.1 flatTensor 0 1 [(0, 0), (0, 4096)] 1 (0, 4096) 31 twice _ _ ⟨rfl, rfl, rfl⟩ rfl rfl rfl (by decide)
      (by decide) (.inl ⟨rfl, rfl⟩) rfl).elim fun _ x => x.elim fun _ x => ⟨_, x.1⟩⟩

theorem test_witness_TileOps : Obligations.EngineEvents →
    (∃ t, exec (.tileOpGrant 9) (working (eng [] 0) (.tlook flatTensor 0) id) = .next t) ∧
    (∃ t, exec (.tileOpGrant 9) (working (eng [] 0) (.tinv { tens with flags := 2 } false) id) = .next t) ∧
    (∃ t, exec (.tileOpComplete 9) (working (eng [] 0) (.tlook flatTensor 0) grant) = .next t) ∧
    (∃ t, exec (.tileOpComplete 9) (working (eng [] 0) (.tdead flatTensor 0 1 5) grant) = .next t) ∧
    (∃ t, exec (.tinvSweepDone 9) (working (eng [] 0) (.tinv tens true) grant) = .next t) ∧
    ∃ t, exec (.tileOpComplete 9) (working (eng [] 0) (.tlook flatTensor 0) fun o => { o with cancelled := true }) = .next t :=
  fun h => ⟨((h.1 9 (working (eng [] 0) (.tlook flatTensor 0) id) _ rfl).2.2.2.1 ⟨rfl, rfl, rfl⟩ rfl).1 _ _ rfl |>.elim fun _ x => ⟨_, x.1⟩,
    ((h.1 9 (working (eng [] 0) (.tinv { tens with flags := 2 } false) id) _ rfl).2.2.2.1 ⟨rfl, rfl, rfl⟩ rfl).2 _ _ _ rfl rfl (by decide) rfl
      (by decide) |>.elim fun _ x => ⟨_, x.1⟩,
    ⟨_, ((h.1 9 (working (eng [] 0) (.tlook flatTensor 0) grant) _ rfl).2.2.2.2.1 rfl).1 _ _ rfl⟩,
    ⟨_, ((h.1 9 (working (eng [] 0) (.tdead flatTensor 0 1 5) grant) _ rfl).2.2.2.2.1 rfl).2.1 _ _ _ _ rfl ⟨rfl, rfl, rfl⟩ (by decide)⟩,
    ((h.1 9 (working (eng [] 0) (.tinv tens true) grant) _ rfl).2.2.2.2.1 rfl).2.2 _ _ rfl |>.elim fun _ x => ⟨_, x.1⟩,
    ⟨_, (h.1 9 (working (eng [] 0) (.tlook flatTensor 0) fun o => { o with cancelled := true }) _ rfl).2.2.2.2.2.1 rfl rfl rfl _ _ rfl⟩⟩

/-- The load of one page of the overhead store. -/
def loading : State := working (mapped (eng [] 0)) (.osld 0 0 1 0) grant

theorem osld_read : gotIn (State.readFlat 9 (opOf9 loading) loading (flatParts (0 + 32768 * 0) 32768) [])
    (fun s => decide (tfind s.ops 9 = some (opOf9 loading))) = true := by decide +kernel

/-- An MMA whose A meets no mapping; its slot's image is held. -/
def faulting : State :=
  let s := working (eng [] 0) (.mma { aLo := 0, aHi := 0, bref := 0, packed := 128, gang := [] } (some flatTensor)) grant
  s.setCluster 0 { s.cluster 0 with shadows := [(9, 0, AccSlot.reset)] }

/-- The operation waits for a translation. -/
def waitsIn (z : Got) : Bool :=
  match z with
  | .wait s => ((tfind s.ops 9).map (·.faulted)).getD false &&
      decide (((s.cluster 0).shadows.find? fun x => x.1 = 9) = some (9, 0, AccSlot.reset))
  | _ => false

theorem waits_of {z : Got} (h : waitsIn z = true) : ∃ s o, z = .wait s ∧ tfind s.ops 9 = some o ∧
    o.faulted = true ∧ ((s.cluster 0).shadows.find? fun x => x.1 = 9) = some (9, 0, AccSlot.reset) := by
  unfold waitsIn at h
  split at h
  · next s => cases e : tfind s.ops 9 <;> simp_all
  · simp at h

theorem fetch_waits : waitsIn (faulting.fetchA 9 (opOf9 faulting) { aLo := 0, aHi := 0, bref := 0, packed := 128, gang := [] }
    (some flatTensor)) = true := by decide +kernel

theorem test_witness_MatrixOps : Obligations.EngineEvents →
    (∃ t, exec (.reservationGrant 9) (working (eng [] 0) (.mmaz 5 1) id) = .next t) ∧
    (∃ t, exec (.matrixOpComplete 9) (working (eng [] 0) (.mmaz 5 1) grant) = .next t) ∧
    (∃ t, exec (.osldPageLoaded 9) loading = .next t) ∧ ∃ t, exec (.aFetchXlateFault 9) faulting = .next t :=
  fun h => ⟨((h.1 9 (working (eng [] 0) (.mmaz 5 1) id) _ rfl).2.2.2.2.2.2.1 5 1 rfl ⟨rfl, rfl, rfl⟩).1 rfl rfl rfl (by decide)
      |>.elim fun _ x => ⟨_, x.1⟩,
    ((h.1 9 (working (eng [] 0) (.mmaz 5 1) grant) _ rfl).2.2.2.2.2.2.1 5 1 rfl ⟨rfl, rfl, rfl⟩).2 rfl rfl (by decide) |>.elim fun _ x => ⟨_, x.1⟩,
    (got_of osld_read).elim fun _ x => x.elim fun _ x => ((h.1 9 loading _ rfl).2.2.2.2.2.2.2.1 0 0 1 0 _ _ rfl ⟨rfl, rfl, rfl⟩ rfl
      (by decide) (by decide) x.1 (of_decide_eq_true x.2)).elim fun _ x => ⟨_, x.1⟩,
    (waits_of fetch_waits).elim fun _ x => x.elim fun _ x => ((h.1 9 faulting _ rfl).2.2.2.2.2.2.2.2.1 _ _ _ 0 AccSlot.reset _ rfl
      ⟨rfl, rfl, rfl⟩ rfl x.1 x.2.1 x.2.2.1 x.2.2.2).elim fun _ x => ⟨_, x.1⟩⟩

/-- Queue 0 of the mapped machine, under a push or a pop of reference 0. -/
def queueing (tail : Nat) (k : OpKind) : State := working (mapped (eng [] tail)) k id

theorem push_write : gotIn (State.opWrite (queueing 1 (.wqpush 0 0)) 9 (opOf9 (queueing 1 (.wqpush 0 0))) (flatTile 16 (64 / 4096))
    (64 % 4096) ((queueing 1 (.wqpush 0 0)).csmRead 0 0 64)) (fun _ => true) = true := by decide +kernel
theorem pop_read : gotIn (State.opRead (queueing 1 (.wqpop 0 0)) 9 (opOf9 (queueing 1 (.wqpop 0 0))) (flatTile 16 0) 0 64)
    (fun _ => true) = true := by decide +kernel

theorem test_witness_QueueOps : Obligations.EngineEvents →
    (∃ t, exec (.wqOpComplete 9) (queueing 64 (.wqpush 0 0)) = .next t) ∧ (∃ t, exec (.wqOpComplete 9) (queueing 1 (.wqpush 0 0)) = .next t) ∧
    (∃ t, exec (.wqOpComplete 9) (queueing 0 (.wqpop 0 0)) = .next t) ∧ (∃ t, exec (.wqOpComplete 9) (queueing 1 (.wqpop 0 0)) = .next t) ∧
    ∃ t, exec (.wqOpComplete 9) (queueing 0 (.tracex 0 (some flatTensor) 0 1)) = .next t :=
  fun h => ⟨⟨_, ((h.1 9 (queueing 64 (.wqpush 0 0)) _ rfl).2.2.2.2.2.2.2.2.2.1 0 0 _ rfl rfl ⟨rfl, rfl, rfl⟩ rfl).1 (by decide)⟩,
    (got_of push_write).elim fun _ x => x.elim fun _ x =>
      ⟨_, ((h.1 9 (queueing 1 (.wqpush 0 0)) _ rfl).2.2.2.2.2.2.2.2.2.1 0 0 _ rfl rfl ⟨rfl, rfl, rfl⟩ rfl).2 (0, 0) _ _ (by decide) rfl x.1⟩,
    ⟨_, ((h.1 9 (queueing 0 (.wqpop 0 0)) _ rfl).2.2.2.2.2.2.2.2.2.2.1 0 0 _ rfl rfl ⟨rfl, rfl, rfl⟩ rfl).1 (by decide)⟩,
    (got_of pop_read).elim fun _ x => x.elim fun _ x =>
      ⟨_, ((h.1 9 (queueing 1 (.wqpop 0 0)) _ rfl).2.2.2.2.2.2.2.2.2.2.1 0 0 _ rfl rfl ⟨rfl, rfl, rfl⟩ rfl).2 _ _ (by decide) x.1⟩,
    ⟨_, (h.1 9 (queueing 0 (.tracex 0 (some flatTensor) 0 1)) _ rfl).2.2.2.2.2.2.2.2.2.2.2 _ _ _ _ rfl⟩⟩

/-- A fill of a TDEAD waits in the region's queue, with time and budget to be done. -/
def fill9 : DFill := { op := 9, idx := 0, deadline := 1 + Config.fillLatency 0 }
def filling : State :=
  let s := working (mapped (eng [] 0)) (.tdead flatTensor 0 1 5) id
  onPart (s.setRegion 0 { s.region 0 with dfq := [fill9] }) fun P => { P with dfTokens := 65536 }
theorem in_time : filling.fillLate 0 fill9 = false := by
  have h1 : (filling.region 0).tclk = 0 := rfl
  have h2 : (filling.part (filling.fillPart fill9)).dfbudget.toNat = 1024 := by decide +kernel
  have h3 : (filling.region 0).dfq = [fill9] := rfl
  simp only [State.fillLate, h1, h2, h3]
  simp [fill9, aheadOf]
def filled : Sum State State := State.fillAll 9 (opOf9 filling) filling ((opOf9 filling).fillTiles 0)

theorem fill_goes : (match filled with | .inl s => decide (tfind s.ops 9 = some (opOf9 filling)) | .inr _ => false) = true := by
  decide +kernel
theorem filled_of : ∃ s, filled = .inl s ∧ tfind s.ops 9 = some (opOf9 filling) := by
  have h := fill_goes
  split at h
  · next s e => exact ⟨s, e, of_decide_eq_true h⟩
  · simp at h

/-- One member of a gang of two has arrived. -/
def latched : State :=
  let s := working (eng [] 0) (.mma { aLo := 0, aHi := 0, bref := 0, packed := 0, gang := [3, 6] } none) id
  s.setCluster 0 { s.cluster 0 with latches := [{ members := [3, 6], ops := [(3, 9)] }] }

/-- A pop whose handle a fragment has sent and its warp has not taken. -/
def handed : State := onWarp (queueing 0 (.wqpop 0 0)) fun W => { W with swrites := [.future 30 9 77] }

theorem test_witness_FillsAndEnds : Obligations.EngineEvents →
    (∃ t, exec (.deadlineFillCancel 0 0) (onPart filling fun P => { P with dfbudget := 0 }) = .next t) ∧
    (∃ t, exec (.deadlineFillStart 0) filling = .next t) ∧
    (∃ t, exec (.gangLatchTimeout 0 0) latched = .next t) ∧
    (∃ W, tfind ((queueing 0 (.wqpop 0 0)).finishOp 9 3 0x2B 0).warps 3 = some W ∧ tget 0 W.sc.s 30 = 0x32B) ∧
    ∃ W, tfind (handed.finishOp 9 3 0x2B 0).warps 3 = some W ∧ W.swrites.length = 1 :=
  fun h => ⟨(h.2.1 0 0 (onPart filling fun P => { P with dfbudget := 0 }) _ _ rfl rfl rfl).1 (by decide +kernel) |>.elim fun _ x => ⟨_, x.1⟩,
    filled_of.elim fun _ x => ((h.2.1 0 0 filling _ _ rfl rfl rfl).2 _ rfl rfl rfl (by decide +kernel) in_time (by decide +kernel)
      x.1 x.2).elim fun _ x => ⟨_, x.1⟩,
    (h.2.2.1 0 0 latched _ rfl (by decide)).elim fun _ x => ⟨_, x.1⟩,
    (((h.2.2.2 (queueing 0 (.wqpop 0 0)) 9 3 0x2B 0 _ rfl).2.2 _ 30 rfl rfl (by decide)).2 (by intro _ x; cases x) rfl).elim
      fun W x => ⟨W, x.1, x.2.1⟩,
    (((h.2.2.2 handed 9 3 0x2B 0 _ rfl).2.2 _ 30 rfl rfl (by decide)).1 77 (.head _)).elim
      fun W x => ⟨W, x.1, by rw [x.2.2.2]; rfl⟩⟩

/-- A load of one lane of the first flat tile, in a stage of its access. -/
def accessing (st : SubSt) (kind : AccKind) (sup : Bool) (l1 : List L1Line) : State :=
  let x : LaneAcc := { lane := 0, ea := 4, tgt := .glob, val := 0, val2 := 0, res := 0, denied := false, got := false }
  let a : Access := { warp := 3, split := 0, uid := 0, frag := false, threads := 1, age := 0, sup := sup, pc := 0, kind := kind
                      scalar := false, dst := [5], lanes := [x], subs := [{ tile := 0, st := st, fail := none }], released := false, gone := none }
  let s := mapped (eng [] 0)
  { s.setCluster 0 { s.cluster 0 with l1 := l1 } with accs := [(9, a)] }
def acc9 (s : State) : Access := (tfind s.accs 9).getD (recordOf (ctxOf s) .poll false [] [])
def load4 : AccKind := .load 4 false
def ready4 (k : AccKind) (sup : Bool) : State := accessing .filling k sup []

/-- Its home slice ready for it. -/
def ready5 (z : State) : State :=
  let q := z.accReq (acc9 z)
  (z.endFill (homeOf z q.part (flatTile q.asid 0))).takeOver q (flatTile q.asid 0)

def performs (z : State) : Bool :=
  match (acc9 z).perform (z.accReq (acc9 z)) 0 (ready5 z) with
  | .ok s _ => decide (tfind s.accs 9 = some (acc9 z))
  | _ => false
theorem performed (z : State) (h : performs z = true) : ∃ s xs, (acc9 z).perform (z.accReq (acc9 z)) 0 (ready5 z) = .ok s xs ∧
    tfind s.accs 9 = some (acc9 z) := by
  unfold performs at h
  split at h
  · next s xs e => exact ⟨s, xs, e, of_decide_eq_true h⟩
  · simp at h

def walk9 : WalkReq :=
  { acc := 9, part := 0, slice := (homeOf (ready4 load4 true) 0 (flatTile 16 0)).slice, asid := 16, page := 0 }

theorem test_witness_TileAccess : Obligations.TileAccess →
    (∃ t, exec (.tileRequest 9 0) (accessing .waiting load4 false [{ asid := 16, addr := 0, data := List.replicate 128 7 }]) = .next t) ∧
    (∃ t, exec (.tileRequest 9 0) (accessing .waiting (.atom 0 3) false []) = .next t) ∧
    (∃ t, exec (.pageWalkComplete 9 0) (accessing .walking load4 false []) = .next t) ∧
    (∃ t, exec (.tileFillComplete 9 0) (ready4 load4 true) = .next t) ∧
    (∃ t, exec (.tileFillComplete 9 0) (ready4 load4 false) = .next t) ∧
    ∃ t, exec (.tileFillComplete 9 0) (ready4 (.store 4 none) false) = .next t :=
  fun h => ⟨(h 9 0 (accessing .waiting load4 false [{ asid := 16, addr := 0, data := List.replicate 128 7 }]) _ _ rfl rfl (by decide) (by decide) (by decide)).1
      rfl rfl _ rfl |>.elim fun _ x => ⟨_, x.1⟩,
    (h 9 0 (accessing .waiting (.atom 0 3) false []) _ _ rfl rfl (by decide) (by decide) (by decide)).2.1 rfl rfl (by decide +kernel) (by decide +kernel) |>.elim fun _ x => ⟨_, x.1⟩,
    (h 9 0 (accessing .walking load4 false []) _ _ rfl rfl (by decide) (by decide) (by decide)).2.2.1 1 0x603
      walk9 rfl (by decide +kernel) rfl rfl (by decide +kernel) (by decide) (by decide +kernel)
      |>.elim fun _ x => x.elim fun _ x => ⟨_, x.1⟩,
    (performed (ready4 load4 true) (by decide +kernel)).elim fun _ x => x.elim fun _ x =>
      ((h 9 0 (ready4 load4 true) _ _ rfl rfl (by decide) (by decide) (by decide)).2.2.2 rfl rfl (by decide) (by decide) _ _ x.1 x.2).1 4 false rfl
        |>.elim fun _ x => ⟨_, x.1⟩,
    (performed (ready4 load4 false) (by decide +kernel)).elim fun _ x => x.elim fun _ x =>
      ((h 9 0 (ready4 load4 false) _ _ rfl rfl (by decide) (by decide) (by decide)).2.2.2 rfl rfl (by decide) (by decide) _ _ x.1 x.2).1 4 false rfl
        |>.elim fun _ x => ⟨_, x.1⟩,
    (performed (ready4 (.store 4 none) false) (by decide +kernel)).elim fun _ x => x.elim fun _ x =>
      ((h 9 0 (ready4 (.store 4 none) false) _ _ rfl rfl (by decide) (by decide) (by decide)).2.2.2 rfl rfl (by decide) (by decide) _ _ x.1 x.2).2 4 none rfl
        |>.elim fun _ x => ⟨_, x.1⟩⟩

/-! ## Hypotheses met: launches and blocks -/

/-- A grid of two blocks, of which one is placed. -/
def dispatching : State := onPart (onLaunch base fun L => { L with desc := { L.desc with grid := (2, 1, 1) } }) fun P => { P with lsavelen := 1024 }
def place1 : Place := { cluster := 0, core := 0, slot := 1, base := 0 }
def place0 : Place := { cluster := 0, core := 0, slot := 0, base := 0 }
/-- The launch's work is done. -/
def finishing : State := onLaunch { base with blocks := [], warps := [] } fun L => L

/-- A launch on a sheet of one block and one entry, which stands at 4096 and is complete. -/
def sheetDesc : LDesc := { LDesc.none with grid := (1, 1, 1), bd := (32, 1, 1), trace := 1, cap := 1, sheet := 4096 }
def selecting : State :=
  let s := onLaunch base fun L => { L with desc := sheetDesc, img := { L.img with codeLen := 0 }, phase := .selecting }
  mapped { s with mem := Memory.writeN [] 4096 (leBytes 4 sheetMagic ++ [2, 0, 1, 0] ++ sheetDesc.shape) }
/-- The launch of the state. -/
def launch1 (s : State) : Launch := (tfind s.launches 1).getD (newLaunch 0 0 0 0 0 0 none none false false none)
def selLaunch : Launch := launch1 selecting
def selReq : Req := feReq selecting selLaunch.part selLaunch.vf

/-- The left side of a sum, or what stands for it. -/
def leftOr {α β : Type} (z : Sum α β) (d : α) : α :=
  match z with
  | .inl a => a
  | .inr _ => d
def isLeft {α β : Type} (z : Sum α β) : Bool :=
  match z with
  | .inl _ => true
  | .inr _ => false
theorem left_of {α β : Type} (z : Sum α β) (d : α) (h : isLeft z = true) : z = .inl (leftOr z d) := by
  cases z <;> simp_all [isLeft, leftOr]
theorem pair_of {α β γ : Type} (z : Sum (α × β) γ) (d : α × β) (h : isLeft z = true) : z = .inl ((leftOr z d).1, (leftOr z d).2) :=
  left_of z d h
theorem some_of {α : Type} (z : Option α) (d : α) (h : z.isSome = true) : z = some (z.getD d) := by
  cases z <;> simp_all

def selHead : State × List Byte := leftOr (feRead selecting selReq selLaunch.desc.sheet 256) (selecting, [])
def selMark : State := (feWrite selHead.1 (feReq selHead.1 0 0) (selLaunch.desc.sheet + 4) [1]).getD selecting
/-- The sheet records, and its new epoch counts. -/
def selOn : State := (selMark.modLaunch 1 fun L => { L with sheetOn := true }).epochAdvance selLaunch.part
def selImg : State × List Byte := leftOr (imageBytes selOn selReq selLaunch) selHead
def selArgs : State × List Byte := leftOr (feRead selImg.1 selReq selLaunch.desc.args selLaunch.desc.argLen) selHead
def selCopy : State × List Byte := leftOr (feRead selArgs.1 selReq (selLaunch.desc.sheet + 0x100) (fieldOf selHead.2 0x34 4)) selHead

theorem sel_head : isLeft (feRead selecting selReq selLaunch.desc.sheet 256) = true := by decide +kernel
theorem sel_img : isLeft (imageBytes selOn selReq selLaunch) = true := by decide +kernel
theorem sel_args : isLeft (feRead selImg.1 selReq selLaunch.desc.args selLaunch.desc.argLen) = true := by decide +kernel
theorem sel_copy : isLeft (feRead selArgs.1 selReq (selLaunch.desc.sheet + 0x100) (fieldOf selHead.2 0x34 4)) = true := by decide +kernel
theorem sel_mark : (feWrite selHead.1 (feReq selHead.1 0 0) (selLaunch.desc.sheet + 4) [1]).isSome = true := by decide +kernel
theorem sel_usable : (sheetUsable selLaunch.desc selHead.2 && decide (shapeGrid selHead.2 = selLaunch.desc.grid)) = true := by
  decide +kernel

/-- A REPRINT of it whose re-run blocks have ended. -/
def orphaned : State := onLaunch { selecting with blocks := [], warps := [] } fun L =>
  { L with phase := .running, reprint := true, sel := some [] }
def orphanLaunch : Launch := launch1 orphaned
def orphanRead : State × List Rec :=
  leftOr (readRecords (feReq orphaned orphanLaunch.part orphanLaunch.vf) (orphanLaunch.desc.sheet + orphanLaunch.desc.recOff)
    orphanLaunch.desc.cap orphanLaunch.desc.blocks 0 orphaned) (selecting, [])
theorem orphan_records : isLeft (readRecords (feReq orphaned orphanLaunch.part orphanLaunch.vf)
    (orphanLaunch.desc.sheet + orphanLaunch.desc.recOff) orphanLaunch.desc.cap orphanLaunch.desc.blocks 0 orphaned) = true := by
  decide +kernel

theorem test_witness_LaunchLife : Obligations.LaunchAndBlockEvents →
    (∃ t, exec (.launchReady 1) (onLaunch base fun L => { L with phase := .waiting }) = .next t) ∧
    (∃ t, exec (.blockDispatch 1 [place1]) dispatching = .next t) ∧ (∃ t, exec (.launchComplete 1) finishing = .next t) ∧
    (∃ t, exec (.reprintSelect 1) selecting = .next t) ∧ ∃ t, exec (.orphanFormation 1) orphaned = .next t :=
  fun h => ⟨((h.1 1 (onLaunch base fun L => { L with phase := .waiting }) _ rfl).1 rfl rfl rfl rfl rfl).elim fun _ x => ⟨_, x.1⟩,
    ((h.1 1 dispatching (launch1 dispatching) (some_of _ _ rfl)).2.1 1 place1 0 18 rfl rfl rfl rfl (by decide +kernel) rfl rfl
      (by decide)).elim fun _ x => ⟨_, x.1⟩,
    ((h.1 1 finishing _ rfl).2.2.1 0 rfl (.inr rfl) rfl rfl rfl rfl rfl rfl rfl (by decide)).elim fun _ x => ⟨_, x.1⟩,
    ⟨_, ((h.1 1 selecting selLaunch (some_of _ (newLaunch 0 0 0 0 0 0 none none false false none) rfl)).2.2.2.1 selHead.1 selHead.2 selMark selOn selImg.1 selImg.2
      selArgs.1 selArgs.2 selCopy.1 selCopy.2 rfl rfl rfl (pair_of _ (selecting, []) sel_head) (by simpa using (Bool.and_eq_true_iff.1 sel_usable).1)
      (by simpa using (Bool.and_eq_true_iff.1 sel_usable).2) (some_of _ selecting sel_mark) rfl (pair_of _ selHead sel_img)
      (pair_of _ selHead sel_args) (pair_of _ selHead sel_copy)).1⟩,
    ⟨_, (h.1 1 orphaned orphanLaunch (some_of _ (newLaunch 0 0 0 0 0 0 none none false false none) (by decide +kernel))).2.2.2.2
      orphanRead.1 orphanRead.2 (by decide +kernel) (by decide +kernel) (by decide +kernel) (by decide +kernel) (by decide +kernel)
      (pair_of _ (selecting, []) orphan_records)⟩⟩

/-- The block with a requested stop. -/
def stoppingBlock : State := onBlock (handler base) fun B => { B with stop := some .preempt }
/-- Its split waits on a queue, and is stopped. -/
def stopped : State := onSplit stoppingBlock fun X => { X with wait := .wqwait 0 (false, 30) }
/-- The block is saved. -/
def savedBlock : State := { onBlock (onPart base fun P => { P with lsavelen := 1024 }) fun B => { B with saved := true, resident := false } with warps := [] }
/-- Its lanes have ended. -/
def endedBlock : State := onWarp base fun W => { W with exited := allLanes, splits := [] }
def sweeping : State := onPart base fun P => { P with sweeping := true }
/-- Two VFs of the partition have work. -/
def slicing : State :=
  let s := onPart base fun P => { P with feslice := 1 }
  { s with vfs := s.vfs ++ s.vfs.map fun e => (1, e.2), launches := tset s.launches 9 { launch1 s with vf := 1 } }

theorem test_witness_BlockEvents : Obligations.LaunchAndBlockEvents →
    (∃ t, exec (.blockStopped 2) stopped = .next t) ∧ (∃ t, exec (.blockResume 2 [place0]) savedBlock = .next t) ∧
    (∃ t, exec (.preemptSoftDeadline 2) stoppingBlock = .next t) ∧ (∃ t, exec (.preemptHardDeadline 2) stoppingBlock = .next t) ∧
    (∃ t, exec (.blockEnd 2) endedBlock = .next t) ∧ (∃ t, exec (.stampSweepDone 0) sweeping = .next t) ∧
    ∃ t, exec (.timeSliceEnd 0) slicing = .next t :=
  fun h => ⟨((h.2.1 2 stopped _ _ rfl rfl).1 .waitWord rfl (by decide) rfl rfl (by decide +kernel) (by decide +kernel) (by decide +kernel)
      (by decide +kernel) (by decide +kernel) (by decide +kernel) (by decide +kernel)).elim fun _ x => ⟨_, x.1⟩,
    ((h.2.1 2 savedBlock _ _ rfl rfl).2.1 place0 0 rfl rfl rfl (by decide +kernel) (by decide +kernel) rfl (by decide +kernel) rfl).elim
      fun _ x => x.elim fun _ x => ⟨_, x.1⟩,
    ⟨_, ((h.2.1 2 stoppingBlock _ _ rfl rfl).2.2.1 rfl).1 3 _ _ rfl rfl rfl (by decide) (by decide +kernel) rfl
      (by unfold atEase canTrap; decide +kernel)⟩,
    (((h.2.1 2 stoppingBlock _ _ rfl rfl).2.2.1 rfl).2 rfl).elim fun _ x => ⟨_, x.1⟩,
    ((h.2.1 2 endedBlock _ _ rfl rfl).2.2.2 rfl rfl (by decide +kernel) (by decide) rfl rfl rfl).elim fun _ x => ⟨_, x.1⟩,
    ⟨_, (h.2.2 0 sweeping).1 rfl rfl⟩, ((h.2.2 0 slicing).2 0 (by decide +kernel)).elim fun _ x => ⟨_, x.1⟩⟩

/-! ## Hypotheses met: the front end -/

/-- Queue 0 of the VF has a ring of 16 units at host address 4096, and lane 0 is at its first packet, of these bytes. -/
def ringing (units : Nat) (bytes : List (Nat × Byte)) : State :=
  let s := mapped base
  { s with
    pkg := { s.pkg with stage := 3 }
    lanes := [(0, { vf := 0, queue := 0, tail := units, head := 0, taken := 0, passed := 0, due := false })]
    host := [(257, 16), (264, 4), (265, 1), (268, 1)] ++ bytes.map fun c => (4096 + c.1, c.2) }
def lane0 (s : State) : Lane := (tfind s.lanes 0).getD { vf := 0, queue := 0, tail := 0, head := 0, taken := 0, passed := 0, due := false }
def next0 (s : State) : Option (Vf × Pkt) := s.laneNext (lane0 s)
def vf0 (s : State) : Vf := ((next0 s).map (·.1)).getD (s.vfRecord 0 0)
def pkt0 (s : State) : Pkt := ((next0 s).map (·.2)).getD (s.pktAt (s.ring (vf0 s) 0) 0)
def atPacket (s : State) : Bool :=
  (tfind s.lanes 0).isSome && (next0 s).isSome && (tfind s.beginStep.lanes 0).map (·.due) == some true && !(pkt0 s).barrier

theorem packet_of (s : State) (h : atPacket s = true) : packetAt s 0 (lane0 s) (vf0 s) (pkt0 s) := by
  simp only [atPacket, Bool.and_eq_true, Bool.not_eq_true', beq_iff_eq] at h
  refine ⟨some_of _ _ h.1.1.1, ?_, h.1.2, h.2⟩
  have k := h.1.1.2
  unfold vf0 pkt0
  unfold next0 at k ⊢
  cases e : s.laneNext (lane0 s) <;> simp_all

def servedIn (z : Served) : Bool :=
  match z with
  | .ok _ _ => true
  | _ => false
theorem served_of {z : Served} (h : servedIn z = true) : ∃ s bs, z = .ok s bs := by
  unfold servedIn at h
  split at h
  · exact ⟨_, _, rfl⟩
  · simp at h

/-- The VF has counters and a free slot. -/
def counting (s : State) : State := onVf s fun v => { v with dccount := 4, qslots := 2 }

def nopBad : State := ringing 1 [(16, 1)]
def nop : State := ringing 1 []
def fenceBad : State := ringing 1 [(0, 1)]
def fenceFar : State := counting (ringing 1 [(0, 1), (16, 0xFF), (17, 0xFF)])
def fenceEarly : State := counting (ringing 1 [(0, 1), (20, 5)])
def signalNone : State := counting (ringing 1 [(0, 2)])
def signalOne : State := counting (ringing 1 [(0, 2), (17, 16), (24, 7)])
def counterSet : State := counting (ringing 1 [(0, 0x52), (20, 9)])
def launchFull : State := ringing 1 [(0, 0x10), (17, 1)]
def launchOne : State := counting launchFull
def reprintOne : State := counting (ringing 1 [(0, 0x11), (17, 1)])

/-- A SIGNAL's tokens have left, and its write. -/
def sigState (s : State) : State :=
  ((asking s.beginStep (lane0 s)).sendTokens (vf0 s).part (vf0 s).princ).modFe s.beginStep.fresh fun o => { o with got := some [] }
def sigServe (s : State) : Served :=
  serveWrite (sigState s) (feReq (sigState s) (vf0 s).part (lane0 s).vf) ((pkt0 s).f 0x10 8) (leBytes 8 ((pkt0 s).f 0x18 8))
/-- A path of the partition through port 0 that has carried stores, under a token. -/
def path0 : FabPath := { part := 0, dev := 5, port := 0, seq := 4, fwdRouter := 4, fwdPort := 4, token := 4, acked := 0, lost := false }
def signalWait : State := { signalOne with paths := [path0] }
def signalLost : State := { signalOne with paths := [{ path0 with acked := 4, lost := true }] }
/-- Its address is another device's. -/
def signalFar : State :=
  { signalOne with mem := signalOne.mem ++ [(131077, 0x80)] }.setPort 0 { signalOne.port 0 with
    up := true, valid := true, mode := true, owner := 0
    owin := [(0, { PortWin.reset with dev := 5, base := 0, len := 16, w := true, valid := true })] }
def feBack : FeOp := { noRequests (lane0 signalOne) with got := some [], acked := [feWriteKey 4096] }
def signalBack : State := { signalOne with feOps := [(0, feBack)] }

theorem signal_write : servedIn (sigServe signalOne) = true := by decide +kernel

theorem test_witness_Packets : Obligations.FrontEndEvents →
    (∃ t, exec (.nopPacket 0) nopBad = .next t) ∧ (∃ t, exec (.nopPacket 0) nop = .next t) ∧
    (∃ t, exec (.fencePacket 0) fenceBad = .next t) ∧ (∃ t, exec (.fencePacket 0) fenceFar = .next t) ∧
    (∃ t, exec (.fencePacket 0) fenceEarly = .next t) ∧ (∃ t, exec (.signalPacket 0) signalNone = .next t) ∧
    (∃ t, exec (.signalPacket 0) signalOne = .next t) ∧ (∃ t, exec (.signalPacket 0) signalWait = .next t) ∧
    (∃ t, exec (.signalPacket 0) signalLost = .next t) ∧ (∃ t, exec (.signalPacket 0) signalFar = .next t) ∧
    (∃ t, exec (.signalPacket 0) signalBack = .next t) ∧ (∃ t, exec (.dcset 0) counterSet = .next t) ∧
    (∃ t, exec (.launchPacket 0) launchFull = .next t) ∧ (∃ t, exec (.launchPacket 0) launchOne = .next t) ∧
    ∃ t, exec (.reprintPacket 0) reprintOne = .next t :=
  fun h => ⟨⟨_, (h.1 0 nopBad _ _ _ (packet_of nopBad (by decide +kernel))).1 (by decide +kernel) (by decide +kernel)⟩,
    ⟨_, (h.1 0 nop _ _ _ (packet_of nop (by decide +kernel))).2.1 (by decide +kernel)⟩,
    ⟨_, ((h.1 0 fenceBad _ _ _ (packet_of fenceBad (by decide +kernel))).2.2.1 (by decide +kernel)).1 (by decide +kernel) (by decide +kernel)⟩,
    ⟨_, (((h.1 0 fenceFar _ _ _ (packet_of fenceFar (by decide +kernel))).2.2.1 (by decide +kernel)).2 (by decide +kernel)).1
      (by decide +kernel) (.inl (by decide +kernel))⟩,
    ⟨_, (((h.1 0 fenceEarly _ _ _ (packet_of fenceEarly (by decide +kernel))).2.2.1 (by decide +kernel)).2 (by decide +kernel)).2
      (.inr (by decide +kernel))⟩,
    ⟨_, ((h.1 0 signalNone _ _ _ (packet_of signalNone (by decide +kernel))).2.2.2.1 (by decide +kernel) (by decide +kernel)
      (by decide +kernel)).1 (by decide +kernel)⟩,
    (served_of signal_write).elim fun _ x => x.elim fun _ x =>
      ⟨_, (((h.1 0 signalOne _ _ _ (packet_of signalOne (by decide +kernel))).2.2.2.1 (by decide +kernel) (by decide +kernel)
        (by decide +kernel)).2.1 (by unfold unasked; decide +kernel) (by decide +kernel)).1 (by decide +kernel) |>.2.2 _ _
        (by decide +kernel) (by decide +kernel) x⟩,
    ⟨_, (((h.1 0 signalWait _ _ _ (packet_of signalWait (by decide +kernel))).2.2.2.1 (by decide +kernel) (by decide +kernel)
        (by decide +kernel)).2.1 (by unfold unasked; decide +kernel) (by decide +kernel)).1 (by decide +kernel) |>.2.1
        (by decide +kernel) (by decide +kernel)⟩,
    ⟨_, (((h.1 0 signalLost _ _ _ (packet_of signalLost (by decide +kernel))).2.2.2.1 (by decide +kernel) (by decide +kernel)
        (by decide +kernel)).2.1 (by unfold unasked; decide +kernel) (by decide +kernel)).1 (by decide +kernel) |>.1
        (by decide +kernel)⟩,
    ⟨_, ((((h.1 0 signalFar _ _ _ (packet_of signalFar (by decide +kernel))).2.2.2.1 (by decide +kernel) (by decide +kernel)
        (by decide +kernel)).2.1 (by unfold unasked; decide +kernel) (by decide +kernel)).2 (.port 0 4096 5) (by decide +kernel)).trans
        (if_pos (by decide +kernel))⟩,
    ⟨_, ((h.1 0 signalBack _ _ _ (packet_of signalBack (by decide +kernel))).2.2.2.1 (by decide +kernel) (by decide +kernel)
        (by decide +kernel)).2.2 0 feBack (by decide +kernel) (by decide +kernel) (by decide +kernel) (by decide +kernel)
        (by decide +kernel) (by decide +kernel)⟩,
    ⟨_, ((h.1 0 counterSet _ _ _ (packet_of counterSet (by decide +kernel))).2.2.2.2.1 (by decide +kernel)).trans
      (if_pos (by decide +kernel))⟩,
    ⟨_, ((h.1 0 launchFull _ _ _ (packet_of launchFull (by decide +kernel))).2.2.2.2.2.1 false 0x10 (.launchPacket 0) rfl
      (by decide +kernel) (by decide) (by decide +kernel)).1 (by decide +kernel)⟩,
    ⟨_, ((h.1 0 launchOne _ _ _ (packet_of launchOne (by decide +kernel))).2.2.2.2.2.1 false 0x10 (.launchPacket 0) rfl
      (by decide +kernel) (by decide) (by decide +kernel)).2 _ _ (some_of _ (launchOne, false) (by decide +kernel))⟩,
    ⟨_, ((h.1 0 reprintOne _ _ _ (packet_of reprintOne (by decide +kernel))).2.2.2.2.2.1 true 0x11 (.reprintPacket 0) rfl
      (by decide +kernel) (by decide +kernel) (by decide +kernel)).2 _ _ (some_of _ (reprintOne, false) (by decide +kernel))⟩⟩

/-- Queue 0 of the partition belongs to the VF. -/
def withQueue (tail : Nat) (closed : Bool) (s : State) : State :=
  onPart s fun P => { P with wqs := [(0, { asid := 16, ring := 0, log2n := 6, head := 0, tail := tail, closed := closed, sleepers := [], pusher := none, popper := none })] }
def queue0 (s : State) : WorkQ :=
  (s.wq 0 0).getD { asid := 0, ring := 0, log2n := 0, head := 0, tail := 0, closed := false, sleepers := [], pusher := none, popper := none }
def feedOf (tail : Nat) (closed : Bool) : State := withQueue tail closed (ringing 2 [(0, 0x20), (1, 1), (64, 5)])
def feedOne : State := feedOf 0 false
def wqMake : State := ringing 1 [(0, 0x51), (16, 1), (17, 6)]
def wqClose : State := withQueue 0 false (ringing 1 [(0, 0x51), (18, 1)])
def wqFree : State := withQueue 0 false (ringing 1 [(0, 0x51), (18, 2)])

def feedState : State := asking feedOne.beginStep (lane0 feedOne)
theorem feed_write : servedIn (((queue0 feedOne).records ((pkt0 feedOne).len - 1) ((pkt0 feedOne).bytes.drop 64)).foldl
    (fun z w => match z with | .ok s _ => serveWrite s (feReq feedState (vf0 feedOne).part (lane0 feedOne).vf) w.1 w.2 | z => z)
    (Served.ok feedState [])) = true := by decide +kernel

theorem test_witness_QueuePackets : Obligations.FrontEndEvents →
    (∃ t, exec (.feed 0) (feedOf 0 true) = .next t) ∧ (∃ t, exec (.feed 0) (feedOf 64 false) = .next t) ∧
    (∃ t, exec (.feed 0) feedOne = .next t) ∧ (∃ t, exec (.wqcfgConfigure 0) wqMake = .next t) ∧
    (∃ t, exec (.wqcfgClose 0) wqClose = .next t) ∧ ∃ t, exec (.wqcfgFree 0) wqFree = .next t :=
  fun h => ⟨⟨_, ((h.1 0 (feedOf 0 true) _ _ _ (packet_of (feedOf 0 true) (by decide +kernel))).2.2.2.2.2.2.1 (by decide +kernel)
      _ (some_of _ (queue0 feedOne) (by decide +kernel))).1 (by decide +kernel)⟩,
    ⟨_, (((h.1 0 (feedOf 64 false) _ _ _ (packet_of (feedOf 64 false) (by decide +kernel))).2.2.2.2.2.2.1 (by decide +kernel)
      _ (some_of _ (queue0 feedOne) (by decide +kernel))).2 (by decide +kernel) (by unfold unasked; decide +kernel)
      (by decide +kernel)).1 (by decide +kernel) |>.trans (if_neg (by decide +kernel))⟩,
    (served_of feed_write).elim fun _ x => x.elim fun _ x =>
      ⟨_, (((h.1 0 feedOne _ _ _ (packet_of feedOne (by decide +kernel))).2.2.2.2.2.2.1 (by decide +kernel)
        (queue0 feedOne) (by decide +kernel)).2 (by decide +kernel) (by unfold unasked; decide +kernel) (by decide +kernel)).2 _
        (by decide +kernel) ⟨_, x⟩⟩,
    ⟨_, ((h.1 0 wqMake _ _ _ (packet_of wqMake (by decide +kernel))).2.2.2.2.2.2.2 (by decide +kernel)).1 (by decide +kernel)
      (by decide +kernel) (by decide +kernel) (by decide +kernel) (by decide +kernel) (by decide +kernel) (by decide +kernel)⟩,
    ⟨_, (((h.1 0 wqClose _ _ _ (packet_of wqClose (by decide +kernel))).2.2.2.2.2.2.2 (by decide +kernel)).2
      (queue0 wqClose) (by decide +kernel)).1 (by decide +kernel)⟩,
    ⟨_, ((((h.1 0 wqFree _ _ _ (packet_of wqFree (by decide +kernel))).2.2.2.2.2.2.2 (by decide +kernel)).2
      (queue0 wqFree) (by decide +kernel)).2 (by decide +kernel)).trans (if_pos (by decide +kernel))⟩⟩

def noting : State := { ringing 1 [] with notified := [(0, 0)], lanes := [] }
def unknownOp : State := ringing 1 [(0, 0x7F)]
def emptied : State := ringing 0 []
def parkedOne : State := onVf base fun v => { v with parked := [2] }
def bound : State := { base with vfmap := [(0, 0x80000000)] }

theorem test_witness_QueueEvents : Obligations.FrontEndEvents →
    (∃ t, exec (.serveQueue 0) noting = .next t) ∧ (∃ t, exec (.serveQueue 0) unknownOp = .next t) ∧
    (∃ t, exec (.serveQueue 0) emptied = .next t) ∧ (∃ t, exec (.parkedQueueWake 0 2) parkedOne = .next t) ∧
    ∃ t, exec (.queueNotify 0 3) bound = .next t :=
  fun h => ⟨⟨_, (h.2.1 0 noting).1 0 0 _ (by decide) rfl (by decide +kernel) rfl (by decide +kernel) (by decide +kernel) (by decide +kernel)⟩,
    ⟨_, ((h.2.1 0 unknownOp).2 (lane0 unknownOp) _ (by decide) (by decide +kernel) rfl (by decide +kernel)).1 (vf0 unknownOp) (pkt0 unknownOp)
      (by decide +kernel) (by decide +kernel) (by decide +kernel)⟩,
    (((h.2.1 0 emptied).2 (lane0 emptied) _ (by decide) (by decide +kernel) rfl (by decide +kernel)).2 (by decide +kernel) (by decide)).elim
      fun _ x => ⟨_, x.1⟩,
    (h.2.2.1 0 2 parkedOne _ rfl (by decide)).elim fun _ x => ⟨_, x.1⟩,
    (h.2.2.2 0 3 bound _ (some_of _ (vf0 bound) (by decide +kernel)) rfl).elim fun _ x => ⟨_, x.1⟩⟩

def badCopy : State := ringing 1 [(0, 0x30), (16, 1)]
def copyOne : State := ringing 1 [(0, 0x30), (26, 0x10), (32, 16)]
def servedOr (z : Served) (s : State) : State × List Byte :=
  match z with
  | .ok t bs => (t, bs)
  | _ => (s, [])
theorem served_pair (z : Served) (d : State) (h : servedIn z = true) : z = .ok (servedOr z d).1 (servedOr z d).2 := by
  cases z <;> simp_all [servedIn, servedOr]
def reqOf (s : State) : Req := feReq s.beginStep (vf0 s).part (lane0 s).vf
def copyStart : State := asking copyOne.beginStep (lane0 copyOne)
def copyRead : State × List Byte := servedOr (serveRead copyStart (reqOf copyOne) ((pkt0 copyOne).f 0x10 8) ((pkt0 copyOne).f 0x20 8)) copyOne
/-- The COPY has what it read. -/
def copyGot : State := copyRead.1.modFe copyOne.beginStep.fresh fun o => { o with got := some copyRead.2 }
def copyTry : State × List Byte := servedOr (serveWrite copyGot (reqOf copyOne) ((pkt0 copyOne).f 0x18 8) copyRead.2) copyOne
def copyStamp : State × Bool := copyGot.stampRanges copyOne.beginStep.fresh (lane0 copyOne).vf (reqOf copyOne) (vf0 copyOne)
  [((pkt0 copyOne).f 0x18 8 / 65536 * 65536, ((pkt0 copyOne).f 0x18 8 + (pkt0 copyOne).f 0x20 8 + 65535) / 65536 * 65536 -
    (pkt0 copyOne).f 0x18 8 / 65536 * 65536)]
def copyWrite : Served := (feRuns ((pkt0 copyOne).f 0x18 8) copyRead.2).foldl
  (fun z w => match z with | .ok s _ => serveWrite s (reqOf copyOne) w.1 w.2 | z => z) (Served.ok copyStamp.1 [])
theorem copy_read : servedIn (serveRead copyStart (reqOf copyOne) ((pkt0 copyOne).f 0x10 8) ((pkt0 copyOne).f 0x20 8)) = true := by
  decide +kernel
theorem copy_try : servedIn (serveWrite copyGot (reqOf copyOne) ((pkt0 copyOne).f 0x18 8) copyRead.2) = true := by decide +kernel
theorem pair_false {α : Type} (z : α × Bool) (h : z.2 = false) : z = (z.1, false) := by
  cases z; simp_all
theorem copy_stamp : copyStamp.2 = false := by decide +kernel
theorem copy_write : servedIn copyWrite = true := by decide +kernel

/-- A MIGRATE of one page, to the host or to the device. -/
def moving (dir : Byte) : State := ringing 1 ([(0, 0x40), (24, 1)] ++ if dir = 0 then [] else [(28, dir)])
def leaves (s : State) : List Leaf := leftOr (migLeaves s.beginStep.mem (vf0 s) ((pkt0 s).f 0x18 4) ((pkt0 s).f 0x10 8)) []
def leavesOk (s : State) (toHost : Bool) : Bool :=
  isLeft (migLeaves s.beginStep.mem (vf0 s) ((pkt0 s).f 0x18 4) ((pkt0 s).f 0x10 8)) &&
  ((leaves s).filter fun y => pteHost y.e != toHost).all fun y =>
    paRegion (pteFrame y.e) = some 0 && s.beginStep.inPart (vf0 s).part 0
theorem leaves_of (s : State) (toHost : Bool) (h : leavesOk s toHost = true) :
    ∀ y ∈ (leaves s).filter (fun y => pteHost y.e != toHost),
      ∃ r, paRegion (pteFrame y.e) = some r ∧ s.beginStep.inPart (vf0 s).part r = true := by
  intro y hy
  have := List.all_eq_true.1 (Bool.and_eq_true_iff.1 h).2 y hy
  simp only [Bool.and_eq_true, decide_eq_true_eq] at this
  exact ⟨0, this⟩

/-- A TENSOR of an id, from the descriptor at 8192, whose element bytes these are. -/
def naming (id : Byte) (dir : Byte) (d : List (Nat × Byte)) (known : List (Nat × Nat)) : State :=
  let s := ringing 1 ([(0, 0x50), (16, id)] ++ if dir = 0 then [(25, 0x20)] else [(20, dir)])
  onPart (onVf { s with mem := d ++ s.mem } fun v => { v with ttlen := 64 }) fun P => { P with registered := known }
def smallId : State := naming 5 0 [] []
def badTensor : State := naming 40 0 [] []
def goodTensor : State := naming 40 0 [(8200, 1), (8201, 6), (8225, 16), (8272, 1), (8345, 16)] []
def oldTensor : State := naming 40 1 [] [(16, 40)]
def tensorRead (s : State) : State × List Byte :=
  leftOr (feRead s.beginStep (reqOf s) ((pkt0 s).f 0x18 8) 256) (s, [])

theorem bad_read : isLeft (feRead badTensor.beginStep (reqOf badTensor) ((pkt0 badTensor).f 0x18 8) 256) = true := by decide +kernel
theorem good_read : isLeft (feRead goodTensor.beginStep (reqOf goodTensor) ((pkt0 goodTensor).f 0x18 8) 256) = true := by decide +kernel

theorem test_witness_PagePackets : Obligations.PagePacketResults →
    (∃ t, exec (.copyPacket 0) badCopy = .next t) ∧ (∃ t, exec (.copyPacket 0) copyOne = .next t) ∧
    (∃ t, exec (.migrateToHost 0) (moving 1) = .next t) ∧ (∃ t, exec (.migrateToDevice 0) (moving 0) = .next t) ∧
    (∃ t, exec (.tensorRegister 0) smallId = .next t) ∧ (∃ t, exec (.tensorRegister 0) badTensor = .next t) ∧
    (∃ t, exec (.tensorRegister 0) goodTensor = .next t) ∧ ∃ t, exec (.tensorUnregister 0) oldTensor = .next t :=
  fun h => ⟨⟨_, ((h.1 0 badCopy _ _ _ (packet_of badCopy (by decide +kernel))).1 (by decide +kernel)).1 (by decide +kernel)⟩,
    ⟨_, ((h.1 0 copyOne _ _ _ (packet_of copyOne (by decide +kernel))).1 (by decide +kernel)).2 copyRead.1 copyRead.2 copyGot
      copyTry.1 copyTry.2 copyStamp.1 (servedOr copyWrite copyOne).1 (by decide +kernel) (by decide +kernel) (by decide +kernel)
      (by decide +kernel) (by decide +kernel) (by decide +kernel) (by unfold unasked; decide +kernel)
      (served_pair _ copyOne copy_read) rfl (served_pair _ copyOne copy_try) (pair_false _ copy_stamp)
      ⟨_, served_pair _ copyOne copy_write⟩⟩,
    ⟨_, (h.1 0 (moving 1) _ _ _ (packet_of (moving 1) (by decide +kernel))).2.1 true _ ⟨rfl, by decide +kernel⟩ (by decide +kernel)
      (by decide +kernel) (by decide +kernel) (by decide +kernel) (by decide +kernel) (by unfold unasked; decide +kernel) (leaves (moving 1))
      (left_of _ [] (by decide +kernel)) (leaves_of (moving 1) true (by decide +kernel))⟩,
    ⟨_, (h.1 0 (moving 0) _ _ _ (packet_of (moving 0) (by decide +kernel))).2.1 false _ ⟨rfl, by decide +kernel⟩ (by decide +kernel)
      (by decide +kernel) (by decide +kernel) (by decide +kernel) (by decide +kernel) (by unfold unasked; decide +kernel) (leaves (moving 0))
      (left_of _ [] (by decide +kernel)) (leaves_of (moving 0) false (by decide +kernel))⟩,
    ⟨_, (((h.1 0 smallId _ _ _ (packet_of smallId (by decide +kernel))).2.2 (by decide +kernel)).1 (by decide +kernel) (by decide +kernel)).1
      (by decide +kernel)⟩,
    ⟨_, ((((h.1 0 badTensor _ _ _ (packet_of badTensor (by decide +kernel))).2.2 (by decide +kernel)).1 (by decide +kernel)
      (by decide +kernel)).2 _ _ (by decide +kernel) (by decide +kernel) (by decide +kernel) (by decide +kernel)
      (by decide +kernel) (pair_of _ (badTensor, []) bad_read)).1 (by decide +kernel)⟩,
    ⟨_, (((((h.1 0 goodTensor _ _ _ (packet_of goodTensor (by decide +kernel))).2.2 (by decide +kernel)).1 (by decide +kernel)
      (by decide +kernel)).2 _ _ (by decide +kernel) (by decide +kernel) (by decide +kernel) (by decide +kernel)
      (by decide +kernel) (pair_of _ (goodTensor, []) good_read)).2 (by decide +kernel)).trans (if_neg (by decide +kernel))⟩,
    ⟨_, ((h.1 0 oldTensor _ _ _ (packet_of oldTensor (by decide +kernel))).2.2 (by decide +kernel)).2 (by decide +kernel) (by decide +kernel)
      (by decide +kernel) (by decide +kernel) (by decide +kernel) (by decide +kernel) (by decide +kernel)⟩⟩

/-- The leaf that the MIGRATE moves. -/
def leaf0 : Leaf := (leaves (moving 1)).headD (Leaf.mk 0 0 0 0)

theorem test_witness_PageMoves : Obligations.PagePacketResults →
    (let u := (moving 1).migrateLeaf 0 (vf0 (moving 1)) true leaf0
     Memory.read u.host ((vf0 (moving 1)).mirror.toNat + leaf0.va + 1) = Memory.read u.mem (pteFrame leaf0.e + 1)) ∧
    (16, 40) ∉ ((oldTensor.unregisterTensor (vf0 oldTensor) 40).part 0).registered :=
  fun h => ⟨h.2.1 (moving 1) 0 (vf0 (moving 1)) leaf0 (by decide +kernel) (by decide +kernel) 1 (by decide +kernel),
    h.2.2.2 oldTensor (vf0 oldTensor) 40 _ (some_of _ flatTensor (by decide +kernel))⟩

/-! ## Hypotheses met: virtual functions and partitions -/

/-- The VF is bound to the host and the package runs. -/
def boundVf0 (s : State) : State := { s with vfmap := [(0, 0x80000000)], pkg := { s.pkg with stage := 3 } }
def negotiating (want : Byte) : State := boundVf0 { base with host := [(16, want)] }
/-- Record 3 names a VF of this ASID; record 0 is the VF that stands. -/
def creating (asid : Byte) : State :=
  onPart { base with mem := [(384, asid), (408, 32)] } fun P => { P with pvfcount := 8 }
def vfAt (s : State) : Vf := (tfind s.vfs 0).getD (s.vfRecord 0 0)
/-- An ACC_OWNER handler runs in the VF's warp. -/
def ownerFlr : State :=
  let z : SupCause := { cause := cAccOwner, split := 0, uid := 0, frag := false, addr := 0, aux := 0, kind := 2, ref := 0, sub := 0 }
  { base with warps := base.warps.map fun e => (e.1, { e.2 with supNow := some z }) }
def vfBound (s : State) : Vf := (s.boundVf 0).getD (s.vfRecord 0 0)

theorem test_witness_VfCommands : Obligations.VirtualFunctions →
    (∃ t, exec (.featureNegotiation 0) (negotiating 0) = .next t) ∧ (∃ t, exec (.featureNegotiation 0) (negotiating 1) = .next t) ∧
    (∃ t, exec (.vfCreate 0 3) (creating 17) = .next t) ∧ (∃ t, exec (.vfCreate 0 3) (creating 1) = .next t) ∧
    (∃ t, exec (.vfFlr 0 3) (creating 17) = .next t) ∧ (∃ t, exec (.vfFlr 0 0) (creating 17) = .next t) ∧
    (∃ t, exec (.vfDestroy 0 0) (creating 17) = .next t) ∧
    exec (.vfFlr 0 0) ownerFlr = .next ((ownerFlr.setPart 0 { ownerFlr.part 0 with vfcmdVf := 0 }).holdCmd 0) :=
  fun h => ⟨((h.1.1 0 (negotiating 0) _ (some_of _ (vfBound (negotiating 0)) (by decide +kernel)) rfl).1 (by decide +kernel) (by decide)).elim
      fun _ x => ⟨_, x.1⟩,
    ((h.1.1 0 (negotiating 1) _ (some_of _ (vfBound (negotiating 1)) (by decide +kernel)) rfl).2 (by decide +kernel)).elim fun _ x => ⟨_, x.1⟩,
    ((h.1.2 0 3 (creating 17) rfl).1 (by decide +kernel) (by decide +kernel) (by decide +kernel) (by decide +kernel) (by decide +kernel)
      (by decide +kernel) (by decide +kernel)).elim fun _ x => ⟨_, x.1⟩,
    ((h.1.2 0 3 (creating 1) rfl).2.1 (by decide +kernel) (by decide +kernel) (.inl (by decide +kernel))).elim fun _ x => ⟨_, x.1⟩,
    ((h.1.2 0 3 (creating 17) rfl).2.2.1 (by decide +kernel)).elim fun _ x => ⟨_, x.1⟩,
    ((h.1.2 0 0 (creating 17) rfl).2.2.2.2 0 (vfAt (creating 17)) (by decide +kernel) (by decide +kernel) (by decide +kernel)).1.elim fun _ x => ⟨_, x.1⟩,
    ((h.1.2 0 0 (creating 17) rfl).2.2.2.2 0 (vfAt (creating 17)) (by decide +kernel) (by decide +kernel) (by decide +kernel)).2.elim
      fun _ x => ⟨_, x.1⟩,
    ((h.1.2 0 0 ownerFlr rfl).2.2.2.1 0 (vfAt ownerFlr) (by decide +kernel) (by decide +kernel)).1 _ (.inl rfl)⟩

def freezable : State := base
def frozenVf (freezing : Bool) (s : State) : State := onVf s fun v => { v with frozen := true, freezing := freezing }
def freezingVf : State := onVf { base with blocks := [], warps := [] } fun v => { v with freezing := true }
/-- Record 3 names the ASID and the page of the frozen VF. -/
def resuming : State := frozenVf false (creating 16)
/-- VF 0 is frozen and replays to VF 1. -/
def replaying : State :=
  let s := frozenVf true base
  { s with vfs := s.vfs ++ [(1, { vfAt s with frozen := false, freezing := false, replaying := true })] }
def parkedReq : InReq := { kind := 0, op := 0, pa := 4096, src := 0, data := [] }

theorem test_witness_Migration : Obligations.VirtualFunctions →
    (∃ t, exec (.migFreeze 0 0) freezable = .next t) ∧ (∃ t, exec (.migAbort 0 0) (frozenVf false base) = .next t) ∧
    (∃ t, exec (.migReplay 0 0) (frozenVf false base) = .next t) ∧ (∃ t, exec (.migAbort 0 0) (frozenVf true base) = .next t) ∧
    (∃ t, exec (.vfFrozen 0) freezingVf = .next t) ∧ (∃ t, exec (.gatePark 0 parkedReq) (frozenVf false (mapped base)) = .next t) ∧
    (∃ t, exec (.migResume 0 3) resuming = .next t) ∧ ∃ t, exec (.replayDone 0) replaying = .next t :=
  fun h => ⟨(((h.2 0 0 freezable rfl).1 0 (vfAt freezable) (by decide +kernel) (by decide +kernel)).1 rfl rfl).elim fun _ x => ⟨_, x.1⟩,
    (((h.2 0 0 (frozenVf false base) rfl).1 0 (vfAt (frozenVf false base)) (by decide +kernel) (by decide +kernel)).2.1 rfl rfl).elim fun _ x => ⟨_, x.1⟩,
    (((h.2 0 0 (frozenVf false base) rfl).1 0 (vfAt (frozenVf false base)) (by decide +kernel) (by decide +kernel)).2.2.1 rfl).elim fun _ x => ⟨_, x.1⟩,
    ⟨_, ((h.2 0 0 (frozenVf true base) rfl).1 0 (vfAt (frozenVf true base)) (by decide +kernel) (by decide +kernel)).2.2.2 rfl rfl⟩,
    ((h.2 0 0 freezingVf rfl).2.1 0 (vfAt freezingVf) (by decide +kernel) (by decide +kernel)).elim fun _ x => ⟨_, x.1⟩,
    ⟨_, (h.2 0 0 (frozenVf false (mapped base)) rfl).2.2.1 0 parkedReq 0 (by decide +kernel) (by decide +kernel) (by decide +kernel)⟩,
    ((h.2 0 3 resuming rfl).2.2.2.1 0 (vfAt resuming) (by decide +kernel) (by decide +kernel) (by decide +kernel) (by decide +kernel)
      (by decide +kernel) (by decide +kernel) (by decide +kernel)).elim fun _ x => ⟨_, x.1⟩,
    ((h.2 0 0 replaying rfl).2.2.2.2 0 (vfAt replaying) 1 { vfAt replaying with frozen := false, freezing := false, replaying := true }
      (by decide +kernel) (by decide +kernel) (by decide +kernel) (by decide)).elim fun _ x => ⟨_, x.1⟩⟩

/-- The partition is suspended. -/
def suspended : State := onPart { base with launches := [], blocks := [], warps := [], groups := [] } fun P => { P with run := false, state := 1 }
def leaving : State := onPart suspended fun P => { P with busy := true }
def mapping : State := onPart suspended fun P => { P with remap := (List.range 8).map fun i => (i, BitVec.ofNat 32 (256 + i)) }
def copyingMap : State := onPart suspended fun P => { P with prmapBusy := true }
def updating (a : DWord) : State := onPart (mapped base) fun P => { P with tupa := a, tuval := 4 }
def updated : State := onPart base fun P => { P with tuBusy := true }

theorem test_witness_PartitionEvents : Obligations.PartitionsAndRegions →
    (∃ t, exec (.partitionShape 0 2) suspended = .next t) ∧ (∃ t, exec (.partitionShape 0 2) base = .next t) ∧
    (∃ t, exec (.partitionRun 0) suspended = .next t) ∧ (∃ t, exec (.partitionSuspend 0) base = .next t) ∧
    (∃ t, exec (.partitionSuspended 0) leaving = .next t) ∧ (∃ t, exec (.remapCommit 0) mapping = .next t) ∧
    (∃ t, exec (.remapCommit 0) base = .next t) ∧ (∃ t, exec (.remapCopyDone 0) copyingMap = .next t) ∧
    (∃ t, exec (.tableUpdate 0) updated = .next t) ∧ (∃ t, exec (.tableUpdate 0) (updating 131072) = .next t) ∧
    (∃ t, exec (.tableUpdateDone 0) updated = .next t) ∧ (∃ t, exec (.tccfgWrite 0 2) base = .next t) ∧
    (∃ t, exec (.tccfgWrite 0 2) suspended = .next t) ∧ ∃ t, exec (.polbaseWrite 0 4096) base = .next t :=
  fun h => ⟨((h.1 0 suspended rfl).1 2 rfl rfl (by decide +kernel) |>.1 (by decide +kernel)).elim fun _ x => ⟨_, x.1⟩,
    ⟨_, (h.1 0 base rfl).1 2 rfl rfl (by decide +kernel) |>.2 (by decide +kernel)⟩,
    ⟨_, (h.1 0 suspended rfl).2.1 (by decide +kernel) rfl (.inl rfl)⟩,
    ((h.1 0 base rfl).2.2.1 (by decide +kernel) rfl (by decide)).elim fun _ x => ⟨_, x.1⟩,
    ⟨_, (h.1 0 leaving rfl).2.2.2.1 rfl rfl rfl⟩,
    ((h.1 0 mapping rfl).2.2.2.2.1.1 rfl (by decide +kernel) fun i j a b =>
      (by decide +kernel : ∀ i < 8 * mapping.partRegions 0, ∀ j < 8 * mapping.partRegions 0,
        (tget 0 (mapping.part 0).remap i).toNat % 256 = (tget 0 (mapping.part 0).remap j).toNat % 256 → i = j) i a j b).elim
      fun _ x => ⟨_, x.1⟩,
    ⟨_, (h.1 0 base rfl).2.2.2.2.1.2 (by decide)⟩, ⟨_, (h.1 0 copyingMap rfl).2.2.2.2.2.1 rfl⟩,
    ⟨_, (h.1 0 updated rfl).2.2.2.2.2.2.1 (by decide +kernel)⟩,
    ((h.1 0 (updating 131072) rfl).2.2.2.2.2.2.2.1 (by decide +kernel) (by decide +kernel)).elim fun _ x => ⟨_, x.1⟩,
    ((h.1 0 updated rfl).2.2.2.2.2.2.2.2.1 rfl).elim fun _ x => ⟨_, x.1⟩,
    ⟨_, ((h.1 0 base rfl).2.2.2.2.2.2.2.2.2.1 2 rfl).1 (.inl (by decide))⟩,
    (((h.1 0 suspended rfl).2.2.2.2.2.2.2.2.2.1 2 rfl).2 rfl (by decide)).elim fun _ x => ⟨_, x.1⟩,
    ((h.1 0 base rfl).2.2.2.2.2.2.2.2.2.2 4096).elim fun _ x => ⟨_, x.1⟩⟩

def resettingRegion : State := base.setRegion 0 { base.region 0 with resetting := true }
def windowed (valid : Bool) : State :=
  base.setRegion 0 { base.region 0 with wins := [(0, { Win.reset with valid := valid, closing := !valid })] }

theorem test_witness_RegionEvents : Obligations.PartitionsAndRegions →
    (∃ t, exec (.regionReset 0) base = .next t) ∧ (∃ t, exec (.regionReset 0) resettingRegion = .next t) ∧
    (∃ t, exec (.regionResetDone 0) resettingRegion = .next t) ∧ (∃ t, exec (.windowOpen 0 15 1) base = .next t) ∧
    (∃ t, exec (.windowClose 0 0) (windowed true) = .next t) ∧ (∃ t, exec (.windowCloseDone 0 0) (windowed false) = .next t) ∧
    ∃ t, exec (.portAssign 0 0x80) base = .next t :=
  fun h => ⟨((h.2.1 0 base).1 0 rfl (by decide +kernel)).elim fun _ x => ⟨_, x.1⟩, ⟨_, ((h.2.1 0 resettingRegion).2.1 rfl).1⟩,
    ((h.2.1 0 resettingRegion).2.1 rfl).2.elim fun _ x => ⟨_, x.1⟩, ⟨_, ((h.2.1 0 base).2.2 15 (by decide)).1 1 rfl⟩,
    ⟨_, ((h.2.1 0 (windowed true)).2.2 0 (by decide)).2.1 rfl⟩, ⟨_, ((h.2.1 0 (windowed false)).2.2 0 (by decide)).2.2 rfl⟩,
    ⟨_, h.2.2 0 0x80 base rfl (.inl (by decide))⟩⟩

/-! ## Hypotheses met: the package and the fabric -/

/-- The halted warp's image holds split 0. -/
def halted : State :=
  let s := onWarp base fun W => { W with halted := true }
  { s with mem := [(s.warpArea (ctxOf base).W + 12, 1)] }
theorem halted_reload : ((tfind (halted.reloadHalted 3).warps 3).map fun K => (K.halted, (K.split 0).isSome)) = some (true, true) := by
  decide +kernel
theorem halted_split : ∃ K, tfind (halted.reloadHalted 3).warps 3 = some K ∧ K.halted = true ∧ (K.split 0).isSome = true := by
  have h := halted_reload
  cases e : tfind (halted.reloadHalted 3).warps 3 <;> simp_all
def recovering (n : Word) : State := { base with pkg := { base.pkg with stage := 15, mreclen := n } }
def attesting : State := { base with pkg := { base.pkg with matBusy := true } }
def notRecovering : State := { base with pkg := { base.pkg with stage := 3 } }

theorem test_witness_DeviceEvents : Obligations.PackageEvents →
    (∃ t, exec (.debugHalt 0 0) base = .next t) ∧ (∃ t, exec (.debugResume 0 0) halted = .next t) ∧
    (∃ t, exec (.debugStep 0 0) halted = .next t) ∧ (∃ t, exec .packageReset base = .next t) ∧
    (∃ t, exec .recoveryLoad (recovering 1) = .next t) ∧ (∃ t, exec .recoveryLoad (recovering 4096) = .next t) ∧
    (∃ t, exec .recoveryLoad notRecovering = .next t) ∧ (∃ t, exec .attestation base = .next t) ∧
    (∃ t, exec .attestationDone attesting = .next t) ∧ (∃ t, exec (.registerWrite .mgmt 1 4 0) base = .next t) ∧
    (∃ t, exec (.registerWrite (.part 0) 0x01C 4 0xFF000001) base = .next t) ∧
    (∃ t, exec (.registerWrite (.region 23) 0x008 4 1) base = .next t) ∧ (∃ t, exec (.registerWrite .mgmt 0x018 4 1) base = .next t) ∧
    ∃ t, exec (.registerWrite (.part 0) 0x728 8 1) base = .next t :=
  fun h => ⟨((h.1.1 0 0 base 3 _ (by decide +kernel) rfl).1 rfl |>.1 rfl rfl).elim fun _ x => ⟨_, x.1⟩,
    ((h.1.1 0 0 halted 3 _ (by decide +kernel) rfl).1 rfl |>.2 rfl).elim fun _ x => ⟨_, x.1⟩,
    halted_split.elim fun _ x => ⟨_, (h.1.1 0 0 halted 3 _ (by decide +kernel) rfl).2 _ x.1 x.2.1 x.2.2⟩, (h.1.2.2.1 base).1.elim fun _ x => ⟨_, x.1⟩,
    ⟨_, ((h.1.2.2.1 (recovering 1)).2.1 rfl rfl).1 (.inl (by decide))⟩,
    (((h.1.2.2.1 (recovering 4096)).2.1 rfl rfl).2 (by decide) (by decide)).elim fun _ x => ⟨_, x.1⟩,
    ⟨_, (h.1.2.2.1 notRecovering).2.2.1 (by decide)⟩, ⟨_, (h.1.2.2.1 base).2.2.2.1⟩,
    ((h.1.2.2.1 attesting).2.2.2.2 rfl).elim fun _ x => ⟨_, x.1⟩, ⟨_, (h.1.2.2.2 .mgmt 1 4 0 base).1 (.inr (by decide))⟩,
    ((h.1.2.2.2 (.part 0) 0x01C 4 0xFF000001 base).2 (.inl rfl) rfl).elim fun _ x => ⟨_, x.1⟩,
    ((h.1.2.2.2 (.region 23) 0x008 4 1 base).2 (.inl rfl) rfl).elim fun _ x => ⟨_, x.1⟩,
    ((h.1.2.2.2 .mgmt 0x018 4 1 base).2 (.inl rfl) rfl).elim fun _ x => ⟨_, x.1⟩,
    ((h.1.2.2.2 (.part 0) 0x728 8 1 base).2 (.inr rfl) rfl).elim fun _ x => ⟨_, x.1⟩⟩

/-- The partition is at a stage of shedding. -/
def shedding (n : Nat) : State :=
  { onPart base fun P => { P with shed := n } with pkg := { base.pkg with shedLog := [0] } }
def capped : State := { base with pkg := { base.pkg with overCap := true } }
/-- The partition can be shed no further. -/
def shedAll : State := onPart base fun P => { P with shed := P.lastStage }
def hotDie : State := { base with pkg := { base.pkg with dieHot := [2] } }

theorem test_witness_PowerAndErrors : Obligations.PackageEvents →
    (∃ t, exec (.powerCapExceeded 1) base = .next t) ∧ (∃ t, exec (.powerCapExceeded 60000) base = .next t) ∧
    (∃ t, exec (.powerCapExceeded 60000) shedAll = .next t) ∧ (∃ t, exec (.powerCapRelieved 1) capped = .next t) ∧
    (∃ t, exec (.powerCapRelieved 1) (shedding 2) = .next t) ∧ (∃ t, exec (.thermalHot 3 105) base = .next t) ∧
    (∃ t, exec (.thermalCool 2 94) hotDie = .next t) ∧ (∃ t, exec (.thermalTrip 0 115) base = .next t) ∧
    (∃ t, exec (.machineFault 0) base = .next t) ∧ (∃ t, exec (.idlePowerEntry 0) base = .next t) ∧
    (∃ t, exec (.powerWake 0) base = .next t) ∧ (∃ t, exec (.machineFault 5) base = .next t) ∧
    ∃ t, exec (.patrolScrub 5 1 2) base = .next t :=
  fun h => ⟨⟨_, (h.2.1 1 base).1 (by decide)⟩,
    (((h.2.1 60000 base).2.1 (by decide)).1 0 (by decide +kernel) (by decide +kernel) rfl).elim fun _ x => ⟨_, x.1⟩,
    (((h.2.1 60000 shedAll).2.1 (by decide)).2 (by decide +kernel)).elim fun _ x => ⟨_, x.1⟩,
    (((h.2.1 1 capped).2.2 (by decide)).1 rfl).elim fun _ x => ⟨_, x.1⟩,
    (((h.2.1 1 (shedding 2)).2.2 (by decide)).2 0 [] rfl rfl (by decide +kernel)).elim fun _ x => ⟨_, x.1⟩,
    ((h.2.2.1 3 105 base).1 (by decide) (by decide)).elim fun _ x => ⟨_, x.1⟩,
    ((h.2.2.1 2 94 hotDie).2.1 (by decide) (by decide)).elim fun _ x => ⟨_, x.1⟩,
    ((h.2.2.1 0 115 base).2.2 (by decide) (by decide)).elim fun _ x => ⟨_, x.1⟩,
    ((h.2.2.2 0 base).1 0 (by decide +kernel)).1.elim fun _ x => ⟨_, x.1⟩, ⟨_, ((h.2.2.2 0 base).1 0 (by decide +kernel)).2.1⟩,
    ⟨_, ((h.2.2.2 0 base).1 0 (by decide +kernel)).2.2⟩, ⟨_, (h.2.2.2 5 base).2.1 (by decide +kernel)⟩,
    ⟨_, (h.2.2.2 5 base).2.2 1 2⟩⟩

/-- Port 0 is the partition's, its link is up, and window 0 lets device 5's partition 1 read and write the first MiB. -/
def openPort (w : Bool) : State :=
  base.setPort 0 { base.port 0 with
    up := true, valid := true, mode := true, owner := 0
    iwin := [(0, { dev := 5, spart := 1, base := 0, len := 16, w := w, valid := true, closing := false })] }
def flit (kind op : BitVec 8) (pa : DWord) (data : List Byte) : Flit :=
  { kind := kind, len := 1, srcDev := 5, princ := 0, atag := 0, spart := 1, op := op, seq := 7, pa := pa, fcount := 0, status := 0, data := data }
def up : State := openPort true
def far : DWord := 0x1000000

def wanted : OutReq := { port := 0, part := 0, dev := 5, flit := flit 1 0 4096 [], kind := 0, ref := 9, sub := 0, hold := [] }
/-- A load of one lane waits for the response to a read. -/
def awaiting : State :=
  let s := accessing .filling load4 false []
  { s with outReqs := [(3, wanted)], ports := up.ports }
def dataFlit : Flit := flit 5 0 4096 (List.replicate 16 3)
def path : FabPath := { path0 with part := 1 }
def ackFlit : Flit := { flit 7 0 0 [] with fcount := 4 }
def acking : State := { up with paths := [path] }

/-- The page of its requests is of a VF that migrates. -/
def frozenHome : State := { up with mem := (mapped base).mem, vfs := tmod (mapped base).vfs 0 fun v => { v with frozen := true } }
/-- The page's tag is 1, whose policy lets nobody read or write. -/
def tagged : State := { up with mem := (mapped base).mem ++ [(131078, 1)], vfs := (mapped base).vfs }

theorem test_witness_FabricEvents : Obligations.FabricEvents →
    (∃ t, exec (.undefinedFlit 0 (flit 9 0 0 [])) base = .next t) ∧ (∃ t, exec (.portLinkUp 0 5) base = .next t) ∧
    (∃ t, exec (.portLinkDown 0) up = .next t) ∧ (∃ t, exec (.readFlit 0 (flit 1 0 far [])) up = .next t) ∧
    (∃ t, exec (.readFlit 0 (flit 1 0 4096 [])) up = .next t) ∧ (∃ t, exec (.readFlit 0 (flit 1 0 4096 [])) tagged = .next t) ∧
    (∃ t, exec (.writeFlit 0 (flit 2 0 4096 [1])) (openPort false) = .next t) ∧
    (∃ t, exec (.writeFlit 0 (flit 2 0 4096 [1])) up = .next t) ∧ (∃ t, exec (.writeFlit 0 (flit 2 0 4096 [1])) tagged = .next t) ∧
    (∃ t, exec (.writeFlit 0 (flit 2 0 4096 [1])) frozenHome = .next t) ∧
    (∃ t, exec (.atomicFlit 0 (flit 3 7 4096 [1, 0, 0, 0])) up = .next t) ∧
    (∃ t, exec (.atomicFlit 0 (flit 3 8 4096 [1, 0, 0, 0])) up = .next t) ∧
    (∃ t, exec (.atomicFlit 0 (flit 3 8 4096 [1, 0, 0, 0])) frozenHome = .next t) ∧
    (∃ t, exec (.reduceFlit 0 (flit 4 12 4096 (List.replicate 16 1))) up = .next t) ∧
    ∃ t, exec (.reduceFlit 0 (flit 4 11 4096 (List.replicate 16 1))) up = .next t :=
  fun h => ⟨⟨_, (h 0 (flit 9 0 0 []) base).1⟩, ⟨_, (h 0 (flit 9 0 0 []) base).2.1 5 (by decide) rfl⟩,
    ((h 0 (flit 9 0 0 []) up).2.2.1 (by decide) rfl).elim fun _ x => ⟨_, x.1⟩,
    ⟨_, (((h 0 (flit 1 0 far []) up).2.2.2.1 rfl (by decide)).1 rfl).1 0x52 (by decide +kernel)⟩,
    ⟨_, ((((h 0 (flit 1 0 4096 []) up).2.2.2.1 rfl (by decide)).1 rfl).2 0 0 (by decide +kernel) (by decide +kernel)
      (by decide +kernel) (by decide) (by decide)).1 (by decide +kernel)⟩,
    ⟨_, ((((h 0 (flit 1 0 4096 []) tagged).2.2.2.1 rfl (by decide)).1 rfl).2 0 0 (by decide +kernel) (by decide +kernel)
      (by decide +kernel) (by decide) (by decide)).2 (by decide +kernel)⟩,
    ⟨_, (((h 0 (flit 2 0 4096 [1]) (openPort false)).2.2.2.1 rfl (by decide)).2.1 rfl).1 0x53 (by decide +kernel)⟩,
    ⟨_, ((((h 0 (flit 2 0 4096 [1]) up).2.2.2.1 rfl (by decide)).2.1 rfl).2 0 0 (by decide +kernel) (by decide +kernel)
      (by decide +kernel) (by decide) (by decide)).1 (by decide +kernel) (by decide +kernel)⟩,
    ⟨_, ((((h 0 (flit 2 0 4096 [1]) tagged).2.2.2.1 rfl (by decide)).2.1 rfl).2 0 0 (by decide +kernel) (by decide +kernel)
      (by decide +kernel) (by decide) (by decide)).2.1 (by decide +kernel)⟩,
    ⟨_, ((((h 0 (flit 2 0 4096 [1]) frozenHome).2.2.2.1 rfl (by decide)).2.1 rfl).2 0 0 (by decide +kernel) (by decide +kernel)
      (by decide +kernel) (by decide) (by decide)).2.2 0 (by decide +kernel) (by decide +kernel)⟩,
    ⟨_, (((h 0 (flit 3 7 4096 [1, 0, 0, 0]) up).2.2.2.1 rfl (by decide)).2.2.1 rfl 0 0 (by decide +kernel) (by decide +kernel)
      (by decide +kernel)).1 (.inl rfl)⟩,
    ⟨_, ((((h 0 (flit 3 8 4096 [1, 0, 0, 0]) up).2.2.2.1 rfl (by decide)).2.2.1 rfl 0 0 (by decide +kernel) (by decide +kernel)
      (by decide +kernel)).2 (by decide) (by decide) (by decide)).1 (by decide +kernel) (by decide +kernel) (by decide +kernel)⟩,
    ⟨_, ((((h 0 (flit 3 8 4096 [1, 0, 0, 0]) frozenHome).2.2.2.1 rfl (by decide)).2.2.1 rfl 0 0 (by decide +kernel) (by decide +kernel)
      (by decide +kernel)).2 (by decide) (by decide) (by decide)).2 0 (by decide +kernel) (by decide +kernel) (by decide +kernel)⟩,
    ⟨_, (((h 0 (flit 4 12 4096 (List.replicate 16 1)) up).2.2.2.1 rfl (by decide)).2.2.2.1 rfl 0 0 (by decide +kernel) (by decide +kernel)
      (by decide +kernel)).1 (by decide)⟩,
    ⟨_, (((h 0 (flit 4 11 4096 (List.replicate 16 1)) up).2.2.2.1 rfl (by decide)).2.2.2.1 rfl 0 0 (by decide +kernel) (by decide +kernel)
      (by decide +kernel)).2 (by decide) (by decide) (by decide) (by decide) (by decide) (by decide +kernel) (by decide +kernel)⟩⟩

theorem test_witness_Responses : Obligations.FabricEvents →
    (∃ t, exec (.responseFlit 0 (flit 5 0 4096 [])) up = .next t) ∧
    (∃ t, exec (.responseFlit 0 (flit 5 0 4096 (List.replicate 16 3))) awaiting = .next t) ∧
    (∃ t, exec (.fenceFlit 0 (flit 6 0 0 [])) up = .next t) ∧
    ∃ t, exec (.fenceackFlit 0 ackFlit) acking = .next t :=
  fun h => ⟨⟨_, (((h 0 (flit 5 0 4096 []) up).2.2.2.1 rfl (by decide)).2.2.2.2.1 rfl).1 rfl⟩,
    ((((h 0 dataFlit awaiting).2.2.2.1 (by decide +kernel) (by decide)).2.2.2.2.1 rfl).2 3 wanted (acc9 awaiting) (by decide +kernel)
      rfl rfl rfl (some_of _ _ (by decide +kernel)) (by decide +kernel)).elim fun _ x => x.elim fun _ x => ⟨_, x.1⟩,
    ⟨_, ((h 0 (flit 6 0 0 []) up).2.2.2.1 rfl (by decide)).2.2.2.2.2.1 rfl⟩,
    ⟨_, ((h 0 ackFlit acking).2.2.2.1 (by decide +kernel) (by decide)).2.2.2.2.2.2 (by decide +kernel) path
      (by decide +kernel) (by decide +kernel) (by decide +kernel)⟩⟩

/-! ## Hypotheses met: the machine -/

/-- The step after reset on a placed word. -/
def firstStep (w : Nat) : Host.Outcome State Fault Refusal := step (State.reset.withFetchWord 32 w)
def nextOf (z : Host.Outcome State Fault Refusal) : Option State :=
  match z with
  | .next t => some t
  | _ => none
theorem next_of {z : Host.Outcome State Fault Refusal} (h : (nextOf z).isSome = true) : ∃ t, z = .next t := by
  unfold nextOf at h
  split at h
  · exact ⟨_, rfl⟩
  · simp at h

/-- The placed NOP. -/
def atNop : State := State.reset.withFetchWord 32 0xABE3FFFF
def issuing : State := { atNop with agenda := [], cur := some (3, 0) }
def detecting : State := { base with agenda := [.event (.rejoinDeadlockDetect 3)] }

theorem test_witness_StepRunsDecoded : Obligations.StepRunsDecoded →
    (∀ t, exec (.nop { g := 7 }) issuing = .next t → step atNop =
      .next (followHalted { atNop with agenda := [] } (followSpill { atNop with agenda := [] } t)).overflowed) ∧
    (∀ t, exec (.rejoinDeadlockDetect 3) base = .next t → step detecting = .next (followHalted base (followSpill base t)).overflowed) ∧
    (followHalted base (followSpill base base)).overflowed = base ∧ nextAct issuing = some (.issue 3 0, []) ∧
    (∃ t, exec (.nop { g := 7 }) issuing = .next t) ∧ ∃ t, exec (.rejoinDeadlockDetect 3) base = .next t :=
  fun h => ⟨h.1 atNop 3 0 [] (ctxOf issuing) 0xABE3FFFF _ rfl (issuer_of issuing (by decide +kernel)) (by decide +kernel)
      (by decide +kernel) (.inl ⟨rfl, by decide +kernel, rfl⟩),
    h.2.1 detecting (.rejoinDeadlockDetect 3) [] rfl rfl,
    h.2.2.1 base base (by decide +kernel) (by decide +kernel) (by decide +kernel),
    h.2.2.2 issuing 3 0 rfl (by decide +kernel), next_of (by decide +kernel), next_of (by decide +kernel)⟩

theorem test_witness_DecodeOfEncode : Obligations.DecodeOfEncode →
    decode 0x1BF43040 0xC0000000 = .ok (.fmar { g := 7, wA := true, d := 3, a := 1, b := .lit 0xC0000000 }) :=
  fun h => (h (.fmar { g := 7, wA := true, d := 3, a := 1, b := .lit 0xC0000000 }) { word := 0x1BF43040, lit := some 0xC0000000 }
    rfl (by decide)).1

theorem test_witness_EncodeOfDecode : Obligations.EncodeOfDecode → wellFormed (.nop { g := 7 }) = true :=
  fun h => (h 0xABE3FFFF 0 _ rfl).1

theorem test_witness_StepKeepsCanonical : Obligations.StepKeepsCanonical → ∃ t, step atNop = .next t ∧ Canonical t :=
  fun h => (next_of (by decide +kernel : (nextOf (step atNop)).isSome = true)).elim fun t x => ⟨t, x, h _ t (by unfold Canonical; decide +kernel) x⟩

theorem test_witness_MemoryOperations : Obligations.MemoryOperations →
    Memory.writeN [] 3 [1, 0, 2] = Memory.writeN (Memory.writeN [(4, 9)] 3 [1]) 4 [0, 2] :=
  fun h => h.2.2.2 _ _ (by decide) (by decide) fun a => by simp only [h.1]; rcases a with _ | _ | _ | _ | _ | _ | _ <;> rfl

/-! ## A step runs the placed word first -/

/-- R159: NOP only advances the PC. -/
theorem test_step_nop : ((nextOf (firstStep 0xABE3FFFF)).map fun t => (tfind t.warps 3).map fun W => (W.split 0).map (·.pc)) =
    some (some (some 4)) := by decide +kernel
/-- R64: `SMOVK s6, 2` writes 2 into s6 (word of R64's table in spec/10). -/
theorem test_step_smovk : ((nextOf (firstStep 0xE4600002)).map fun t => (tfind t.warps 3).map fun W => tget 0 W.sc.s 6) =
    some (some 2) := by decide +kernel

/-! ## Ill-formed terms (R47, R55, R69, R163, R168, R179) -/

theorem test_wf_pair : check (.ldd { g := 7, w := true, d := 62, a := 2, o := 0 }) = some (.badPair 62) := by decide
theorem test_wf_odd_pair : check (.ldw { g := 7, w := true, d := 4, a := 3, o := 0 }) = some (.badPair 3) := by decide
theorem test_wf_quad : check (.ldq { g := 7, w := true, d := 6, a := 2, o := 0 }) = some (.badQuad 6) := by decide
theorem test_wf_scope : check (.fenceAr { s := 6 }) = some (.badScope 6) := by decide
theorem test_wf_cas_scope : check (.atcas { g := 7, w := true, d := 4, a := 2, s := 5 }) = some (.badScope 5) := by decide
theorem test_wf_cvt : check (.cvt { g := 7, wA := true, d := 1, a := 0, k := 9 }) = some (.badSelector 9) := by decide
theorem test_wf_vote : check (.vote { g := 7, m := 3, p := 1, t := 3 }) = some (.badSelector 3) := by decide
theorem test_wf_csrv : check (.csrv { g := 7, d := 0, b := 4 }) = some (.badSelector 4) := by decide
theorem test_wf_csr : check (.csrr { g := 7, d := 0, i := 0x00B }) = some (.badCsr 0x00B) := by decide
theorem test_wf_cause : check (.trap { g := 7, wA := true, a := 1, b := 0x0C }) = some (.badCause 0x0C) := by decide
theorem test_wf_range : check (.shrmap (.map 7 true 60 3 3)) = some (.badRange 60 3) := by decide
theorem test_wf_range_end : wellFormed (.shrmap (.map 7 true 60 3 2)) = true := by decide

/-! ## Words that the spec writes out (R59-R67, R77 and its examples); FFMA is laid out by R60. -/

theorem test_decode_vr : decode 0x1AF82081 0 = .ok (.fmul { g := 7, wA := true, d := 2, a := 2, b := .reg true 1 }) ∧
    decode 0x26F01007 0 = .ok (.cvt { g := 7, wA := true, d := 1, a := 0, k := 7 }) ∧
    decode 0x15F8A080 0 = .ok (.leaw { g := 7, wA := true, d := 10, a := 2, b := .reg true 0 }) ∧
    decode 0x1BF44040 0x3F800000 = .ok (.fmar { g := 7, wA := true, d := 4, a := 1, b := .lit 0x3F800000 }) := ⟨rfl, rfl, rfl, rfl⟩
theorem test_decode_compare : decode 0x17F920C5 0 = .ok (.icmp { g := 7, wA := true, c := 2, p := 2, a := 3, b := .reg true 5 }) ∧
    decode 0x8EF8117F 0 = .ok (.scmp { g := 7, wA := true, c := 0, p := 1, a := 5, b := .reg true 63 }) := ⟨rfl, rfl⟩
theorem test_decode_vf : decode 0b00101100000011000101000001000010 0 = .ok (.ffma { c := 3, d := 5, a := 1, b := 2 }) := rfl
theorem test_decode_vc : decode 0x32F10104 0 = .ok (.fmarcb { g := 7, wA := true, d := 4, a := 1, k := 4 }) ∧
    decode 0x33E13F05 0 = .ok (.movcb { g := 7, d := 4, k := 5 }) := ⟨rfl, rfl⟩
theorem test_decode_vm : decode 0x3FFFCA00 0 = .ok (.stw { g := 7, w := true, d := 63, a := 10, o := 0 }) ∧
    decode 0x46F14A20 0 = .ok (.atadd { g := 7, w := true, d := 5, a := 10, s := 1 }) := ⟨rfl, rfl⟩
theorem test_decode_lanes : decode 0x5BF010BF 0 = .ok (.bcast { g := 7, wA := true, d := 1, a := 2 }) ∧
    decode 0x5CE09042 0 = .ok (.plop { g := 7, f := 1, p := 1, t := 1, u := 2 }) := ⟨rfl, rfl⟩
theorem test_decode_vb : decode 0x5D4C0010 0x20 = .ok (.brd { p := 2, n := false, x := true, t := 16, j := 0x20 }) := rfl
theorem test_decode_vk : decode 0x6473FC00 0 = .ok (.fmulk { d := 7, i := 0x3FC00 }) ∧
    decode 0x74000007 0 = .ok (.andk { d := 0, i := 7 }) := ⟨rfl, rfl⟩
theorem test_decode_ur : decode 0x80F8207F 0 = .ok (.sadd { g := 7, wA := true, d := 2, a := 1, b := .reg true 63 }) ∧
    decode 0xA1F3F1BF 0 = .ok (.jmp { g := 7, wA := true, a := 6 }) ∧
    decode 0xAFE7FFC0 0x11 = .ok (.setfmt { g := 7, d := 63, b := .lit 0x11 }) ∧
    decode 0xB5F7F180 1 = .ok (.tbinit { g := 7, wA := true, a := 6, b := .lit 1 }) := ⟨rfl, rfl, rfl, rfl⟩
theorem test_decode_um : decode 0x94F30A01 0 = .ok (.sldw { g := 7, w := true, d := 12, a := 10, o := 1 }) ∧
    decode 0x97F0C600 0 = .ok (.sstw { g := 7, w := true, d := 3, a := 6, o := 0 }) ∧
    decode 0x99F0BF00 0 = .ok (.sldcb { g := 7, w := true, d := 2, a := 63, o := 0 }) := ⟨rfl, rfl, rfl⟩
theorem test_decode_control : decode 0xAAE3FFFF 0 = .ok (.exit { g := 7 }) ∧ decode 0xAA23FFFF 0 = .ok (.exit { g := 1 }) ∧
    decode 0xB0E3FFFF 0 = .ok (.bar { g := 7 }) ∧ decode 0xBCE3F5BF 0 = .ok (.fwait { g := 7, d := 63, a := 22 }) :=
  ⟨rfl, rfl, rfl, rfl⟩
theorem test_decode_uc : decode 0xADE04000 0 = .ok (.csrr { g := 7, d := 4, i := 0 }) ∧
    decode 0xAEE01011 0 = .ok (.csrw { g := 7, d := 1, i := 0x011 }) := ⟨rfl, rfl⟩
theorem test_decode_ue : decode 0xC828_20C4 0 = .ok (.mma { d := 10, a := 2, b := 3, c := 4 }) ∧
    decode 0xCD50213F 0 = .ok (.osld { d := 20, a := 2, b := 4, c := 63 }) := ⟨rfl, rfl⟩
theorem test_decode_uk : decode 0xE4600068 0 = .ok (.smovk { d := 6, i := 0x68 }) ∧
    decode 0xF8200005 0 = .ok (.sshlk { d := 2, i := 5 }) := ⟨rfl, rfl⟩
/-- R69: an opcode that no instruction has, and a must-be-zero field. -/
theorem test_decode_refuses : (∃ e, decode 0xBF000000 0 = .error e) ∧ ∃ e, decode 0x46F14A21 0 = .error e := ⟨⟨_, rfl⟩, ⟨_, rfl⟩⟩
/-- An event has no word. -/
theorem test_event_no_word : encode (.launchReady 1) = none := rfl

/-! ## Single instructions -/

/-- Lane 0 of v1, v2 and v3 (R48). -/
def vec (a b c : Word) : State := onWarp base fun W => { W with v := [(1, a :: List.replicate 31 0), (2, b :: List.replicate 31 0), (3, c :: List.replicate 31 0)] }
/-- Lane 0 of v3 after an instruction. -/
def lane3 (z : Host.Outcome State Fault Refusal) : Option Word :=
  (nextOf z).bind fun t => (tfind t.warps 3).map fun W => (tget [] W.v 3).getD 0 0
def on3 (b : SrcB) : R3 := { g := 7, wA := true, d := 3, a := 1, b := b }

/-- R126: addition wraps. -/
theorem test_iadd_wraps : lane3 (exec (.iadd (on3 (.reg true 2))) (vec 0xFFFFFFFF 2 0)) = some 1 := by decide +kernel
/-- R126: ISUB is A - B. -/
theorem test_isub_order : lane3 (exec (.isub (on3 (.reg true 2))) (vec 1 2 0)) = some 0xFFFFFFFF := by decide +kernel
/-- R126: the signed product of -2^31 and 2 has -1 above. -/
theorem test_imulh_signed : lane3 (exec (.imulh (on3 (.reg true 2))) (vec 0x80000000 2 0)) = some 0xFFFFFFFF := by decide +kernel
/-- R126: a shift by 32 gives 0, and by a count above 31 SAR gives the sign. -/
theorem test_shl_32 : lane3 (exec (.shl (on3 (.lit 32))) (vec 1 0 0)) = some 0 := by decide +kernel
theorem test_sar_far : lane3 (exec (.sar (on3 (.lit 0x100))) (vec 0x80000000 0 0)) = some 0xFFFFFFFF := by decide +kernel
/-- R126: rotation by 33 is by 1. -/
theorem test_rol_33 : lane3 (exec (.rol (on3 (.lit 33))) (vec 0x80000001 0 0)) = some 3 := by decide +kernel
/-- R129: FMAR is D × A + B: 2 × 3 + 1 = 7. -/
theorem test_fmar_order : lane3 (exec (.fmar (on3 (.reg true 2))) (vec 0x40400000 0x3F800000 0x40000000)) = some 0x40E00000 := by
  decide +kernel
/-- R129, R103: 1 + 2^-24 is a tie and goes to even. -/
theorem test_fadd_tie : lane3 (exec (.fadd (on3 (.reg true 2))) (vec 0x3F800000 0x33800000 0)) = some 0x3F800000 := by decide +kernel
/-- R130: +0 is above -0. -/
theorem test_fmax_zero : lane3 (exec (.fmax (on3 (.reg true 2))) (vec 0x80000000 0 0)) = some 0 := by decide +kernel

/-- The scalar registers s1 and s2, and the one after an instruction. -/
def scal (a b : Word) : State := onWarp base fun W => { W with sc := { W.sc with s := [(1, a), (2, b)] } }
def scal3 (z : Host.Outcome State Fault Refusal) : Option Word :=
  (nextOf z).bind fun t => (tfind t.warps 3).map fun W => tget 0 W.sc.s 3
/-- R145: the scalar AND with a literal. -/
theorem test_sand : scal3 (exec (.sand (on3 (.lit 0xF0))) (scal 0x3C 0)) = some 0x30 := by decide +kernel
theorem test_sminu : scal3 (exec (.sminu (on3 (.reg true 2))) (scal 0xFFFFFFFF 5)) = some 5 := by decide +kernel
/-- R46: sz discards what is written, and the PC goes on. -/
theorem test_sz : ((nextOf (exec (.sadd { g := 7, wA := true, d := 63, a := 1, b := .reg true 2 }) (scal 1 2))).map fun t =>
    (tfind t.warps 3).map fun W => (tget 0 W.sc.s 63, (W.split 0).map (·.pc))) = some (some (0, some 4)) := by decide +kernel

end Sys2Proof.Tests
end

section
/-! SUPPORT. What winding down work can change (R361, R419, R428): launches only end, blocks only leave, and regions and
partitions keep what does not depend on the work. -/

namespace Sys2Proof.Machine

/-! ## Tables and folds -/

/-- What a change of every entry leaves alone is as before, for a default too. -/
theorem tget_tmap_eq {α β : Type} (g : α → β) (d : α) (t : Tab α) (f : Nat → α → α) (h : ∀ k x, g (f k x) = g x) (k : Nat) :
    g (tget d (tmap t f) k) = g (tget d t k) := by
  unfold tget
  rw [tfind_tmap]
  cases tfind t k with
  | none => rfl
  | some x => exact h k x

/-- What a change of one entry leaves alone is as before. -/
theorem tget_tset_eq {α β : Type} (g : α → β) (d : α) (t : Tab α) (k : Nat) (v : α) (h : g v = g (tget d t k)) (i : Nat) :
    g (tget d (tset t k v) i) = g (tget d t i) := by
  rw [tget_tset]
  split
  · next hi => rw [hi, h]
  · rfl

/-- An entry found is listed. -/
theorem mem_of_tfind {α : Type} {t : Tab α} {k : Nat} {v : α} (h : tfind t k = some v) : (k, v) ∈ t := by
  induction t with
  | nil => cases h
  | cons e t ih =>
    obtain ⟨j, u⟩ := e
    unfold tfind at h
    split at h
    · next hj => cases h; rw [hj]; exact List.mem_cons_self
    · exact List.mem_cons_of_mem _ (ih h)

/-! ## What goes before a launch ends -/

/-- Of a region, what the end of work does not touch. -/
def Region.standing (R : Region) : Bool × Bool × Bool := (R.gate, R.resetting, R.hot)

/-- From s to t work was taken away: launches are as they were, no block is new, and regions and partitions stand. -/
structure Strips (s t : State) : Prop where
  launches : t.launches = s.launches
  blocks : ∀ b B, tfind t.blocks b = some B → ∃ A, tfind s.blocks b = some A ∧ A.launch = B.launch
  regions : ∀ r, (t.region r).standing = (s.region r).standing
  parts : ∀ p, (t.part p).shape = (s.part p).shape

theorem Strips.trans {s t u : State} (h : Strips s t) (k : Strips t u) : Strips s u where
  launches := k.launches.trans h.launches
  blocks b B hB := by
    obtain ⟨A, hA, e⟩ := k.blocks b B hB
    obtain ⟨Z, hZ, e'⟩ := h.blocks b A hA
    exact ⟨Z, hZ, e'.trans e⟩
  regions r := (k.regions r).trans (h.regions r)
  parts p := (k.parts p).trans (h.parts p)

/-- A change of other fields than these four. -/
theorem Strips.of_fields {s t : State} (hl : t.launches = s.launches) (hb : t.blocks = s.blocks)
    (hr : t.regions = s.regions) (hp : t.parts = s.parts) : Strips s t where
  launches := hl
  blocks b B hB := ⟨B, hb ▸ hB, rfl⟩
  regions r := by simp only [State.region, hr]
  parts p := by simp only [State.part, hp]

theorem Strips.refl (s : State) : Strips s s := .of_fields rfl rfl rfl rfl

/-- A loop of steps that strip strips. -/
theorem Strips.foldl {α : Type} {f : State → α → State} (h : ∀ s x, Strips s (f s x)) (xs : List α) (s : State) :
    Strips s (xs.foldl f s) := by
  induction xs generalizing s with
  | nil => exact .refl s
  | cons x xs ih => exact (h s x).trans (ih _)

/-- A block that is gone stays away. -/
theorem Strips.gone {s t : State} (h : Strips s t) {b : Nat} (hb : tfind s.blocks b = none) : tfind t.blocks b = none := by
  cases ht : tfind t.blocks b with
  | none => rfl
  | some B =>
    obtain ⟨A, hA, -⟩ := h.blocks b B ht
    rw [hb] at hA; cases hA

/-- A change of one block that keeps its launch. -/
theorem Strips.of_block (s : State) (b : Nat) (f : Block → Block) (hf : ∀ B, (f B).launch = B.launch) :
    Strips s { s with blocks := tmod s.blocks b f } where
  launches := rfl
  blocks k B hB := by
    simp only [tfind_tmod] at hB
    split at hB
    · cases hs : tfind s.blocks k with
      | none => rw [hs] at hB; cases hB
      | some A => rw [hs] at hB; cases hB; exact ⟨A, rfl, (hf A).symm⟩
    · exact ⟨B, hB, rfl⟩
  regions _ := rfl
  parts _ := rfl

/-- A change of regions that leaves them standing. -/
theorem Strips.of_regions {s t : State} (hr : ∀ r, (t.region r).standing = (s.region r).standing)
    (hl : t.launches = s.launches) (hb : t.blocks = s.blocks) (hp : t.parts = s.parts) : Strips s t where
  launches := hl
  blocks b B hB := ⟨B, hb ▸ hB, rfl⟩
  regions := hr
  parts p := by simp only [State.part, hp]

/-- Every region changed in what may change. -/
theorem standing_tmap (t : Tab Region) (f : Nat → Region → Region) (hf : ∀ r R, (f r R).standing = R.standing) (r : Nat) :
    (tget Region.reset (tmap t f) r).standing = (tget Region.reset t r).standing := tget_tmap_eq _ _ _ _ hf r

theorem Strips.setRegion (s : State) (r : Nat) (R : Region) (h : R.standing = (s.region r).standing) :
    Strips s (s.setRegion r R) where
  launches := rfl
  blocks _ B hB := ⟨B, hB, rfl⟩
  regions i := tget_tset_eq _ _ _ _ _ h i
  parts _ := rfl

theorem Strips.setPart (s : State) (p : Nat) (P : Part) (h : P.shape = (s.part p).shape) : Strips s (s.setPart p P) where
  launches := rfl
  blocks _ B hB := ⟨B, hB, rfl⟩
  regions _ := rfl
  parts i := tget_tset_eq Part.shape _ _ _ _ h i

/-! ## Stores that are made visible -/

theorem strips_csmWrite (s : State) (k a : Nat) (bs : List Byte) : Strips s (s.csmWrite k a bs) := .of_fields rfl rfl rfl rfl

theorem strips_csmMark (s : State) (k a n : Nat) (e : Bool) : Strips s (s.csmMark k a n e) := .of_fields rfl rfl rfl rfl

theorem Region.rspPut_standing (R : Region) (a : Nat) (b : Byte) : (R.rspPut a b).standing = R.standing := rfl

theorem strips_rspWrite (s : State) (r a : Nat) (bs : List Byte) : Strips s (s.rspWrite r a bs) := by
  refine Strips.setRegion s r _ ?_
  generalize List.range bs.length = is
  generalize s.region r = R
  induction is generalizing R with
  | nil => rfl
  | cons i is ih => exact (ih _).trans (Region.rspPut_standing R _ _)

theorem strips_storeLane (size : Nat) (stlf : Bool) (s : State) (x : LaneAcc) : Strips s (s.storeLane size stlf x) := by
  unfold State.storeLane
  cases x.tgt with
  | csm k b =>
    cases stlf with
    | false => exact strips_csmWrite s k b _
    | true => exact (strips_csmWrite s k b _).trans (strips_csmMark _ k (b / 16) 1 false)
  | rsp r b => exact strips_rspWrite s r b _
  | phys pa => exact .of_fields rfl rfl rfl rfl
  | ctrl o => exact .refl s
  | glob => exact .refl s

theorem Block.traceAdd_launch (B : Block) (cap kind tensor i n : Nat) : (B.traceAdd cap kind tensor i n).launch = B.launch := by
  unfold Block.traceAdd; split
  · rfl
  · split <;> rfl

theorem Block.traceOne_launch (B : Block) (cap kind tensor i : Nat) : (B.traceOne cap kind tensor i).launch = B.launch := by
  unfold Block.traceOne
  split
  · exact B.traceAdd_launch ..
  · split
    · rfl
    · split
      · rfl
      · split
        · rfl
        · exact B.traceAdd_launch ..

theorem strips_trace (s : State) (b kind tensor i : Nat) : Strips s (s.trace b kind tensor i) := by
  unfold State.trace
  split
  · exact .refl s
  · next cap _ => exact .of_block s b _ fun B => B.traceOne_launch cap kind tensor i

theorem strips_traceFlat (s : State) (b kind va : Nat) : Strips s (s.traceFlat b kind va) := by
  refine (strips_trace s b kind 0 (bits va 56 12)).trans ?_
  unfold State.traceFlat State.traceFlag
  generalize s.trace b kind 0 (bits va 56 12) = t
  dsimp only
  split
  · split
    · exact .refl t
    · exact .of_block t b _ fun _ => rfl
  · exact .refl t

theorem strips_traceAlways (s : State) (b : Nat) : Strips s (s.traceAlways b) := by
  unfold State.traceAlways
  split
  · exact .refl s
  · exact .of_block s b _ fun _ => rfl

theorem strips_traceLanes (s : State) (b kind : Nat) (xs : List LaneAcc) : Strips s (s.traceLanes b kind xs) := by
  refine Strips.foldl (fun s x => ?_) xs s
  cases x.tgt with
  | glob =>
    dsimp only
    split
    · exact .refl s
    · exact strips_traceFlat s b kind x.ea
  | rsp r a => exact strips_traceAlways s b
  | csm _ _ => exact .refl s
  | phys _ => exact .refl s
  | ctrl _ => exact .refl s

theorem strips_acceptStore (w : Nat) (frag : Bool) (s : State) (e : StoreE) : Strips s (s.acceptStore w frag e) := by
  have h1 : Strips s (match tfind s.warps w with | none => s | some W => s.traceLanes W.block 1 e.lanes) := by
    split
    · exact .refl s
    · exact strips_traceLanes s _ 1 e.lanes
  have h2 := h1.trans (Strips.foldl (strips_storeLane e.size e.stlf) e.lanes _)
  unfold State.acceptStore
  dsimp only
  split
  · exact h2
  · exact h2.trans (.of_fields rfl rfl rfl rfl)

/-! ## Warps, operations, blocks -/

theorem strips_unshare (s : State) (w : Nat) : Strips s (s.unshare w) := by
  unfold State.unshare
  split
  · exact .refl s
  · exact .of_fields rfl rfl rfl rfl

theorem strips_freeSlot (s : State) (f : Slot) : Strips s (s.freeSlot f) := .of_fields rfl rfl rfl rfl

theorem strips_endFills (s : State) : Strips s s.endFills := by
  refine .of_regions (fun r => ?_) rfl rfl rfl
  simp only [State.region, State.endFills]
  refine standing_tmap _ _ (fun _ _ => ?_) r
  rfl

theorem strips_dropWarp (s : State) (w : Nat) : Strips s (s.dropWarp w) := by
  unfold State.dropWarp
  split
  · exact .refl s
  · next W _ =>
    have h := ((strips_unshare s w).trans (Strips.foldl (strips_acceptStore w false) W.fifo _)).trans
      (Strips.foldl strips_freeSlot (W.splits.filterMap Split.slot?) _)
    refine Strips.trans h (Strips.trans ?_ (strips_endFills _))
    exact .of_fields rfl rfl rfl rfl

theorem strips_dropOps (s : State) (p : Nat → EngOp → Bool) : Strips s (s.dropOps p) := by
  refine .of_regions (fun r => ?_) rfl rfl rfl
  simp only [State.region, State.dropOps]
  refine standing_tmap _ _ (fun _ _ => ?_) r
  rfl

theorem strips_dropBlock (s : State) (b : Nat) : Strips s (s.dropBlock b) := by
  unfold State.dropBlock
  split
  · exact .refl s
  · next B _ =>
    refine (Strips.foldl strips_dropWarp B.warps s).trans ?_
    generalize B.warps.foldl State.dropWarp s = t
    refine ⟨rfl, fun k A hA => ?_, fun r => ?_, fun p => ?_⟩
    · simp only [tfind_tdel] at hA
      split at hA
      · cases hA
      · exact ⟨A, hA, rfl⟩
    · simp only [State.region]
      refine tget_tmap_eq Region.standing _ _ _ (fun _ R => ?_) r
      split <;> rfl
    · simp only [State.part]
      refine tget_tmap_eq Part.shape _ _ _ (fun _ P => ?_) p
      rfl

theorem tfind_dropBlock (s : State) (b : Nat) : tfind (s.dropBlock b).blocks b = none := by
  unfold State.dropBlock
  split
  · assumption
  · simp [tfind_tdel]

/-- Dropping the blocks of a list leaves none of them. -/
theorem tfind_dropBlocks {bs : List Nat} {b : Nat} (hb : b ∈ bs) (s : State) : tfind (bs.foldl State.dropBlock s).blocks b = none := by
  induction bs generalizing s with
  | nil => cases hb
  | cons x bs ih =>
    rcases List.mem_cons.mp hb with rfl | h
    · exact (Strips.foldl strips_dropBlock bs _).gone (tfind_dropBlock s b)
    · exact ih h _

/-! ## Launches that end -/

/-- A launch is as it was, or it has ended. -/
def Launch.mayEnd (L K : Launch) : Prop := K = L ∨ (L.phase.live = true ∧ K.phase.live = false ∧ K.part = L.part)

/-- Winding down work leads from s to t: launches are as they were or have ended, no block is new, and regions and partitions
stand. -/
structure Unwinds (s t : State) : Prop where
  launches : ∀ l, Option.Rel Launch.mayEnd (tfind s.launches l) (tfind t.launches l)
  blocks : ∀ b B, tfind t.blocks b = some B → ∃ A, tfind s.blocks b = some A ∧ A.launch = B.launch
  regions : ∀ r, (t.region r).standing = (s.region r).standing
  parts : ∀ p, (t.part p).shape = (s.part p).shape

theorem Launch.mayEnd_trans {L K J : Launch} (h : L.mayEnd K) (k : K.mayEnd J) : L.mayEnd J := by
  rcases h with rfl | ⟨h1, h2, h3⟩
  · exact k
  · rcases k with rfl | ⟨k1, -, -⟩
    · exact .inr ⟨h1, h2, h3⟩
    · rw [h2] at k1; cases k1

theorem launches_same {s t : State} (h : t.launches = s.launches) (l : Nat) :
    Option.Rel Launch.mayEnd (tfind s.launches l) (tfind t.launches l) := by
  rw [h]
  cases tfind s.launches l with
  | none => exact .none
  | some L => exact .some (.inl rfl)

theorem Unwinds.trans {s t u : State} (h : Unwinds s t) (k : Unwinds t u) : Unwinds s u where
  launches l := by
    have h1 := h.launches l
    have k1 := k.launches l
    generalize tfind s.launches l = a at h1 ⊢
    generalize tfind t.launches l = b at h1 k1
    cases h1 with
    | none => exact k1
    | some e =>
      generalize tfind u.launches l = c at k1 ⊢
      cases k1 with
      | some e' => exact .some (Launch.mayEnd_trans e e')
  blocks b B hB := by
    obtain ⟨A, hA, e⟩ := k.blocks b B hB
    obtain ⟨Z, hZ, e'⟩ := h.blocks b A hA
    exact ⟨Z, hZ, e'.trans e⟩
  regions r := (k.regions r).trans (h.regions r)
  parts p := (k.parts p).trans (h.parts p)

theorem Strips.unwinds {s t : State} (h : Strips s t) : Unwinds s t := ⟨launches_same h.launches, h.blocks, h.regions, h.parts⟩

theorem Unwinds.refl (s : State) : Unwinds s s := (Strips.refl s).unwinds

/-- A loop of steps that unwind unwinds. -/
theorem Unwinds.foldl {α : Type} {f : State → α → State} (h : ∀ s x, Unwinds s (f s x)) (xs : List α) (s : State) :
    Unwinds s (xs.foldl f s) := by
  induction xs generalizing s with
  | nil => exact .refl s
  | cons x xs ih => exact (h s x).trans (ih _)

/-- An ended launch stays as it is. -/
theorem Unwinds.ended {s t : State} (h : Unwinds s t) {l : Nat} {L : Launch} (hl : tfind s.launches l = some L)
    (hd : L.phase.live = false) : tfind t.launches l = some L := by
  have h1 := h.launches l
  rw [hl] at h1
  cases ht : tfind t.launches l with
  | none => rw [ht] at h1; cases h1
  | some K =>
    rw [ht] at h1
    cases h1 with
    | some e =>
      rcases e with rfl | ⟨e, -, -⟩
      · rfl
      · rw [hd] at e; cases e

/-- A launch found after is one from before, of the same partition; one that has not ended was not ended. -/
theorem Unwinds.before {s t : State} (h : Unwinds s t) {l : Nat} {K : Launch} (hl : tfind t.launches l = some K) :
    ∃ L, tfind s.launches l = some L ∧ K.part = L.part ∧ (K.phase.live = true → K = L) := by
  have h1 := h.launches l
  rw [hl] at h1
  cases hs : tfind s.launches l with
  | none => rw [hs] at h1; cases h1
  | some L =>
    rw [hs] at h1
    cases h1 with
    | some e =>
      rcases e with rfl | ⟨-, e2, e3⟩
      · exact ⟨K, rfl, rfl, fun _ => rfl⟩
      · exact ⟨L, rfl, e3, fun e => by rw [e2] at e; cases e⟩

/-- The number of regions of a partition is of its shape alone. -/
theorem Unwinds.partRegions {s t : State} (h : Unwinds s t) (p : Nat) : t.partRegions p = s.partRegions p := by
  unfold State.partRegions; rw [h.parts]

/-- A launch as R361 leaves it, with why it ended (R355). -/
def Launch.endedWith (L : Launch) (e : EndCause) : Launch :=
  { L with phase := .ending, status := some e.status, detail := e.detail, causePc := e.pc, causeBlk := e.blk }

/-- Before its entry changes, the end of a launch drops its blocks and operations. -/
def State.stripped (s : State) (l : Nat) : State :=
  ((s.launchBlocks l).foldl State.dropBlock s).dropOps
    fun _ o => o.launch = l && !o.granted && (match o.kind with | .child _ => false | _ => true)

theorem endOne_eq (s : State) (l : Nat) (e : EndCause) :
    s.endOne l e = { s.stripped l with launches := tmod (s.stripped l).launches l fun L => L.endedWith e } := rfl

theorem strips_stripped (s : State) (l : Nat) : Strips s (s.stripped l) :=
  (Strips.foldl strips_dropBlock _ s).trans (strips_dropOps _ _)

/-- R361: a launch that ends carries its cause. -/
theorem tfind_endOne {s : State} {l : Nat} {L : Launch} (hl : tfind s.launches l = some L) (e : EndCause) :
    tfind (s.endOne l e).launches l = some (L.endedWith e) := by
  rw [endOne_eq]
  simp only [tfind_tmod, (strips_stripped s l).launches, hl, if_true, Option.map_some]

theorem unwinds_endOne {s : State} {l : Nat} {L : Launch} (hl : tfind s.launches l = some L) (hL : L.phase.live = true)
    (e : EndCause) : Unwinds s (s.endOne l e) where
  launches k := by
    rw [endOne_eq]
    simp only [tfind_tmod, (strips_stripped s l).launches]
    split
    · next hk => rw [hk, hl]; exact .some (.inr ⟨hL, rfl, rfl⟩)
    · exact launches_same rfl k
  blocks := (strips_stripped s l).blocks
  regions := (strips_stripped s l).regions
  parts := (strips_stripped s l).parts

/-- R361: a launch that ends leaves no block. -/
theorem blocks_endOne (s : State) (l : Nat) (e : EndCause) {b : Nat} {B : Block}
    (hB : tfind (s.endOne l e).blocks b = some B) : B.launch ≠ l := by
  intro hl
  obtain ⟨A, hA, hAB⟩ := (strips_stripped s l).blocks b B hB
  have hmem : b ∈ s.launchBlocks l :=
    List.mem_map.mpr ⟨(b, A), List.mem_filter.mpr ⟨mem_of_tfind hA, by simp [hAB, hl]⟩, rfl⟩
  have hgone : tfind (s.endOne l e).blocks b = none := tfind_dropBlocks hmem s
  rw [hgone] at hB
  cases hB

theorem unwinds_endTree (n : Nat) (s : State) (l : Nat) (e : EndCause) : Unwinds s (State.endTree n s l e) := by
  induction n generalizing s l e with
  | zero => exact .refl s
  | succ n ih =>
    unfold State.endTree
    split
    · exact .refl s
    · next L hl =>
      split
      · next hL => exact (unwinds_endOne hl hL e).trans (Unwinds.foldl (fun s k => ih s k _) _ _)
      · exact .refl s

theorem unwinds_endLaunch (s : State) (l : Nat) (e : EndCause) : Unwinds s (s.endLaunch l e) := unwinds_endTree 10 s l e

/-- R361: a live launch that is ended is ended with its cause, and has no block left. -/
theorem endLaunch_live {s : State} {l : Nat} {L : Launch} (hl : tfind s.launches l = some L) (hL : L.phase.live = true)
    (e : EndCause) : tfind (s.endLaunch l e).launches l = some (L.endedWith e) ∧
      ∀ b B, tfind (s.endLaunch l e).blocks b = some B → B.launch ≠ l := by
  have hu : Unwinds (s.endOne l e) (s.endLaunch l e) := by
    unfold State.endLaunch State.endTree
    simp only [hl, hL, if_true]
    exact Unwinds.foldl (fun s k => unwinds_endTree 9 s k _) _ _
  refine ⟨hu.ended (tfind_endOne hl e) rfl, fun b B hB => ?_⟩
  obtain ⟨A, hA, hAB⟩ := hu.blocks b B hB
  exact hAB ▸ blocks_endOne s l e hA

end Sys2Proof.Machine
end

section
/-! SUPPORT. The user handler: what takes a user-class cause of the issuing split (R37, R39, R175-R177, R209). -/

namespace Sys2Proof.Machine

open Sys2Proof.Claims

/-- A split that may issue waits for nothing. -/
theorem wait_of_mayIssue {c : Ctx} (h : c.mayIssue = true) : c.sp.wait = .none := by
  simp only [Ctx.mayIssue, Bool.and_eq_true, decide_eq_true_eq] at h
  exact h.1.1.1.1.1.1

theorem sfuBusy_eq_false {s : State} {w : Nat} (h : ∀ e ∈ s.sfus, e.2.warp ≠ w) : s.sfuBusy w = false := by
  simpa [State.sfuBusy] using h

/-- R177: with a handler that is free, a user cause enters it. -/
theorem Ctx.trap_of_canTrap {c : Ctx} (h : canTrap c) (hw : c.sp.wait = .none) (z : Cause) :
    c.trap z = userEntry c z.code z.pc z.addr z.aux := by
  obtain ⟨hsup, hhome, hv, hinh, hlen, hsfu⟩ := h
  have hinh' : c.W.sc.csr.inh = false := hinh
  have hh : c.W.sc.csr.handler ≠ 0 := hv
  have hl : ¬c.image.codeLen ≤ c.W.sc.csr.handler.toNat := Nat.not_le.mpr hlen
  unfold Ctx.trap Ctx.trapLocal
  simp only [hsup, hhome, hinh', hh, hl, sfuBusy_eq_false hsfu, Bool.or_false, decide_false, Bool.false_eq_true, if_false]
  simp only [Ctx.enterUser, Ctx.put, Split.stash, userEntry, putBack, Warp.setSplit, hw, if_true, Bool.false_eq_true, if_false,
    Nat.add_zero]
  rfl

/-- R209: a user cause of a fragment stops it. -/
theorem Ctx.trap_of_fragment {c : Ctx} {q : Slot} (hs : c.sp.sup = false) (hq : c.sp.home = .ncore q) (z : Cause) :
    c.trap z = fragmentStop c q z.code z.addr z.aux := by
  unfold Ctx.trap
  rw [if_neg (by simp [hs])]
  simp only [hq]
  rfl

/-- R37, R39: without a handler, or in it, a user cause other than PREEMPT ends the launch. -/
theorem Ctx.trap_of_noHandler {c : Ctx} (hs : c.sp.sup = false) (hh : c.sp.home = .wcore)
    (hv : c.W.sc.csr.trapv &&& 0xFFFFFFFC = 0 ∨ c.W.sc.csr.trapc.getLsbD 11 = true) {z : Cause} (hz : z.code ≠ cPreempt)
    {B : Block} (hB : tfind c.s.blocks c.W.block = some B) :
    c.trap z = c.put.endLaunch B.launch
      { status := z.code, detail := if z.code = cProt then z.aux % 256 else 0, pc := c.sp.pc.toNat, blk := some B.lin } := by
  have hb : (decide (c.W.sc.csr.handler = 0) || c.W.sc.csr.inh) = true := by
    rcases hv with hv | hv
    · have h0 : c.W.sc.csr.handler = 0 := hv
      simp [h0]
    · simp [Csrs.inh, hv]
  unfold Ctx.trap Ctx.trapLocal Ctx.endWith
  simp only [hs, hh, hb, hB, hz, Option.map_some, Option.getD_some, Bool.false_eq_true, if_false, if_true]

/-- TRAP raises its own cause, with the next offset. -/
theorem trap_go {f : TrapOps} {s : State} {c : Ctx} (h : UReady s c f.g false false (group false f.a 1 f.wA) []) :
    exec (.trap f) s = .next (c.trap { code := f.b.toNat, pc := c.sp.pc + 4, addr := 0, aux := (c.sreg f.a).toNat }) := by
  change execTrap f s = _
  unfold execTrap
  rw [run_of_issues h.1, u_go h (group_scalar _ _ _) 1 rfl]

/-- R185: BKPT outside debug raises BREAK. -/
theorem bkpt_go {f : G} {s : State} {c : Ctx} (h : UReady s c f.g false false [] [])
    (hd : (s.part (s.warpPart c.W)).dbgctl.getLsbD 0 = false) :
    exec (.bkpt f) s = .next (c.trap { code := cBreak, pc := c.sp.pc + 4, addr := 0, aux := 0 }) := by
  change execBkpt f s = _
  unfold execBkpt
  rw [run_of_issues h.1, u_go h (by simp) 1 rfl]
  simp only [issuer_s h.1.1, hd, Bool.false_and, Bool.false_eq_true, if_false]

/-- R69: a word without a meaning raises ILLEGAL. -/
theorem illegal_go {w : Word} {s : State} {c : Ctx} (h : Issues s c) (hf : fetched s = .illegal w) :
    exec (.illegalEncoding w) s = .next (c.raise cIllegal 0) := by
  change execIllegalEncoding w s = _
  unfold execIllegalEncoding
  rw [run_of_issues h]
  simp [hf]

theorem userTrapEntry : UserTrapEntry := by
  refine ⟨fun f s c h => ⟨fun hc => ?_, fun q hs hq => ?_⟩, fun f s c h hc hd => ?_, fun w s c h hc hf => ?_⟩
  · rw [trap_go h, Ctx.trap_of_canTrap hc (wait_of_mayIssue h.1.2)]
  · rw [trap_go h, Ctx.trap_of_fragment hs hq]
  · rw [bkpt_go h hd, Ctx.trap_of_canTrap hc (wait_of_mayIssue h.1.2)]; rfl
  · rw [illegal_go h hf, Ctx.raise, Ctx.trap_of_canTrap hc (wait_of_mayIssue h.2)]; rfl

theorem userCauseWithoutHandler : UserCauseWithoutHandler := by
  intro f s c B L h hs hh hv hf hB hL hlive
  have hcs := issuer_s h.1.1
  have hB' : tfind c.s.blocks c.W.block = some B := hcs ▸ hB
  have hL' : tfind c.put.launches B.launch = some L := by rw [Ctx.put_launches, hcs]; exact hL
  rw [trap_go h, Ctx.trap_of_noHandler hs hh hv hf hB']
  obtain ⟨hl, hb⟩ := endLaunch_live hL' hlive
    { status := f.b.toNat, detail := if f.b.toNat = cProt then (c.sreg f.a).toNat % 256 else 0, pc := c.sp.pc.toNat,
      blk := some B.lin }
  refine ⟨_, rfl, fun b _ hmap => ?_, _, hl, rfl, rfl, rfl, rfl⟩
  obtain ⟨K, hK, hKl⟩ := Option.map_eq_some_iff.mp hmap
  exact hb b K hK hKl

/-- Settles O27: a user cause enters a free handler, stops a fragment, or ends the launch with all its blocks. -/
theorem userTraps : Obligations.UserTraps := ⟨userTrapEntry, userCauseWithoutHandler⟩

end Sys2Proof.Machine
end

section
/-! SUPPORT. Fences (R27, R241): what a release and an acquire change. -/

namespace Sys2Proof.Machine

open Sys2Proof.Claims

/-! ## Memory as before -/

/-- Memory of every kind is as before where the scratchpads keep their bytes and their draw. -/
theorem sameMemory_of_rsp {s t : State} (hmem : t.mem = s.mem) (hhost : t.host = s.host)
    (hcsm : ∀ k, (t.core k).csm = (s.core k).csm)
    (hrsp : ∀ r, ((t.region r).rsp, (t.region r).rspDraw) = ((s.region r).rsp, (s.region r).rspDraw)) : SameMemory s t := by
  refine ⟨fun _ => by rw [hmem], fun _ => by rw [hhost], fun _ _ => by rw [hcsm], fun r a => ?_⟩
  obtain ⟨h1, h2⟩ := Prod.mk.inj (hrsp r)
  unfold Region.rspByte
  rw [h1, h2]

theorem SameMemory.trans {s t u : State} (h : SameMemory s t) (k : SameMemory t u) : SameMemory s u := by
  obtain ⟨h1, h2, h3, h4⟩ := h
  obtain ⟨k1, k2, k3, k4⟩ := k
  exact ⟨fun a => (k1 a).trans (h1 a), fun a => (k2 a).trans (h2 a), fun i a => (k3 i a).trans (h3 i a),
    fun r a => (k4 r a).trans (h4 r a)⟩

theorem sameMemory_finish (c : Ctx) (u : Bool) : SameMemory c.s (c.finish u) :=
  sameMemory_of (Ctx.finish_mem c u) (Ctx.finish_host c u) (fun k => by rw [Ctx.finish_core]) fun r => Ctx.finish_region c u r

/-! ## The release side -/

theorem sameMemory_addOwc (s : State) (p : Nat) : SameMemory s (s.addOwc p) := by
  refine sameMemory_of_rsp rfl rfl (fun _ => rfl) fun r => ?_
  simp only [State.region, State.addOwc, State.setPart_regions]
  refine tget_tmap_eq (fun R : Region => (R.rsp, R.rspDraw)) _ _ _ (fun i R => ?_) r
  split <;> rfl

/-- The state in which a warp has released: its open writes are counted, and its accesses are marked. -/
theorem releaseOf_eq (s : State) (w : Nat) (W : Warp) :
    ∃ u, (u = s ∨ u = s.addOwc (s.warpPart W)) ∧ (releaseOf s w W).1 =
      { u with accs := tmap s.accs fun _ a => if a.warp = w then { a with released := true } else a } := by
  unfold releaseOf
  cases W.openDirty
  · exact ⟨s, .inl rfl, rfl⟩
  · exact ⟨s.addOwc (s.warpPart W), .inr rfl, rfl⟩

theorem sameMemory_releaseOf (s : State) (w : Nat) (W : Warp) : SameMemory s (releaseOf s w W).1 := by
  obtain ⟨u, hu, h⟩ := releaseOf_eq s w W
  rw [h]
  rcases hu with rfl | rfl
  · exact sameMemory_of rfl rfl (fun _ => rfl) fun _ => rfl
  · exact sameMemory_addOwc s _

/-- A release leaves the clusters, the launches and the blocks. -/
theorem releaseOf_frame (s : State) (w : Nat) (W : Warp) :
    (releaseOf s w W).1.clusters = s.clusters ∧ (releaseOf s w W).1.launches = s.launches ∧
      (releaseOf s w W).1.blocks = s.blocks := by
  obtain ⟨u, hu, h⟩ := releaseOf_eq s w W
  rw [h]
  rcases hu with rfl | rfl <;> exact ⟨rfl, rfl, rfl⟩

/-- The partition of a warp is that of its block's launch. -/
theorem warpPart_congr {s t : State} {W V : Warp} (hl : t.launches = s.launches) (hb : t.blocks = s.blocks)
    (hW : V.block = W.block) : t.warpPart V = s.warpPart W := by
  simp only [State.warpPart, State.warpLaunch, State.blockLaunch, hl, hb, hW]

/-- R453: tokens touch the paths and what leaves through the ports. -/
theorem sendTokens_eq (s : State) (p : Nat) (princ : Word) :
    ∃ ps ob, s.sendTokens p princ = { s with paths := ps, outbox := ob } := by
  unfold State.sendTokens
  generalize s.paths.filter (fun x => x.part = p) = xs
  induction xs generalizing s with
  | nil => exact ⟨s.paths, s.outbox, rfl⟩
  | cons x xs ih =>
    have hx : ∃ ps ob, s.sendToken princ x = { s with paths := ps, outbox := ob } := by
      unfold State.sendToken
      split
      · exact ⟨s.paths, s.outbox, rfl⟩
      · exact ⟨_, _, rfl⟩
    obtain ⟨ps, ob, h1⟩ := hx
    obtain ⟨ps', ob', h2⟩ := ih (s.sendToken princ x)
    exact ⟨ps', ob', by rw [List.foldl_cons, h2, h1]⟩

/-! ## The acquire side -/

theorem sameMemory_acquire (c : Ctx) (scope : Nat) : SameMemory c.s (c.acquire scope).s := by
  unfold Ctx.acquire
  dsimp only
  split <;> exact sameMemory_of rfl rfl (fun _ => rfl) fun _ => rfl

/-- An acquire from REGION scope on empties the L1 of the warp's cluster, and no other (R220). -/
theorem acquire_l1 (c : Ctx) (scope k : Nat) :
    ((c.acquire scope).s.cluster k).l1 = if 3 ≤ scope ∧ k = coreCluster c.W.core then [] else (c.s.cluster k).l1 := by
  unfold Ctx.acquire
  by_cases h3 : 3 ≤ scope
  · simp only [h3, if_true, true_and, State.dropL1, State.setCluster_cluster]
    split <;> rfl
  · simp only [h3, if_false, false_and]

theorem acquire_frame (c : Ctx) (scope : Nat) :
    (c.acquire scope).s.parts = c.s.parts ∧ (c.acquire scope).s.accs = c.s.accs := by
  unfold Ctx.acquire
  dsimp only
  split <;> exact ⟨rfl, rfl⟩

/-! ## Fences -/

/-- The context of a fence that has passed, before its PC moves. -/
def Ctx.fenced (c : Ctx) (rel acq : Bool) (scope : Nat) : Ctx :=
  let c := if rel then c.release else c
  let p := c.s.warpPart c.W
  let c := if rel && c.s.farScope p scope then { c with s := c.s.sendTokens p c.W.sc.csr.princ } else c
  if acq then c.acquire scope else c

/-- R27: a fence goes on once what it orders is performed. -/
theorem fence_go {rel acq eng : Bool} {f : Sc} {s : State} {c : Ctx} (h : UReady s c 7 false false [] [])
    (hset : c.settled = true) (heng : eng = true → ∀ o ∈ s.ops, o.2.warp ≠ c.w) :
    fenceIssue rel acq eng f s = .next (((c.fenced rel acq f.s.toNat).advance 1).finish true) := by
  have hwait : (!c.settled || (eng && c.s.ops.any fun o => o.2.warp = c.w)) = false := by
    cases eng with
    | false => simp [hset]
    | true => simpa [hset, issuer_s h.1.1] using heng rfl
  unfold fenceIssue
  rw [run_of_issues h.1, u_go h (by simp) 1 rfl]
  simp only [hwait, Bool.false_eq_true, if_false]
  rfl

/-- The release side of a fence: its state, but for the tokens that leave, and its warp. -/
theorem fenced_eq (c : Ctx) (rel acq : Bool) (scope : Nat) : ∃ ps ob, c.fenced rel acq scope =
    let d : Ctx := { c with
      s := { (if rel then (releaseOf c.s c.w c.W).1 else c.s) with paths := ps, outbox := ob }
      W := { c.W with openDirty := if rel then false else c.W.openDirty } }
    if acq then d.acquire scope else d := by
  cases rel with
  | false => exact ⟨c.s.paths, c.s.outbox, rfl⟩
  | true =>
    unfold Ctx.fenced
    simp only [if_true, Bool.true_and]
    by_cases hfar : c.release.s.farScope (c.release.s.warpPart c.release.W) scope = true
    · obtain ⟨ps, ob, h⟩ := sendTokens_eq c.release.s (c.release.s.warpPart c.release.W) c.release.W.sc.csr.princ
      refine ⟨ps, ob, ?_⟩
      rw [if_pos hfar, h]
      rfl
    · refine ⟨c.release.s.paths, c.release.s.outbox, ?_⟩
      rw [if_neg hfar]
      rfl

/-- What a fence that has passed has changed. -/
theorem fence_completes {i : Instr} {rel acq eng : Bool} {f : Sc} {s : State} {c : Ctx}
    (hi : exec i s = fenceIssue rel acq eng f s) (h : UReady s c 7 false false [] []) (hset : c.settled = true)
    (heng : eng = true → ∀ o ∈ s.ops, o.2.warp ≠ c.w) :
    completes i s true fun c' =>
      let r := if rel = true then (releaseOf c.s c.w c.W).1 else c.s
      c'.w = c.w ∧ c'.sp = { c.sp with pc := c.sp.pc + 4 } ∧ c'.W.sc = c.W.sc ∧ c'.W.v = c.W.v ∧ c'.W.vst = c.W.vst ∧
      c'.W.openDirty = (if rel = true then false else c.W.openDirty) ∧
      c'.W.floor = (if acq = true then (r.part (s.warpPart c.W)).owc else c.W.floor) ∧
      c'.s.parts = r.parts ∧ c'.s.accs = r.accs ∧
      ∀ k, (c'.s.cluster k).l1 = if acq = true ∧ 3 ≤ f.s.toNat ∧ k = coreCluster c.W.core then [] else (s.cluster k).l1 := by
  have hs := issuer_s h.1.1
  obtain ⟨ps, ob, hf⟩ := fenced_eq c rel acq f.s.toNat
  refine ⟨_, hi.trans (fence_go h hset heng), ?_⟩
  rw [hf]
  have hmem : SameMemory s (if rel = true then (releaseOf c.s c.w c.W).1 else c.s) := by
    split
    · exact hs ▸ sameMemory_releaseOf ..
    · exact hs ▸ sameMemory_of rfl rfl (fun _ => rfl) fun _ => rfl
  have hframe : (if rel = true then (releaseOf c.s c.w c.W).1 else c.s).clusters = s.clusters ∧
      (if rel = true then (releaseOf c.s c.w c.W).1 else c.s).launches = s.launches ∧
      (if rel = true then (releaseOf c.s c.w c.W).1 else c.s).blocks = s.blocks := by
    split
    · exact hs ▸ releaseOf_frame ..
    · exact hs ▸ ⟨rfl, rfl, rfl⟩
  dsimp only
  generalize (if rel = true then (releaseOf c.s c.w c.W).1 else c.s) = r at hmem hframe ⊢
  obtain ⟨hcl, hla, hbl⟩ := hframe
  generalize hd : ({ c with s := { r with paths := ps, outbox := ob },
                            W := { c.W with openDirty := if rel = true then false else c.W.openDirty } } : Ctx) = d
  have hmem' : SameMemory s d.s := hd ▸ hmem.trans (sameMemory_of rfl rfl (fun _ => rfl) fun _ => rfl)
  have hpart : d.s.warpPart d.W = s.warpPart c.W := hd ▸ warpPart_congr hla hbl rfl
  have hl1 : ∀ k, (d.s.cluster k).l1 = (s.cluster k).l1 := fun k => by simp only [State.cluster, ← hd, hcl]
  have hkeep : d.w = c.w ∧ d.sp = c.sp ∧ d.W.sc = c.W.sc ∧ d.W.v = c.W.v ∧ d.W.vst = c.W.vst ∧
      d.W.openDirty = (if rel = true then false else c.W.openDirty) ∧ d.W.floor = c.W.floor ∧ d.W.core = c.W.core ∧
      d.s.parts = r.parts ∧ d.s.accs = r.accs := hd ▸ ⟨rfl, rfl, rfl, rfl, rfl, rfl, rfl, rfl, rfl, rfl⟩
  clear hd hf
  obtain ⟨hw, hsp, hsc, hv, hvst, hdirty, hfloor, hcore, hp, ha⟩ := hkeep
  have hpc : (d.advance 1).sp = { c.sp with pc := c.sp.pc + 4 } := congrArg (fun X : Split => { X with pc := X.pc + 4 }) hsp
  cases acq with
  | false =>
    exact ⟨⟨hw, hpc, hsc, hv, hvst, hdirty, hfloor, hp, ha, fun k => by rw [if_neg (by simp)]; exact hl1 k⟩,
      hmem'.trans (sameMemory_finish (d.advance 1) true)⟩
  | true =>
    obtain ⟨hp', ha'⟩ := acquire_frame d f.s.toNat
    have howc : (d.s.part (d.s.warpPart d.W)).owc = (r.part (s.warpPart c.W)).owc := by
      rw [hpart, State.part, hp]; rfl
    have hl1' : ∀ k, ((d.acquire f.s.toNat).s.cluster k).l1 =
        if 3 ≤ f.s.toNat ∧ k = coreCluster c.W.core then [] else (s.cluster k).l1 := fun k => by
      rw [acquire_l1, hl1, hcore]
    simp only [if_true, true_and]
    exact ⟨⟨hw, hpc, hsc, hv, hvst, hdirty, howc, hp'.trans hp, ha'.trans ha, hl1'⟩,
      (hmem'.trans (sameMemory_acquire d f.s.toNat)).trans (sameMemory_finish ((d.acquire f.s.toNat).advance 1) true)⟩

theorem fences : Fences := by
  intro e he f s c h hset heng
  simp only [List.mem_cons, List.not_mem_nil, or_false] at he
  rcases he with rfl | rfl | rfl | rfl
  · exact fence_completes (rel := false) (acq := true) (eng := false) rfl h hset heng
  · exact fence_completes (rel := true) (acq := false) (eng := false) rfl h hset heng
  · exact fence_completes (rel := true) (acq := true) (eng := false) rfl h hset heng
  · exact fence_completes (rel := true) (acq := true) (eng := true) rfl h hset heng

end Sys2Proof.Machine
end

section
/-! SUPPORT. Numbers in memory (R58), and barriers in CSM granules (R242-R247). -/

namespace Sys2Proof.Machine

open Sys2Proof.Claims

/-! ## Numbers as bytes -/

@[simp] theorem length_leBytes (n v : Nat) : (leBytes n v).length = n := by
  induction n generalizing v with
  | zero => rfl
  | succ n ih => simp [leBytes, ih]

theorem leNat_leBytes (n v : Nat) : leNat (leBytes n v) = v % 256 ^ n := by
  induction n generalizing v with
  | zero => simp [leBytes, leNat, Nat.mod_one]
  | succ n ih =>
    simp only [leBytes, leNat, ih, BitVec.toNat_ofNat]
    exact (Nat.pow_succ' ▸ Nat.mod_mul (x := v) (a := 256) (b := 256 ^ n)).symm

theorem readN_writeN_self (m : Memory) (a : Nat) (bs : List Byte) :
    Memory.readN (Memory.writeN m a bs) a bs.length = bs := by
  refine List.ext_getElem (by simp [Memory.readN]) fun i h1 h2 => ?_
  simp only [Memory.readN, List.getElem_map, List.getElem_range, Memory.read_writeN]
  rw [if_pos (by omega), Nat.add_sub_cancel_left, List.getD_eq_getElem?_getD, List.getElem?_eq_getElem h2, Option.getD_some]

/-- A number of n bytes reads back as it was written. -/
theorem num_writeN_self (m : Memory) (a n v : Nat) : Memory.num (Memory.writeN m a (leBytes n v)) a n = v % 256 ^ n := by
  have h := readN_writeN_self m a (leBytes n v)
  rw [length_leBytes] at h
  rw [Memory.num, h, leNat_leBytes]

/-- A write leaves the bytes outside its range. -/
theorem read_writeN_outside (m : Memory) (bs : List Byte) {a i : Nat} (h : i < a ∨ a + bs.length ≤ i) :
    Memory.read (Memory.writeN m a bs) i = Memory.read m i := by
  rw [Memory.read_writeN, if_neg (by omega)]

/-! ## Granules -/

/-- A granule reads back as it was put. -/
theorem granule_putGranule (s : State) (p : Nat × Nat) {g : Nat} (h : g < 2 ^ 128) : (s.putGranule p g).granule p.1 p.2 = g := by
  have h1 := num_writeN_self (s.core p.1).csm p.2 16 g
  rw [Nat.mod_eq_of_lt (by simpa using h)] at h1
  simpa [State.granule, State.putGranule, State.csmWrite, State.csmRead, Memory.num] using h1

/-- Putting a granule leaves the other bytes of CSM. -/
theorem csm_putGranule (s : State) (p : Nat × Nat) (g k a : Nat) (h : k ≠ p.1 ∨ a < p.2 ∨ p.2 + 16 ≤ a) :
    Memory.read ((s.putGranule p g).core k).csm a = Memory.read (s.core k).csm a := by
  simp only [State.putGranule, State.csmWrite, State.setCore_core]
  split
  · next hk => rw [read_writeN_outside _ _ (by simpa [hk] using h), hk]
  · rfl

/-! ## The fields of a barrier (R242) -/

theorem sectors_ofInt {S : Int} (h1 : -0x800000 ≤ S) (h2 : S ≤ 0x7FFFFF) : (BitVec.ofInt 24 S).toInt = S := by
  rw [BitVec.toInt_ofInt]
  exact Int.bmod_eq_of_le (by omega) (by omega)

/-- The fields of a barrier read back as they were packed. -/
theorem tbPack_fields {R A T P : Nat} {S : Int} (hR : R < 2 ^ 20) (hA : A < 2 ^ 20) (hT : T < 16) (hP : P < 16)
    (hS1 : -0x800000 ≤ S) (hS2 : S ≤ 0x7FFFFF) :
    tbPack R S A T P < 2 ^ 128 ∧ bits (tbPack R S A T P) 83 64 = R ∧ tbSectors (tbPack R S A T P) = S ∧
      bits (tbPack R S A T P) 27 8 = A ∧ bits (tbPack R S A T P) 7 4 = T ∧ bits (tbPack R S A T P) 3 0 = P := by
  have hsec : bits (tbPack R S A T P) 55 32 = (BitVec.ofInt 24 S).toNat := by
    have hlt := (BitVec.ofInt 24 S).isLt
    simp only [bits, tbPack]
    omega
  have hlt := (BitVec.ofInt 24 S).isLt
  refine ⟨?_, ?_, ?_, ?_, ?_, ?_⟩
  · simp only [tbPack]; omega
  · simp only [bits, tbPack]; omega
  · rw [tbSectors, hsec, BitVec.ofNat_toNat, BitVec.setWidth_eq, sectors_ofInt hS1 hS2]
  · simp only [bits, tbPack]; omega
  · simp only [bits, tbPack]; omega
  · simp only [bits, tbPack]; omega

theorem bits_lt (v hi lo : Nat) : bits v hi lo < 2 ^ (hi + 1 - lo) := Nat.mod_lt _ (Nat.two_pow_pos _)

/-- R243: one arrival that adds sectors. The last arrival with no sector due reloads the count and steps the phase; any other
takes one arrival. -/
theorem tbStep_arrival {g : Nat} {b : Int} (hA : bits g 27 8 ≠ 0) (hS1 : -0x800000 ≤ tbSectors g + b)
    (hS2 : tbSectors g + b ≤ 0x7FFFFF) :
    let h := tbStep g 1 b
    h < 2 ^ 128 ∧
    (bits g 27 8 = 1 ∧ tbSectors g + b = 0 →
      bits h 27 8 = bits g 83 64 ∧ tbSectors h = 0 ∧ bits h 3 0 = (bits g 3 0 + 1) % 16) ∧
    (¬(bits g 27 8 = 1 ∧ tbSectors g + b = 0) →
      bits h 27 8 + 1 = bits g 27 8 ∧ tbSectors h = tbSectors g + b ∧ bits h 3 0 = bits g 3 0) ∧
    bits h 83 64 = bits g 83 64 ∧ bits h 7 4 = bits g 7 4 := by
  have hR := bits_lt g 83 64
  have hA' := bits_lt g 27 8
  have hT := bits_lt g 7 4
  have hP := bits_lt g 3 0
  obtain ⟨q1, q2, q3, q4, q5, q6⟩ := tbPack_fields (R := bits g 83 64) (A := bits g 27 8 - 1) (T := bits g 7 4)
    (P := bits g 3 0) hR (by omega) hT hP hS1 hS2
  obtain ⟨r1, r2, r3, r4, r5, r6⟩ := tbPack_fields (R := bits g 83 64) (A := bits g 83 64) (T := bits g 7 4)
    (P := (bits g 3 0 + 1) % 16) (S := 0) hR hR hT (Nat.mod_lt _ (by decide)) (by decide) (by decide)
  have heval : tbStep g 1 b = if bits g 27 8 = 1 ∧ tbSectors g + b = 0 then
      tbPack (bits g 83 64) 0 (bits g 83 64) (bits g 7 4) ((bits g 3 0 + 1) % 16)
      else tbPack (bits g 83 64) (tbSectors g + b) (bits g 27 8 - 1) (bits g 7 4) (bits g 3 0) := by
    unfold tbStep tbEval
    simp only [q2, q3, q4, q5, q6, Bool.and_eq_true, decide_eq_true_eq]
    congr 1
    exact propext ⟨fun h => ⟨by omega, h.2⟩, fun h => ⟨by omega, h.2⟩⟩
  rw [heval]
  by_cases hlast : bits g 27 8 = 1 ∧ tbSectors g + b = 0
  · rw [if_pos hlast]
    exact ⟨r1, fun _ => ⟨r4, r3, r6⟩, fun h => absurd hlast h, r2, r5⟩
  · rw [if_neg hlast]
    exact ⟨q1, fun h => absurd h hlast, fun _ => ⟨by rw [q4]; omega, q3, q6⟩, q2, q5⟩

theorem bits_low (v : Nat) (hi : Nat) : bits v hi 0 = v % 2 ^ (hi + 1) := by simp [bits]

/-! ## The instructions -/

/-- A reference without a cause, to a granule that is not bad, raises nothing. -/
theorem tbCauses_nil {c : Ctx} {ref : Nat} {bad : Nat → Bool} (h : c.refCauses ref 16 16 = [])
    (hb : bad (c.s.granule (c.csmAt ref).1 (c.csmAt ref).2) = false) : c.tbCauses ref bad = [] := by
  unfold Ctx.tbCauses
  rw [h]
  simp only [hb, Bool.false_eq_true, if_false]

theorem tb_sources (a : BitVec 6) (w : Bool) (b : SrcB) : ∀ x ∈ group false a 1 w ++ bSrcs b false, x.vec = false :=
  scalar_append (group_scalar a 1 w) (bSrcs_scalar b)

/-- The context after a granule has been put. -/
def Ctx.withGranule (c : Ctx) (p : Nat × Nat) (g : Nat) : Ctx := { c with s := c.s.putGranule p g }

/-- R244: TBINIT puts a barrier with the count as reload and as arrivals due. -/
theorem tbinit_go {f : TbOps} {s : State} {c : Ctx}
    (h : UReady s c f.g false false (group false f.a 1 f.wA ++ bSrcs f.b false) [])
    (hr : c.refCauses (c.sreg f.a).toNat 16 16 = []) (hn : (c.sB f.b).toNat % 2 ^ 20 ≠ 0) :
    exec (.tbinit f) s = .next (((c.withGranule (c.csmAt (c.sreg f.a).toNat)
      (tbPack ((c.sB f.b).toNat % 2 ^ 20) 0 ((c.sB f.b).toNat % 2 ^ 20) 0 0)).advance (bWords f.b)).finish true) := by
  change execTbinit f s = _
  unfold execTbinit
  rw [run_of_issues h.1, u_go h (tb_sources _ _ _) _ (tbCauses_nil hr (by simpa [bits_low] using hn))]
  simp only [bits_low]
  rfl

/-- R246: TBWAIT goes on, as an acquire, once the phase differs. -/
theorem tbwait_go {f : TbOps} {s : State} {c : Ctx}
    (h : UReady s c f.g false false (group false f.a 1 f.wA ++ bSrcs f.b false) [])
    (hr : c.refCauses (c.sreg f.a).toNat 16 16 = [])
    (hb : tbBad (c.s.granule (c.csmAt (c.sreg f.a).toNat).1 (c.csmAt (c.sreg f.a).toNat).2) = false)
    (hp : bits (c.s.granule (c.csmAt (c.sreg f.a).toNat).1 (c.csmAt (c.sreg f.a).toNat).2) 3 0 ≠ (c.sB f.b).toNat % 16) :
    exec (.tbwait f) s = .next (((c.acquire 4).advance (bWords f.b)).finish true) := by
  change execTbwait f s = _
  unfold execTbwait
  rw [run_of_issues h.1, u_go h (tb_sources _ _ _) _ (tbCauses_nil hr hb)]
  simp only [bits_low (c.sB f.b).toNat]
  exact congrArg _ (if_neg hp)

/-- R245: TBARV steps the barrier and returns the phase before. -/
theorem tbarv_go {f : R3} {s : State} {c : Ctx}
    (h : UReady s c f.g false false (group false f.a 1 f.wA ++ bSrcs f.b false) (group false f.d 1 true))
    (hr : c.refCauses (c.sreg f.a).toNat 16 16 = []) {g : Nat}
    (hg : c.s.granule (c.csmAt (c.sreg f.a).toNat).1 (c.csmAt (c.sreg f.a).toNat).2 = g)
    (hb : tbBad g = false) (hA : bits g 27 8 ≠ 0) (hi : tbInRange (c.sB f.b).toInt = true)
    (hs : tbInRange (tbSectors g + (c.sB f.b).toInt) = true) :
    exec (.tbarv f) s = .next ((((c.withGranule (c.csmAt (c.sreg f.a).toNat) (tbStep g 1 (c.sB f.b).toInt)).setS f.d
      (BitVec.ofNat 32 (bits g 3 0))).advance (bWords f.b)).finish true) := by
  change execTbarv f s = _
  unfold execTbarv
  rw [run_of_issues h.1, u_go h (tb_sources _ _ _) _ (tbCauses_nil hr (by simp [hg, hb, hA, hi, hs]))]
  simp only [hg]
  rfl

/-- A scalar write that goes on: what it leaves of the context. -/
theorem setS_goneOn (c : Ctx) (n : Nat) (d : BitVec 6) (v : Word) :
    let e := (c.setS d v).advance n
    e.w = c.w ∧ e.W.rest = c.W.rest ∧ e.sp.rest = { c.sp.rest with pc := c.sp.pc + BitVec.ofNat 32 (4 * n) } ∧
      c.wroteS e [d] (fun _ => v) ∧ c.sameP e ∧ c.sameV e [] ∧ e.s = c.s := by
  obtain ⟨⟨hw, -, hW, hsp⟩, hwrote, hP, hV⟩ := setS_effect c n d v
  exact ⟨hw, hW, hsp, hwrote, hP, hV, (c.setS_spec d v).2.1⟩

theorem transactionBarriers : TransactionBarriers := by
  refine ⟨fun f s c h hr => ⟨fun hn => ?_, fun hb hp => ?_⟩, fun f s c h hr => ?_⟩
  · refine ⟨_, tbinit_go h hr hn, rfl, rfl, rfl, rfl, ?_, csm_putGranule c.s _ _⟩
    have hlt : (c.sB f.b).toNat % 2 ^ 20 < 2 ^ 20 := Nat.mod_lt _ (by decide)
    refine (granule_putGranule c.s _ (tbPack_fields hlt hlt (by decide) (by decide) (by decide) (by decide)).1).trans ?_
    simp [tbPack]
  · refine ⟨_, tbwait_go h hr hb hp, ⟨rfl, rfl, rfl⟩, ?_⟩
    exact issuer_s h.1.1 ▸ (sameMemory_acquire c 4).trans (sameMemory_finish ((c.acquire 4).advance (bWords f.b)) true)
  · intro p g sectors hb hA hi1 hi2 hs1 hs2
    have hgo := tbarv_go h hr rfl hb hA (by simp [tbInRange, hi1, hi2]) (by
      rw [tbInRange, Bool.and_eq_true, decide_eq_true_eq, decide_eq_true_eq]; exact ⟨hs1, hs2⟩)
    obtain ⟨hlt, hlast, hmore, hreload, htag⟩ := tbStep_arrival hA hs1 hs2
    obtain ⟨hw, hW, hsp, hwrote, hP, hV, hs⟩ := setS_goneOn (c.withGranule p (tbStep g 1 (c.sB f.b).toInt)) (bWords f.b) f.d
      (BitVec.ofNat 32 (bits g 3 0))
    refine ⟨_, hgo, ⟨hw, hW, hsp⟩, hP, hV, hwrote, ?_, ?_⟩
    · rw [hs]; rfl
    · rw [hs]
      have hgr : (c.withGranule p (tbStep g 1 (c.sB f.b).toInt)).s.granule p.1 p.2 = _ := granule_putGranule c.s p hlt
      rw [hgr]
      exact ⟨hlast, hmore, hreload, htag⟩

/-- Settles O33: the fences by their two sides, the barriers by the fields of their granule. -/
theorem fencesAndTransactions : Obligations.FencesAndTransactions := ⟨fences, transactionBarriers⟩

end Sys2Proof.Machine
end

section
/-! SUPPORT. What write-backs and dropped translations leave (R304, R321), and what a request that is performed leaves of the
partitions (R303, R317, R422). -/

namespace Sys2Proof.Machine

/-! ## Write-backs -/

theorem State.flushRegion_eq (s : State) (r : Nat) (f : Ent → Bool) (drop discard : Bool) :
    ∃ m rs, s.flushRegion r f drop discard = { s with mem := m, regions := rs } := ⟨_, _, rfl⟩

/-- Write-backs of several regions change memory and regions alone. -/
theorem State.flushRegions_eq (g : Nat → Nat) (f : Ent → Bool) (drop discard : Bool) (rs : List Nat) (s : State) :
    ∃ m R, rs.foldl (fun s i => s.flushRegion (g i) f drop discard) s = { s with mem := m, regions := R } := by
  induction rs generalizing s with
  | nil => exact ⟨s.mem, s.regions, rfl⟩
  | cons r rs ih =>
    obtain ⟨m, R, h⟩ := State.flushRegion_eq s (g r) f drop discard
    obtain ⟨m', R', h'⟩ := ih (s.flushRegion (g r) f drop discard)
    exact ⟨m', R', by rw [List.foldl_cons, h', h]⟩

theorem State.flushPart_eq (s : State) (p : Nat) (f : Ent → Bool) (drop discard : Bool) :
    ∃ m R, s.flushPart p f drop discard = { s with mem := m, regions := R } := State.flushRegions_eq id f drop discard _ s

/-- R321: dropping a range changes memory, regions, clusters and cores alone. -/
theorem State.dropRange_eq (s : State) (p start len : Nat) (leaf : Bool) :
    ∃ m R cl co, s.dropRange p start len leaf = { s with mem := m, regions := R, clusters := cl, cores := co } := by
  unfold State.dropRange
  cases leaf with
  | false => exact ⟨_, _, _, _, rfl⟩
  | true =>
    obtain ⟨m, R, h⟩ := State.flushPart_eq s p (s.entTouches p start len) true false
    simp only [if_true, h]
    exact ⟨_, _, _, _, rfl⟩

theorem State.setLeafBit_eq (s : State) (p bit : Nat) (b : Bool) (x : Leaf) :
    ∃ m R cl co, s.setLeafBit p bit b x = { s with mem := m, regions := R, clusters := cl, cores := co } := by
  obtain ⟨m, R, cl, co, h⟩ := State.dropRange_eq { s with mem := Memory.writeN s.mem x.at_ (leBytes 8
    (if pteBit (Memory.num s.mem x.at_ 8) bit == b then Memory.num s.mem x.at_ 8
     else if b then Memory.num s.mem x.at_ 8 + 2 ^ bit else Memory.num s.mem x.at_ 8 - 2 ^ bit)) } p x.va x.size true
  exact ⟨m, R, cl, co, h⟩

theorem State.setLeafBits_parts (p bit : Nat) (b : Bool) (xs : List Leaf) (s : State) :
    (xs.foldl (fun s x => s.setLeafBit p bit b x) s).parts = s.parts := by
  induction xs generalizing s with
  | nil => rfl
  | cons x xs ih =>
    obtain ⟨m, R, cl, co, h⟩ := State.setLeafBit_eq s p bit b x
    rw [List.foldl_cons, ih, h]

/-! ## Serving a tile -/

@[simp] theorem State.setPower_parts (s : State) (r : Nat) (R : Region) : (s.setPower r R).parts = s.parts := rfl

@[simp] theorem State.wakeRegion_parts (s : State) (r : Nat) : (s.wakeRegion r).parts = s.parts := by
  unfold State.wakeRegion
  simp only [apply_ite State.parts, State.setPower_parts, ite_self]

@[simp] theorem State.bufferLeaves_parts (s : State) (h : Place0) (asid : Nat) (ps : List (Nat × Nat × Nat)) :
    (s.bufferLeaves h asid ps).parts = s.parts := by
  unfold State.bufferLeaves
  induction ps generalizing s with
  | nil => rfl
  | cons p ps ih =>
    rw [List.foldl_cons, ih]
    dsimp only
    split <;> rfl

@[simp] theorem State.makeRoom_parts (s : State) (h : Place0) (ways : Nat) : (s.makeRoom h ways).parts = s.parts := by
  unfold State.makeRoom
  dsimp only
  split
  · rfl
  · split <;> rfl

@[simp] theorem performAt_parts (s : State) (grans : List (Nat × Nat)) (op : TOp) : (performAt s grans op).1.parts = s.parts := rfl

@[simp] theorem performEntry_parts (s : State) (h : Place0) (e : Ent) (op : TOp) (through keep : Bool) :
    (performEntry s h e op through keep).1.parts = s.parts := by
  unfold performEntry
  cases through <;> cases keep <;> rfl

@[simp] theorem windowAt_parts (s : State) (lender region tag pa : Nat) (op : TOp) :
    (windowAt s lender region tag pa op).1.parts = s.parts := by
  unfold windowAt
  simp only [performEntry_parts]
  split
  · rfl
  · exact State.makeRoom_parts ..

@[simp] theorem pageAt_parts (s : State) (q : Req) (tag pa : Nat) (op : TOp) : (pageAt s q tag pa op).1.parts = s.parts := by
  unfold pageAt
  split
  · exact windowAt_parts ..
  · exact performAt_parts ..

@[simp] theorem windowRead_parts (s : State) (q : Req) (tag : Nat) (g : Nat × Nat) :
    (windowRead s q tag g).1.parts = s.parts := by
  unfold windowRead
  split
  · rfl
  · exact pageAt_parts ..

@[simp] theorem windowPoke_parts (s : State) (q : Req) (tag : Nat) (g : Nat × Nat) (i : Nat) (b : Byte) :
    (windowPoke s q tag g i b).parts = s.parts := by
  unfold windowPoke
  dsimp only
  split
  · exact pageAt_parts ..
  · split
    · rw [pageAt_parts, pageAt_parts]
    · rfl

theorem windowTile_parts (s : State) (q : Req) (tag : Nat) (grans : List (Nat × Nat)) (op : TOp) :
    (windowTile s q tag grans op).1.parts = s.parts := by
  cases op with
  | read off n =>
    simp only [windowTile]
    generalize hz : (s, ([] : List (Nat × List Byte))) = z
    have hs : z.1.parts = s.parts := by rw [← hz]
    clear hz
    generalize ((List.range n).map fun i => (off + i) / 16).eraseDups = gs
    induction gs generalizing z with
    | nil => exact hs
    | cons g gs ih => exact ih _ ((windowRead_parts ..).trans hs)
  | write ws =>
    simp only [windowTile]
    induction ws generalizing s with
    | nil => rfl
    | cons w ws ih => rw [List.foldl_cons, ih, windowPoke_parts]

/-- A translation that fails is no success. -/
theorem translateAll_ne_ok {s t : State} {region slice : Nat} {q : Req} {vs : List Nat} {bs : List Byte} :
    translateAll s region slice q vs ≠ .inr (.ok t bs) := by
  induction vs with
  | nil => simp [translateAll]
  | cons va vs ih =>
    unfold translateAll
    split
    · simp
    · simp
    · split
      · simp
      · split
        · next z hz => intro h; cases h; exact ih hz
        · simp

/-- A miss that is performed leaves the partitions. -/
theorem serveMiss_parts {s t : State} {q : Req} {x : Tile} {u : Use} {op : TOp} {h : Place0} {bs : List Byte}
    (hok : serveMiss s q x u op h = .ok t bs) : t.parts = s.parts := by
  unfold serveMiss at hok
  split at hok
  · next z hz => exact absurd (hok ▸ hz) translateAll_ne_ok
  · next ps _ =>
    dsimp only at hok
    have hbuf := State.bufferLeaves_parts s h q.asid ps
    generalize s.bufferLeaves h q.asid ps = b at hok hbuf
    rw [← hbuf]
    split at hok
    · cases hok
    · split at hok
      · cases hok
      · split at hok <;> cases hok
      · next lender r _ =>
        rw [← State.wakeRegion_parts b r]
        split at hok
        · cases hok
        · split at hok
          · cases hok
          · split at hok
            · split at hok
              · cases hok
              · cases hok
                split
                · exact windowAt_parts ..
                · exact windowTile_parts ..
            · cases hok
      · split at hok
        · cases hok
        · split at hok
          · split at hok
            · cases hok
              split
              · exact windowAt_parts ..
              · exact windowTile_parts ..
            · split at hok
              · cases hok; exact performAt_parts ..
              · split at hok
                · cases hok
                · cases hok
                  rw [performEntry_parts]
                  split
                  · rfl
                  · exact State.makeRoom_parts ..
          · cases hok

theorem serveTile_parts {s t : State} {q : Req} {x : Tile} {u : Use} {op : TOp} {bs : List Byte}
    (hok : serveTile s q x u op = .ok t bs) : t.parts = s.parts := by
  unfold serveTile at hok
  dsimp only at hok
  split at hok
  · cases hok
  · rw [← State.wakeRegion_parts s (homeOf s q.part x).region]
    split at hok
    · exact serveMiss_parts hok
    · split at hok
      · cases hok
      · split at hok
        · cases hok
        · split at hok
          · cases hok
          · split at hok
            · cases hok
            · split at hok
              · cases hok; exact performEntry_parts ..
              · cases hok

theorem serveWriteParts_parts {s t : State} {q : Req} {bs cs : List Byte} {ps : List (Nat × Nat × Nat)}
    (hok : serveWriteParts s q bs ps = .ok t cs) : t.parts = s.parts := by
  induction ps generalizing s bs with
  | nil => cases hok; rfl
  | cons p ps ih =>
    obtain ⟨i, off, n⟩ := p
    unfold serveWriteParts at hok
    split at hok
    · next u _ hu => exact (ih hok).trans (serveTile_parts hu)
    · next hz => exact absurd hok (hz t cs)

/-- A write that is performed leaves the partitions. -/
theorem serveWrite_parts {s t : State} {q : Req} {va : Nat} {bs cs : List Byte} (hok : serveWrite s q va bs = .ok t cs) :
    t.parts = s.parts := serveWriteParts_parts hok

/-! ## Requests that leave -/

theorem State.sendOut_parts (s : State) (p : Nat) (princ : Word) (port pa dev : Nat) (kind : BitVec 8) (op len : Nat)
    (data : List Byte) (who : Asker) : (s.sendOut p princ port pa dev kind op len data false who).1.parts = s.parts := by
  unfold State.sendOut State.dispatchOut
  simp only [Bool.false_and, Bool.false_eq_true, if_false, List.isEmpty_nil, if_true]
  split
  · rfl
  · dsimp only; split <;> rfl

theorem State.sendFar_parts (s : State) (p : Nat) (princ : Word) (f : Far) (kind : BitVec 8) (op len : Nat) (data : List Byte)
    (who : Asker) : (s.sendFar p princ f kind op len data false who).1.parts = s.parts := by
  cases f with
  | port n pa dev => exact s.sendOut_parts ..
  | gate p r pa => rfl

/-- R464: a write of the front end that may be lost leaves the partitions. -/
theorem feTry_parts (s : State) (q : Req) (va : Nat) (bs : List Byte) : (feTry s q va bs).parts = s.parts := by
  unfold feTry
  generalize List.range (ceilDiv bs.length 16) = is
  induction is generalizing s with
  | nil => rfl
  | cons i is ih =>
    rw [List.foldl_cons, ih]
    dsimp only
    split
    · next h => exact serveWrite_parts h
    · split
      · exact s.sendFar_parts ..
      · rfl

end Sys2Proof.Machine
end

section
/-! SUPPORT. Packets that complete at acceptance (R398, R400), and the moves of pages and tensors (R305, R442). -/

namespace Sys2Proof.Machine

open Sys2Proof.Claims

/-! ## Packets -/

/-- A well-made packet whose lane advances does what its opcode says, and completes with its acceptance or waits. -/
theorem packetEvent_done {want : Pkt → Bool} {used : List (Nat × Nat)} {k : State → Nat → Vf → Lane → Pkt → PktEnd}
    {lane : Nat} {s u : State} {L : Lane} {v : Vf} {x : Pkt} {st d : Nat} (h : packetAt s lane L v x) (hw : want x = true)
    (hu : x.wellMade used = true) (hk : k s.beginStep L.vf v L x = .done u st d) :
    packetEvent want used k lane s = acked u lane L x st d := by
  obtain ⟨hlane, hnext, hdue, hbar⟩ := h
  simp only [packetEvent, hlane, Option.bind_some, hnext, Option.map_some, hw, hdue, hbar, hu, hk, Bool.not_true, Bool.false_or,
    Option.getD_some, Bool.false_eq_true, if_false, Bool.false_and]
  rfl

theorem packetEvent_park {want : Pkt → Bool} {used : List (Nat × Nat)} {k : State → Nat → Vf → Lane → Pkt → PktEnd}
    {lane : Nat} {s u : State} {L : Lane} {v : Vf} {x : Pkt} (h : packetAt s lane L v x) (hw : want x = true)
    (hu : x.wellMade used = true) (hk : k s.beginStep L.vf v L x = .park u) :
    packetEvent want used k lane s = .next (u.parkLane lane) := by
  obtain ⟨hlane, hnext, hdue, hbar⟩ := h
  simp only [packetEvent, hlane, Option.bind_some, hnext, Option.map_some, hw, hdue, hbar, hu, hk, Bool.not_true, Bool.false_or,
    Option.getD_some, Bool.false_eq_true, if_false, Bool.false_and]

/-- A packet without requests on their way starts with none. -/
theorem withFe_of_unasked {s : State} {L : Lane} (h : unasked s L) (f : State → Nat → FeOp → PktEnd) :
    withFe s L.vf L.queue f = f (asking s L) s.fresh (noRequests L) := by
  have hnone : (s.feOps.find? fun e => e.2.vf = L.vf && e.2.queue = L.queue) = none := by
    rw [List.find?_eq_none]
    exact fun e he => by simpa using h e he
  simp only [withFe, State.feStart, hnone]
  rfl

/-! ## COPY -/

theorem feReadAt_of_ok {k n : Nat} {q : Req} {va len : Nat} {s t : State} {bs : List Byte}
    (h : serveRead s q va len = .ok t bs) : feReadAt k n q va len s = .inl (t, bs) := by
  unfold feReadAt; rw [h]

theorem feRefused_of_ok {s t : State} {n : Nat} {q : Req} {o : FeOp} {va : Nat} {bs c : List Byte} (ho : o.writing = false)
    (h : serveWrite s q va bs = .ok t c) : feRefused s n q o va bs = none := by
  simp only [feRefused, ho, h, Bool.false_eq_true, if_false]

theorem feWriteAll_of_written {k n : Nat} {q : Req} {o : FeOp} {ws : List (Nat × List Byte)} {s t : State}
    (ho : o.writing = false) (h : written s q ws t) : feWriteAll k n q o ws s = .inl t := by
  obtain ⟨bs, h⟩ := h
  simp only [feWriteAll, ho, Bool.false_eq_true, if_false]
  split
  · next u c hz =>
    have hu : Served.ok u c = .ok t bs := hz.symm.trans h
    cases hu
    rfl
  · next hz => exact absurd h (hz t bs)

/-- R400: what a COPY refuses. -/
theorem copy_bad {lane : Nat} {s : State} {L : Lane} {v : Vf} {x : Pkt} (h : packetAt s lane L v x) (hop : x.op = 0x30)
    (hu : x.wellMade [(0x10, 24)] = true)
    (hbad : x.f 0x10 8 % 16 ≠ 0 ∨ x.f 0x18 8 % 16 ≠ 0 ∨ x.f 0x20 8 % 16 ≠ 0 ∨ x.f 0x20 8 < 16 ∨ 2 ^ 40 < x.f 0x20 8 ∨
      (2 ^ 57 - 2 ^ 48 < x.f 0x10 8 + x.f 0x20 8 ∨ 2 ^ 57 - 2 ^ 48 < x.f 0x18 8 + x.f 0x20 8)) :
    exec (.copyPacket lane) s = acked s.beginStep lane L x 0x2E 0 := by
  change execCopyPacket lane s = _
  unfold execCopyPacket
  refine packetEvent_done h (by simp [hop]) hu ?_
  have hp : physBase = 2 ^ 57 - 2 ^ 48 := rfl
  rw [← hp] at hbad
  dsimp only
  rw [if_pos (by simpa [or_assoc] using hbad)]
  rfl

/-- R400: a COPY that is read, stamped and written at once. -/
theorem copy_done {lane : Nat} {s : State} {L : Lane} {v : Vf} {x : Pkt} (h : packetAt s lane L v x) (hop : x.op = 0x30)
    (hu : x.wellMade [(0x10, 24)] = true)
    (hok : ¬(x.f 0x10 8 % 16 ≠ 0 ∨ x.f 0x18 8 % 16 ≠ 0 ∨ x.f 0x20 8 % 16 ≠ 0 ∨ x.f 0x20 8 < 16 ∨ 2 ^ 40 < x.f 0x20 8 ∨
      (2 ^ 57 - 2 ^ 48 < x.f 0x10 8 + x.f 0x20 8 ∨ 2 ^ 57 - 2 ^ 48 < x.f 0x18 8 + x.f 0x20 8)))
    (hfe : unasked s.beginStep L) {s1 t s3 s4 : State} {bs c : List Byte}
    (hread : serveRead (asking s.beginStep L) (feReq s.beginStep v.part L.vf) (x.f 0x10 8) (x.f 0x20 8) = .ok s1 bs)
    (hwrite : serveWrite (s1.modFe s.beginStep.fresh fun o => { o with got := some bs }) (feReq s.beginStep v.part L.vf)
      (x.f 0x18 8) bs = .ok t c)
    (hstamp : (s1.modFe s.beginStep.fresh fun o => { o with got := some bs }).stampRanges s.beginStep.fresh L.vf
      (feReq s.beginStep v.part L.vf) v [(x.f 0x18 8 / 65536 * 65536,
        (x.f 0x18 8 + x.f 0x20 8 + 65535) / 65536 * 65536 - x.f 0x18 8 / 65536 * 65536)] = (s3, false))
    (hw : written s3 (feReq s.beginStep v.part L.vf) (feRuns (x.f 0x18 8) bs) s4) :
    exec (.copyPacket lane) s = acked (s4.openPages v (x.f 0x18 8) (x.f 0x20 8)) lane L x 0 0 := by
  change execCopyPacket lane s = _
  unfold execCopyPacket
  refine packetEvent_done h (by simp [hop]) hu ?_
  have hp : physBase = 2 ^ 57 - 2 ^ 48 := rfl
  rw [← hp] at hok
  dsimp only
  rw [if_neg (by simpa [or_assoc] using hok), withFe_of_unasked hfe]
  have hgot : (noRequests L).got = none := rfl
  have hidle : (noRequests L).writing = false := rfl
  simp only [hgot, feReadAt_of_ok hread, feRefused_of_ok hidle hwrite, hstamp, feWriteAll_of_written hidle hw, Bool.false_eq_true,
    if_false]

/-! ## MIGRATE -/

/-- The leaves of a range that change their owner (R442). -/
def movedLeaves (toHost : Bool) (xs : List Leaf) : List Leaf := xs.filter fun y => pteHost y.e != toHost

/-- R442: a MIGRATE of whole leaves in the partition's memory moves those that have another owner, and stamps them. -/
theorem migrate_go {toHost : Bool} {b : State} {L : Lane} {v : Vf} {x : Pkt} (hva : x.f 0x10 8 % 65536 = 0)
    (h1 : 1 ≤ x.f 0x18 4) (h2 : x.f 0x18 4 ≤ 2 ^ 20) (hbusy : (b.part v.part).tuBusy = false) (hfe : unasked b L)
    {xs : List Leaf} (hxs : migLeaves b.mem v (x.f 0x18 4) (x.f 0x10 8) = .inl xs)
    (hin : ∀ y ∈ movedLeaves toHost xs, ∃ r, paRegion (pteFrame y.e) = some r ∧ b.inPart v.part r = true) :
    migrate toHost b L.vf v L x =
      migrateStamps ((movedLeaves toHost xs).foldl (fun t y => t.migrateLeaf L.vf v toHost y) (asking b L)) b.fresh L.vf v
        ((movedLeaves toHost xs).map fun y => (y.va, y.size)) := by
  have hargs : (x.f 0x10 8 % 65536 != 0 || decide (x.f 0x18 4 = 0) || decide (2 ^ 20 < x.f 0x18 4)) = false := by
    simp only [hva, bne_self_eq_false, Bool.false_or, Bool.or_eq_false_iff, decide_eq_false_iff_not]
    omega
  have hran : (noRequests L).ranges = none := rfl
  have hbusy' : ((asking b L).part v.part).tuBusy = false := hbusy
  have hxs' : migLeaves (asking b L).mem v (x.f 0x18 4) (x.f 0x10 8) = .inl xs := hxs
  unfold migrate
  simp only [hargs, Bool.false_eq_true, if_false, withFe_of_unasked hfe, hran, hbusy', hxs']
  rw [if_neg]
  · rfl
  · rw [List.any_eq_true]
    rintro ⟨y, hy, hyn⟩
    obtain ⟨r, hr, hp⟩ := hin y hy
    have hp' : (asking b L).inPart v.part r = true := hp
    simp [hr, hp'] at hyn

theorem migrateStamps_eq (s : State) (k n : Nat) (v : Vf) (rs : List (Nat × Nat)) :
    let r := s.stampRanges k n (feReq s v.part n) v rs
    migrateStamps s k n v rs =
      if r.2 = true then .park (r.1.modFe k fun o => { o with ranges := some rs }) else .done r.1 0 0 := rfl

/-- R442: a MIGRATE packet is parked while a stamp is to come, and else complete. -/
theorem migrate_packet {toHost : Bool} {i : Instr} {lane : Nat} {s : State} {L : Lane} {v : Vf} {x : Pkt}
    (hi : if toHost = true then i = Instr.migrateToHost lane ∧ x.f 0x1C 4 = 1
      else i = .migrateToDevice lane ∧ x.f 0x1C 4 = 0) (h : packetAt s lane L v x) (hop : x.op = 0x40)
    (hu : x.wellMade [(0x10, 16)] = true) {t : State} {k : Nat} {rs : List (Nat × Nat)}
    (hk : migrate toHost s.beginStep L.vf v L x = migrateStamps t k L.vf v rs) :
    let r := t.stampRanges k L.vf (feReq t v.part L.vf) v rs
    exec i s = if r.2 = true then .next ((r.1.modFe k fun o => { o with ranges := some rs }).parkLane lane)
      else acked r.1 lane L x 0 0 := by
  intro r
  rw [migrateStamps_eq] at hk
  cases toHost with
  | true =>
    obtain ⟨rfl, hto⟩ := hi
    change execMigrateToHost lane s = _
    unfold execMigrateToHost
    split
    · next hr => exact packetEvent_park h (by simp [hop, hto]) hu (hk.trans (if_pos hr))
    · next hr => exact packetEvent_done h (by simp [hop, hto]) hu (hk.trans (if_neg hr))
  | false =>
    obtain ⟨rfl, hto⟩ := hi
    change execMigrateToDevice lane s = _
    unfold execMigrateToDevice
    split
    · next hr => exact packetEvent_park h (by simp [hop, hto]) hu ((if_pos hto).trans (hk.trans (if_pos hr)))
    · next hr => exact packetEvent_done h (by simp [hop, hto]) hu ((if_pos hto).trans (hk.trans (if_neg hr)))

/-- Moving the listed bytes of a canonical memory, one by one. -/
theorem read_foldl_move {src : Memory} {a b n i n0 : Nat} (hi : i < n) (hwf : Memory.risingFrom n0 src = true) (dst : Memory) :
    Memory.read ((src.filter fun e => a ≤ e.1 && e.1 < a + n).foldl (fun m e => Memory.write m (b + (e.1 - a)) e.2) dst) (b + i) =
      (tfind src (a + i)).getD (Memory.read dst (b + i)) := by
  induction src generalizing n0 dst with
  | nil => rfl
  | cons e src ih =>
    obtain ⟨k, y⟩ := e
    simp only [Memory.risingFrom, Bool.and_eq_true] at hwf
    obtain ⟨-, hrest⟩ := hwf
    by_cases hin : a ≤ k ∧ k < a + n
    · rw [List.filter_cons_of_pos (by simpa using hin), List.foldl_cons, ih hrest, Memory.read_write]
      by_cases hk : k = a + i
      · rw [tfind_below hrest (by omega), if_pos (by omega), hk]
        simp [tfind]
      · rw [if_neg (by omega)]
        simp [tfind, hk]
    · rw [List.filter_cons_of_neg (by simpa using hin), ih hrest]
      have hk : k ≠ a + i := by omega
      simp [tfind, hk]

/-- A move copies a range of a canonical memory. -/
theorem read_moveBytes {src : Memory} (hwf : Memory.wf src = true) (a : Nat) (dst : Memory) (b : Nat) {n i : Nat} (hi : i < n) :
    Memory.read (moveBytes src a dst b n) (b + i) = Memory.read src (a + i) := by
  unfold moveBytes
  rw [read_foldl_move hi hwf, Memory.read_zeroN, if_pos (by omega)]
  rfl

/-- R442: after a move to the host, the host copy equals the frame. -/
theorem migrateLeaf_toHost (s : State) (n : Nat) (v : Vf) (y : Leaf) (hwf : Memory.wf (s.migrateLeaf n v true y).mem = true)
    (hsp : ∀ r ∈ s.spoiled, ¬(r.1 = n ∧ y.va ≤ r.2 ∧ r.2 < y.va + y.size)) {i : Nat} (hi : i < y.size) :
    Memory.read (s.migrateLeaf n v true y).host (v.mirror.toNat + y.va + i) =
      Memory.read (s.migrateLeaf n v true y).mem (pteFrame y.e + i) := by
  obtain ⟨m, R, hflush⟩ := State.flushPart_eq s v.part
    (fun e => e.grans.any fun g => g.2 != 0 && pteFrame y.e ≤ g.1 && g.1 < pteFrame y.e + y.size) true false
  have hclean : (s.spoiled.any fun r => decide (r.1 = n) && decide (y.va ≤ r.2) && decide (r.2 < y.va + y.size)) = false := by
    rw [List.any_eq_false]
    exact fun r hr => by simpa [and_assoc] using hsp r hr
  unfold State.migrateLeaf State.flushFrame at hwf ⊢
  simp only [hflush, hclean, Bool.false_eq_true, if_false, if_true] at hwf ⊢
  exact read_moveBytes hwf _ _ _ hi

/-! ## TENSOR -/

theorem not_tensorId {v : Vf} {id : Nat} (h : id < 32 ∨ v.ttlen ≤ id) : v.tensorId id = false := by
  simp only [Vf.tensorId, Bool.and_eq_false_iff, decide_eq_false_iff_not]; omega

theorem tensorId_of {v : Vf} {id : Nat} (h1 : 32 ≤ id) (h2 : id < v.ttlen) : v.tensorId id = true := by
  simp [Vf.tensorId, h1, h2]

/-- A TENSOR register command does what its body says of the packet. -/
theorem tensorRegister_done {lane : Nat} {s : State} {L : Lane} {v : Vf} {x : Pkt} (h : packetAt s lane L v x) (hop : x.op = 0x50)
    (hu : x.wellMade [(0x10, 16)] = true) (h0 : x.f 0x14 4 = 0) (hid : x.f 0x10 4 < 2 ^ 20) :
    (x.f 0x10 4 < 32 ∨ v.ttlen ≤ x.f 0x10 4 ∨ (v.asid, x.f 0x10 4) ∈ (s.beginStep.part v.part).registered →
      exec (.tensorRegister lane) s = acked s.beginStep lane L x 0x2F 0) ∧
    ∀ s1 bs, 32 ≤ x.f 0x10 4 → x.f 0x10 4 < v.ttlen → (v.asid, x.f 0x10 4) ∉ (s.beginStep.part v.part).registered →
      (s.beginStep.part v.part).tuBusy = false → paInside (v.desc (x.f 0x10 4)) 256 = true →
      feRead s.beginStep (feReq s.beginStep v.part L.vf) (x.f 0x18 8) 256 = .inl (s1, bs) →
      (tensorOk (Memory.writeN [] 0 bs) = false → exec (.tensorRegister lane) s = acked s1 lane L x 0x2F 0) ∧
      (tensorOk (Memory.writeN [] 0 bs) = true → exec (.tensorRegister lane) s =
        if s1.overlapsOwned v (readTensor (Memory.writeN [] 0 bs) 0 (x.f 0x10 4)) = true then acked s1 lane L x 0x30 0
        else acked (s1.registerTensor L.vf v (x.f 0x10 4) bs) lane L x 0 0) := by
  have hargs : (x.f 0x14 4 != 0 || decide (2 ^ 20 ≤ x.f 0x10 4)) = false := by simp [h0]; omega
  change (_ → execTensorRegister lane s = _) ∧ ∀ s1 bs, _ → _ → _ → _ → _ → _ →
    (_ → execTensorRegister lane s = _) ∧ (_ → execTensorRegister lane s = _)
  unfold execTensorRegister
  refine ⟨fun hbad => packetEvent_done h (by simp [hop, h0]) hu ?_, fun s1 bs h1 h2 hnew hbusy hpa hread => ?_⟩
  · simp only [hargs, Bool.false_eq_true, if_false]
    rw [if_pos]
    · rfl
    · rcases hbad with hb | hb | hb
      · simp [not_tensorId (.inl hb)]
      · simp [not_tensorId (.inr hb)]
      · simp [hb]
  · have hknown : (!v.tensorId (x.f 0x10 4) || (s.beginStep.part v.part).registered.contains (v.asid, x.f 0x10 4)) = false := by
      simp [tensorId_of h1 h2, hnew]
    refine ⟨fun hbad => packetEvent_done h (by simp [hop, h0]) hu ?_, fun hok => ?_⟩
    · simp only [hargs, hknown, hbusy, hpa, hread, hbad, Bool.false_eq_true, if_false, Bool.not_true, Bool.not_false, if_true]
      rfl
    · split
      · next hov =>
        refine packetEvent_done h (by simp [hop, h0]) hu ?_
        simp only [hargs, hknown, hbusy, hpa, hread, hok, hov, Bool.false_eq_true, if_false, Bool.not_true, if_true]
        rfl
      · next hov =>
        refine packetEvent_done h (by simp [hop, h0]) hu ?_
        simp only [hargs, hknown, hbusy, hpa, hread, hok, hov, Bool.false_eq_true, if_false, Bool.not_true]

/-- R305: TENSOR unregister of a registered tensor that no operation has captured. -/
theorem tensorUnregister_done {lane : Nat} {s : State} {L : Lane} {v : Vf} {x : Pkt} (h : packetAt s lane L v x)
    (hop : x.op = 0x50) (hu : x.wellMade [(0x10, 16)] = true) (h1 : x.f 0x14 4 = 1) (hlo : 32 ≤ x.f 0x10 4)
    (hhi : x.f 0x10 4 < v.ttlen) (hid : x.f 0x10 4 < 2 ^ 20)
    (hknown : (v.asid, x.f 0x10 4) ∈ (s.beginStep.part v.part).registered) (hbusy : (s.beginStep.part v.part).tuBusy = false)
    (hfree : ∀ o ∈ s.beginStep.ops, o.2.kind.names (x.f 0x10 4) = false) :
    exec (.tensorUnregister lane) s = acked (s.beginStep.unregisterTensor v (x.f 0x10 4)) lane L x 0 0 := by
  change execTensorUnregister lane s = _
  unfold execTensorUnregister
  refine packetEvent_done h (by simp [hop, h1]) hu ?_
  have hid' : ¬2 ^ 20 ≤ x.f 0x10 4 := by omega
  have hreg : (!v.tensorId (x.f 0x10 4) || !(s.beginStep.part v.part).registered.contains (v.asid, x.f 0x10 4)) = false := by
    simp [tensorId_of hlo hhi, hknown]
  have hops : (s.beginStep.ops.any fun o => decide (o.2.asid = v.asid) &&
      decide (((tfind s.beginStep.launches o.2.launch).map (·.vf)) = some L.vf) && o.2.kind.names (x.f 0x10 4)) = false := by
    rw [List.any_eq_false]
    exact fun o ho => by simp [hfree o ho]
  simp only [hid', hreg, hops, hbusy, Bool.false_eq_true, if_false]

theorem initStamps_parts (q : Req) (stamp n a : Nat) (s : State) : (initStamps q stamp n a s).parts = s.parts := by
  induction n generalizing a s with
  | zero => rfl
  | succ n ih => exact (ih _ _).trans (feTry_parts ..)

theorem part_of_parts_setPart {s t : State} {p : Nat} {P : Part} (h : t.parts = (s.setPart p P).parts) : t.part p = P := by
  rw [State.part, h]; exact State.setPart_part_self ..

/-- R305: a tensor that has been registered is registered. -/
theorem mem_registerTensor (s : State) (n : Nat) (v : Vf) (id : Nat) (bs : List Byte) :
    (v.asid, id) ∈ ((s.registerTensor n v id bs).part v.part).registered := by
  unfold State.registerTensor
  dsimp only
  split
  · rw [State.setPart_part_self]; exact List.mem_cons_self
  · rw [part_of_parts_setPart (initStamps_parts ..)]; exact List.mem_cons_self

theorem unregister_registered (P : Part) (asid n : Nat) : (asid, n) ∉ (P.unregister asid n).registered := by
  simp [Part.unregister]

/-- R305: a tensor that has been unregistered is registered no more. -/
theorem not_mem_unregisterTensor {s : State} {v : Vf} {id : Nat} {t : Tensor} (h : s.tensorOf v.part v id = some t) :
    (v.asid, id) ∉ ((s.unregisterTensor v id).part v.part).registered := by
  have hparts : (s.unregisterTensor v id).parts = (s.setPart v.part ((s.part v.part).unregister v.asid id)).parts := by
    unfold State.unregisterTensor
    simp only [h]
    split
    · rfl
    · rw [State.setLeafBits_parts]
      obtain ⟨m, R, hf⟩ := State.flushPart_eq (s.setPart v.part ((s.part v.part).unregister v.asid id)) v.part
        (fun e => e.asid = v.asid && e.tensor = id) true false
      rw [hf]
  rw [part_of_parts_setPart hparts]
  exact unregister_registered _ _ _

/-- Settles O48: what each packet does with its pages, byte by byte where a page moves. -/
theorem pagePacketResults : Obligations.PagePacketResults := by
  refine ⟨fun lane s L v x h => ⟨?_, ?_, ?_⟩, fun s n v y hwf hsp i hi => migrateLeaf_toHost s n v y hwf hsp hi, mem_registerTensor,
    fun s v id t => not_mem_unregisterTensor⟩
  · rintro ⟨hop, hu⟩
    refine ⟨copy_bad h hop hu, ?_⟩
    rintro s1 bs s2 t c s3 s4 hsrc hdst hk hmin hmax hout hfe hread rfl hwrite hstamp hw
    refine copy_done h hop hu ?_ hfe hread hwrite hstamp hw
    simp only [hsrc, hdst, hk, ne_eq, not_true_eq_false, false_or, not_or]
    exact ⟨by omega, by omega, not_or.mp hout⟩
  · rintro toHost i hi ⟨hop, hu⟩ hva h1 h2 hbusy hfe xs hxs todo hin
    exact migrate_packet hi h hop hu (migrate_go hva h1 h2 hbusy hfe hxs hin)
  · rintro ⟨hop, hu⟩
    exact ⟨fun h0 hid => tensorRegister_done h hop hu h0 hid, fun h1 hlo hhi hid hknown hbusy hfree =>
      tensorUnregister_done h hop hu h1 hlo hhi hid hknown hbusy hfree⟩

end Sys2Proof.Machine
end

section
/-! SUPPORT. Partitions as the hypervisor changes them: PCFG, remap, table updates, the cache split (R43-R45, R321, R345, R413,
R415). -/

namespace Sys2Proof.Machine

open Sys2Proof.Claims

theorem bits_zero (v n : Nat) : bits v n 0 = v % 2 ^ (n + 1) := by simp [bits]

theorem State.setPart_part_ne (s : State) {p q : Nat} (P : Part) (h : q ≠ p) : (s.setPart p P).part q = s.part q :=
  tget_tset_ne _ _ _ h

/-! ## PCFG (R413, R415) -/

/-- The two words with which software sets and clears RUN at a shape. -/
theorem pcfgWord_fields : ∀ n < 8,
    (bits (BitVec.ofNat 32 (n + 8)).toNat 2 0 = n ∧ (BitVec.ofNat 32 (n + 8)).getLsbD 3 = true ∧
      (BitVec.ofNat 32 (n + 8)).getLsbD 31 = false) ∧
    bits (BitVec.ofNat 32 n).toNat 2 0 = n ∧ (BitVec.ofNat 32 n).getLsbD 3 = false ∧
      (BitVec.ofNat 32 n).getLsbD 31 = false := by decide

/-- R415: a write of another shape, with RUN clear. -/
theorem pcfgWrite_shape {s : State} {p : Nat} {w : Word} (hr : s.recovery = false) (h31 : w.getLsbD 31 = false)
    (h3 : w.getLsbD 3 = false) (hsh : w.toNat % 8 ≠ (s.part p).shape) :
    s.pcfgWrite p w = if s.shapeOk p (w.toNat % 8) then s.reshape p (w.toNat % 8) else s.pcfgRefuse p := by
  have hsh' : (w.toNat % 8 != (s.part p).shape) = true := by simpa using hsh
  simp only [State.pcfgWrite, hr, h31, h3, bits_zero, Nat.reduceAdd, Nat.reducePow, hsh', Bool.false_eq_true, if_false, Bool.true_or,
    Bool.not_false, Bool.true_and, if_true]

/-- R415: a write of RUN while it is clear. -/
theorem pcfgWrite_run {s : State} {p : Nat} (hr : s.recovery = false) (h8 : (s.part p).shape < 8)
    (hrun : (s.part p).run = false) :
    s.pcfgWrite p (BitVec.ofNat 32 ((s.part p).shape + 8)) =
      if (s.part p).runOk then
        let t := s.setPart p { s.part p with run := true, busy := false, state := 2, fault := false }
        if (s.part p).fault then t.signal none 0 else t
      else s.pcfgRefuse p := by
  obtain ⟨⟨hb, h3, h31⟩, -⟩ := pcfgWord_fields _ h8
  simp only [State.pcfgWrite, hr, h31, h3, hb, hrun, Bool.false_eq_true, if_false, bne_self_eq_false, Bool.not_true, Bool.and_false,
    Bool.or_false, Bool.not_false, Bool.and_true, if_true]

/-- R415: a write of PCFG that clears RUN. -/
theorem pcfgWrite_suspend {s : State} {p : Nat} (hr : s.recovery = false) (h8 : (s.part p).shape < 8)
    (hrun : (s.part p).run = true) (h3' : (s.part p).state ≠ 3) :
    s.pcfgWrite p (BitVec.ofNat 32 (s.part p).shape) =
      let t := s.setPart p { s.part p with run := false, busy := true }
      (t.partBlocks p).foldl (fun s b => s.requestStop b .preempt) t := by
  obtain ⟨-, hb, h3, h31⟩ := pcfgWord_fields _ h8
  simp only [State.pcfgWrite, hr, h31, h3, hb, hrun, h3', Bool.false_eq_true, if_false, bne_self_eq_false, Bool.not_false,
    Bool.and_true, if_true, decide_false, Bool.or_false, Bool.false_and]

/-- R415: what an accepted SHAPE write changes. -/
theorem reshape_parts (s : State) (p sh : Nat) :
    let t := s.reshape p sh
    t.part p = { s.part p with shape := sh, state := if sh = 0 then 0 else 1, run := false, committed := false, unitTab := [],
                               tchashk := (t.part p).tchashk } ∧
      (sh = 0 → (t.part p).tchashk = (s.part p).tchashk) ∧ (∀ q, q ≠ p → t.part q = s.part q) ∧
      t = { s with parts := t.parts, regions := t.regions, mem := t.mem, draws := t.draws } := by
  obtain ⟨m, R, h⟩ := State.flushRegions_eq (p + ·) (fun _ => true) true false (List.range (shapeRegions sh)) s
  unfold State.reshape
  simp only [h]
  split
  · next h0 =>
    refine ⟨?_, fun _ => ?_, fun q hq => State.setPart_part_ne _ _ hq, rfl⟩
    · simp [State.part, h0]
    · simp [State.part]
  · next h0 =>
    refine ⟨?_, fun e => absurd e h0, fun q hq => ?_, rfl⟩
    · simp [State.drawKey, State.part]
    · exact (State.setPart_part_ne _ _ hq).trans (State.setPart_part_ne _ _ hq)

/-! ## Stops that are requested (R363) -/

/-- A block of a group for which a stop is requested. -/
def Block.asked (why : StopWhy) (B : Block) : Block :=
  if B.saved then B
  else match B.stop with
    | none => { B with stop := some why, escalated := false }
    | some old => if old.bare && !why.bare then { B with stop := some why } else B

theorem Block.asked_frame (why : StopWhy) (B : Block) :
    (B.asked why).group = B.group ∧ (B.asked why).ended = B.ended := by
  unfold Block.asked
  split
  · exact ⟨rfl, rfl⟩
  · split
    · exact ⟨rfl, rfl⟩
    · split <;> exact ⟨rfl, rfl⟩

/-- A block asked to stop for PREEMPT stays as it is when asked again. -/
theorem Block.asked_asked (B : Block) : (B.asked .preempt).asked .preempt = B.asked .preempt := by
  have hp : StopWhy.bare .preempt = false := rfl
  cases hsv : B.saved with
  | true => simp [Block.asked, hsv]
  | false =>
    cases hst : B.stop with
    | none => simp [Block.asked, hsv, hst, hp]
    | some old => cases hb : old.bare <;> simp [Block.asked, hsv, hst, hb, hp]

/-- R363: what requests for PREEMPT change: the blocks of a set, each asked. -/
structure Asks (ks : Nat → Prop) (s t : State) : Prop where
  frame : t = { s with blocks := t.blocks }
  asked : ∀ i, ks i → tfind t.blocks i = (tfind s.blocks i).map (Block.asked .preempt)
  other : ∀ i, ¬ks i → tfind t.blocks i = tfind s.blocks i

theorem Asks.refl (s : State) : Asks (fun _ => False) s s := ⟨rfl, fun _ => False.elim, fun _ _ => rfl⟩

theorem Asks.trans {k l : Nat → Prop} {s t u : State} (h : Asks k s t) (g : Asks l t u) : Asks (fun i => k i ∨ l i) s u where
  frame := by rw [g.frame, h.frame]
  asked i hi := by
    by_cases hl : l i
    · rw [g.asked i hl]
      by_cases hk : k i
      · rw [h.asked i hk, Option.map_map]
        exact congrArg (Option.map · _) (funext Block.asked_asked)
      · rw [h.other i hk]
    · rw [g.other i hl, h.asked i (hi.resolve_right hl)]
  other i hi := by rw [g.other i fun e => hi (.inr e), h.other i fun e => hi (.inl e)]

theorem asks_one (s : State) (k : Nat) :
    Asks (· = k) s { s with blocks := tmod s.blocks k (Block.asked .preempt) } :=
  ⟨rfl, fun i hi => by rw [tfind_tmod, if_pos hi], fun i hi => by rw [tfind_tmod, if_neg hi]⟩

/-- Who belongs to a block's group does not depend on stops. -/
theorem Asks.members {k : Nat → Prop} {s t : State} (h : Asks k s t) (b : Nat) : t.members b = s.members b := by
  have hg : t.groups = s.groups := by rw [h.frame]
  have hb : ∀ i, (tfind t.blocks i).map (fun B => (B.group, B.ended)) = (tfind s.blocks i).map fun B => (B.group, B.ended) := by
    intro i
    by_cases hi : k i
    · rw [h.asked i hi, Option.map_map]
      refine congrArg (Option.map · _) (funext fun B => ?_)
      obtain ⟨h1, h2⟩ := B.asked_frame .preempt
      simp [h1, h2]
    · rw [h.other i hi]
  have he : ∀ i, ((tfind t.blocks i).map fun K => !K.ended) = (tfind s.blocks i).map fun K => !K.ended := fun i => by
    simpa [Option.map_map, Function.comp_def] using congrArg (Option.map fun x => !x.2) (hb i)
  have hgr : (tfind t.blocks b).map (·.group) = (tfind s.blocks b).map (·.group) := by
    simpa [Option.map_map, Function.comp_def] using congrArg (Option.map Prod.fst) (hb b)
  unfold State.members
  cases ht : tfind t.blocks b with
  | none =>
    cases hs : tfind s.blocks b with
    | none => rfl
    | some A => rw [ht, hs] at hgr; cases hgr
  | some B =>
    cases hs : tfind s.blocks b with
    | none => rw [ht, hs] at hgr; cases hgr
    | some A =>
      rw [ht, hs] at hgr
      have hgr' : B.group = A.group := Option.some.inj hgr
      simp only [hg, he, hgr']

/-- R363: a requested stop reaches the block's whole group. -/
theorem asks_requestStop (s : State) (b : Nat) : Asks (· ∈ s.members b) s (s.requestStop b .preempt) := by
  suffices h : ∀ (ks : List Nat) (s : State),
      Asks (· ∈ ks) s (ks.foldl (fun s k => { s with blocks := tmod s.blocks k (Block.asked .preempt) }) s) from h _ s
  intro ks
  induction ks with
  | nil => intro s; simpa using Asks.refl s
  | cons k ks ih => intro s; simpa using (asks_one s k).trans (ih _)

/-- Stops requested for several blocks reach all their groups. -/
theorem asks_requestStops (bs : List Nat) (s : State) :
    Asks (fun i => ∃ b ∈ bs, i ∈ s.members b) s (bs.foldl (fun s b => s.requestStop b .preempt) s) := by
  induction bs generalizing s with
  | nil => simpa using Asks.refl s
  | cons b bs ih =>
    have h := asks_requestStop s b
    simpa [h.members] using h.trans (ih _)

theorem mem_partBlocks {s : State} {p b : Nat} {B : Block} {K : Launch} (hB : tfind s.blocks b = some B)
    (hK : tfind s.launches B.launch = some K) (hp : K.part = p) (he : B.ended = false) (hs : B.saved = false) :
    b ∈ s.partBlocks p :=
  List.mem_map.mpr ⟨(b, B), List.mem_filter.mpr ⟨mem_of_tfind hB, by simp [hK, hp, he, hs]⟩, rfl⟩

/-! ## Remap (R43-R45) -/

theorem eraseDups_of_nodup {xs : List Nat} (h : xs.Nodup) : xs.eraseDups = xs := by
  induction xs with
  | nil => rfl
  | cons x xs ih =>
    obtain ⟨hx, hxs⟩ := List.nodup_cons.mp h
    have hf : (xs.filter fun y => !y == x) = xs := List.filter_eq_self.mpr fun y hy => by
      have : y ≠ x := fun e => hx (e ▸ hy)
      simpa using this
    rw [List.eraseDups_cons, hf, ih hxs]

/-- A table numbered from n on. -/
theorem tfind_mapIdx {α β : Type} (g : α → β) (xs : List α) (n i : Nat) :
    tfind (xs.mapIdx fun j x => (j + n, g x)) (i + n) = xs[i]?.map g := by
  induction xs generalizing n i with
  | nil => rfl
  | cons x xs ih =>
    rw [List.mapIdx_cons]
    cases i with
    | zero => simp [tfind]
    | succ i =>
      have h := ih (n + 1) i
      simp only [tfind, Nat.zero_add, Nat.add_right_comm _ 1 n]
      rw [if_neg (by omega)]
      simpa [Nat.add_assoc, Nat.add_comm 1 n] using h

theorem remapEntries_get {s : State} {p i : Nat} (hi : i < 8 * s.partRegions p) :
    (s.remapEntries p)[i]? = some (tget 0 (s.part p).remap i) := by
  simp [State.remapEntries, hi]

/-- R45: a commit is accepted of entries that are all valid, of clusters of the partition, and differ. -/
theorem remapOk_of {s : State} {p : Nat} (h1 : (s.part p).state = 1)
    (h : ∀ i, i < 8 * s.partRegions p → (tget 0 (s.part p).remap i).getLsbD 8 = true ∧
      (tget 0 (s.part p).remap i).toNat % 256 < 216 ∧
      s.inPart p (clusterRegion ((tget 0 (s.part p).remap i).toNat % 256)) = true)
    (hne : ∀ i j, i < 8 * s.partRegions p → j < 8 * s.partRegions p →
      (tget 0 (s.part p).remap i).toNat % 256 = (tget 0 (s.part p).remap j).toNat % 256 → i = j) : s.remapOk p = true := by
  have hnd : ((s.remapEntries p).map fun w => bits w.toNat 7 0).Nodup := by
    simp only [State.remapEntries, List.map_map]
    refine List.pairwise_map.mpr (List.Pairwise.imp_of_mem (fun {i j} hi hj hij e => hij ?_) List.nodup_range)
    exact hne i j (List.mem_range.mp hi) (List.mem_range.mp hj) (by simpa [bits_zero] using e)
  unfold State.remapOk
  simp only [eraseDups_of_nodup hnd, h1, decide_true, Bool.true_and, Bool.and_true, Bool.and_eq_true, List.all_eq_true,
    List.mem_map]
  refine ⟨fun w hw => ?_, fun c hc => ?_⟩
  · obtain ⟨i, hi, rfl⟩ := List.mem_map.mp hw
    exact (h i (List.mem_range.mp hi)).1
  · obtain ⟨w, hw, rfl⟩ := hc
    obtain ⟨i, hi, rfl⟩ := List.mem_map.mp hw
    obtain ⟨-, h216, hin⟩ := h i (List.mem_range.mp hi)
    simp only [bits_zero, Nat.reduceAdd, Nat.reducePow, decide_eq_true_eq]
    exact ⟨h216, hin⟩

/-! ## Table updates (R321) -/

theorem State.inPart_congr {s t : State} (h : t.parts = s.parts) (p r : Nat) : t.inPart p r = s.inPart p r := by
  have hr : t.partRegions p = s.partRegions p := by unfold State.partRegions State.part; rw [h]
  unfold State.inPart
  rw [hr]

/-- R321: no translation of a dropped range stays in a region of the partition. -/
theorem meets_of_mem_dropRange {s : State} {p start len r : Nat} {leaf : Bool} (hr : s.inPart p r = true)
    {x : Trans} (hx : x ∈ ((s.dropRange p start len leaf).region r).tlb) :
    meets (x.page * levelBytes x.level) (levelBytes x.level) start len = false := by
  unfold State.dropRange at hx
  have hparts : (if leaf then s.flushPart p (s.entTouches p start len) true false else s).parts = s.parts := by
    obtain ⟨m, R, h⟩ := State.flushPart_eq s p (s.entTouches p start len) true false
    split
    · rw [h]
    · rfl
  generalize (if leaf then s.flushPart p (s.entTouches p start len) true false else s) = u at hx hparts
  have hu : u.inPart p r = true := (State.inPart_congr hparts p r).trans hr
  simp only [State.region, tget, tfind_tmap] at hx
  cases hR : tfind u.regions r with
  | none => rw [hR] at hx; exact absurd hx List.not_mem_nil
  | some R =>
    rw [hR] at hx
    simp only [Option.map_some, Option.getD_some, hu, if_true, List.mem_filter, Bool.not_eq_true'] at hx
    exact hx.2

theorem dropRange_parts (s : State) (p start len : Nat) (leaf : Bool) : (s.dropRange p start len leaf).parts = s.parts := by
  obtain ⟨m, R, cl, co, h⟩ := State.dropRange_eq s p start len leaf
  rw [h]

/-! ## The cache split (R345) -/

/-- The scratchpad of a region holds free values. -/
def State.drawScratch (s : State) (r : Nat) : State :=
  { s.setRegion r { s.region r with rsp := [], rspDraw := some s.draws } with draws := s.draws + 1 }

theorem State.drawScratch_region (s : State) (r i : Nat) :
    ((s.drawScratch r).region i).rspDraw = if i = r then some s.draws else (s.region i).rspDraw := by
  simp only [State.drawScratch, State.region, State.setRegion, tget_tset]
  split <;> rfl

theorem drawScratches_parts (rs : List Nat) (s : State) : (rs.foldl State.drawScratch s).parts = s.parts := by
  induction rs generalizing s with
  | nil => rfl
  | cons r rs ih => exact ih _

theorem drawScratches_keep {i : Nat} (rs : List Nat) {s : State} (h : (s.region i).rspDraw ≠ none) :
    ((rs.foldl State.drawScratch s).region i).rspDraw ≠ none := by
  induction rs generalizing s with
  | nil => exact h
  | cons r rs ih =>
    refine ih ?_
    rw [State.drawScratch_region]
    split
    · exact Option.some_ne_none _
    · exact h

theorem drawScratches_draw {i : Nat} {rs : List Nat} (hi : i ∈ rs) (s : State) :
    ((rs.foldl State.drawScratch s).region i).rspDraw ≠ none := by
  induction rs generalizing s with
  | nil => cases hi
  | cons r rs ih =>
    rcases List.mem_cons.mp hi with rfl | h
    · refine drawScratches_keep rs ?_
      rw [State.drawScratch_region, if_pos rfl]
      exact Option.some_ne_none _
    · exact ih h _

/-- R345: an accepted cache split. -/
theorem tccfgWrite_ok {s : State} {p : Nat} {v : Word} (h31 : v.getLsbD 31 = false) (h1 : (s.part p).state = 1)
    (h8 : v.toNat % 16 ≤ 8) : ∃ u : State, u.parts = s.parts ∧
      exec (.tccfgWrite p v) s = .next (((s.regionsOf p).foldl State.drawScratch u).setPart p
        { s.part p with tccfg := v.toNat % 16 }) := by
  obtain ⟨m, R, h⟩ := State.flushPart_eq s p (fun _ => true) true false
  refine ⟨{ s with mem := m, regions := R }, rfl, ?_⟩
  have hpart : ((s.regionsOf p).foldl State.drawScratch { s with mem := m, regions := R }).part p = s.part p := by
    rw [State.part, drawScratches_parts]; rfl
  have hgo : ((s.part p).state != 1 || decide (8 < v.toNat % 16)) = false := by simpa [h1] using h8
  change execTccfgWrite p v s = _
  unfold execTccfgWrite
  simp only [h31, Bool.false_eq_true, if_false, bits_zero, Nat.reduceAdd, Nat.reducePow, hgo, h]
  change Host.Outcome.next (State.setPart ((s.regionsOf p).foldl State.drawScratch { s with mem := m, regions := R }) p
    { State.part ((s.regionsOf p).foldl State.drawScratch { s with mem := m, regions := R }) p with tccfg := v.toNat % 16 }) = _
  rw [hpart]

/-! ## The events of a partition -/

theorem partitionShape_ok {s : State} (hr : s.recovery = false) {p : Nat} {v : Word} (h31 : v.getLsbD 31 = false)
    (h3 : v.getLsbD 3 = false) (hsh : v.toNat % 8 ≠ (s.part p).shape) :
    exec (.partitionShape p v) s =
      .next (if s.shapeOk p (v.toNat % 8) then s.reshape p (v.toNat % 8) else s.setPart p { s.part p with err := true }) :=
  congrArg Host.Outcome.next (pcfgWrite_shape hr h31 h3 hsh)

theorem runOk_iff (P : Part) (h : P.state = 1 ∨ P.state = 2) :
    P.runOk = true ↔ P.shape ≠ 0 ∧ P.committed = true ∧ P.prmapBusy = false ∧ P.psupv.getLsbD 0 = true ∧ P.lsavelen ≠ 0 := by
  have h' : (decide (P.state = 1) || decide (P.state = 2)) = true := by simpa using h
  simp only [Part.runOk, h', Bool.and_true, Bool.and_eq_true, bne_iff_ne, Bool.not_eq_true', ne_eq, and_assoc]

theorem partitionRun_next {s : State} (hr : s.recovery = false) {p : Nat} (h8 : (s.part p).shape < 8)
    (hrun : (s.part p).run = false) (hst : (s.part p).state = 1 ∨ (s.part p).state = 2) :
    let P := s.part p
    let t := s.setPart p { P with run := true, busy := false, state := 2, fault := false }
    exec (.partitionRun p) s = .next
      (if P.shape ≠ 0 ∧ P.committed = true ∧ P.prmapBusy = false ∧ P.psupv.getLsbD 0 = true ∧ P.lsavelen ≠ 0 then
        if P.fault = true then { t with msi := s.msi ++ [{ vf := none, vector := 0 }] } else t
       else s.setPart p { P with err := true }) := by
  refine congrArg Host.Outcome.next ((pcfgWrite_run hr h8 hrun).trans ?_)
  simp only [runOk_iff _ hst]
  rfl

theorem partitionSuspend_next {s : State} (hr : s.recovery = false) {p : Nat} (h8 : (s.part p).shape < 8)
    (hrun : (s.part p).run = true) (h3 : (s.part p).state ≠ 3) : ∃ t, exec (.partitionSuspend p) s = .next t ∧
      t = { s with parts := t.parts, blocks := t.blocks } ∧ t.part p = { s.part p with run := false, busy := true } ∧
      ∀ b B K, tfind s.blocks b = some B → tfind s.launches B.launch = some K → K.part = p → B.ended = false →
        B.saved = false → B.stop = none → b ∈ s.members b → (tfind t.blocks b).map (·.stop) = some (some .preempt) := by
  refine ⟨_, congrArg Host.Outcome.next (pcfgWrite_suspend hr h8 hrun h3), ?_⟩
  dsimp only
  have hb : ∀ b B K, tfind s.blocks b = some B → tfind s.launches B.launch = some K → K.part = p → B.ended = false →
      B.saved = false → b ∈ (s.setPart p { s.part p with run := false, busy := true }).partBlocks p :=
    fun b B K hB hK hp he hs => mem_partBlocks (K := K) hB hK hp he hs
  have h := asks_requestStops ((s.setPart p { s.part p with run := false, busy := true }).partBlocks p)
    (s.setPart p { s.part p with run := false, busy := true })
  generalize (s.setPart p { s.part p with run := false, busy := true }).partBlocks p = bs at h hb
  generalize bs.foldl (fun s b => s.requestStop b .preempt) (s.setPart p { s.part p with run := false, busy := true }) = t at h
  refine ⟨?_, ?_, fun b B K hB hK hp he hs hst hm => ?_⟩
  · rw [h.frame]; rfl
  · rw [h.frame]; exact State.setPart_part_self ..
  · rw [h.asked b ⟨b, hb b B K hB hK hp he hs, hm⟩]
    simp [hB, Block.asked, hs, hst]

theorem remapCommit_ok {s : State} {p : Nat} (hok : s.remapOk p = true) : ∃ t, exec (.remapCommit p) s = .next t ∧
    t = s.setPart p { s.part p with prmapBusy := true, committed := false, unitTab := (t.part p).unitTab } ∧
    ∀ i, i < 8 * s.partRegions p → tfind (t.part p).unitTab i = some ((tget 0 (s.part p).remap i).toNat % 256) := by
  refine ⟨s.setPart p { s.part p with
    prmapBusy := true, committed := false, unitTab := (s.remapEntries p).mapIdx fun i w => (i, bits w.toNat 7 0) },
    ?_, ?_, fun i hi => ?_⟩
  · change execRemapCommit p s = _
    unfold execRemapCommit
    simp only [hok, if_true]
  · rw [State.setPart_part_self]
  · rw [State.setPart_part_self]
    have h := tfind_mapIdx (fun w : Word => bits w.toNat 7 0) (s.remapEntries p) 0 i
    rw [remapEntries_get hi] at h
    simpa [bits_zero] using h

theorem remapCommit_refused {s : State} {p : Nat} (h1 : (s.part p).state ≠ 1) :
    exec (.remapCommit p) s = .next (s.setPart p { s.part p with prmapErr := true }) := by
  change execRemapCommit p s = _
  unfold execRemapCommit
  simp [State.remapOk, h1]

theorem tableUpdate_next {s : State} {p : Nat} (hok : (s.part p).tuRefused = false)
    (hpa : paInside (s.part p).tupa.toNat 8 = true) : ∃ t, exec (.tableUpdate p) s = .next t ∧
      t = { s with parts := t.parts, mem := t.mem } ∧ (∀ q, q ≠ p → t.part q = s.part q) ∧
      t.part p = { s.part p with tuBusy := true, tuRange := (t.part p).tuRange, tuLeaf := (t.part p).tuLeaf } ∧
      Memory.num t.mem (s.part p).tupa.toNat 8 = (s.part p).tuval.toNat ∧
      ∀ a, a < (s.part p).tupa.toNat ∨ (s.part p).tupa.toNat + 8 ≤ a → Memory.read t.mem a = Memory.read s.mem a := by
  have hex : ∃ n leaf, exec (.tableUpdate p) s = .next ({ s with
      mem := Memory.writeN s.mem (s.part p).tupa.toNat (leBytes 8 (s.part p).tuval.toNat) }.setPart p
        { s.part p with tuBusy := true, tuRange := n, tuLeaf := leaf }) := by
    change ∃ n leaf, execTableUpdate p s = _
    unfold execTableUpdate
    simp only [hok, hpa, Bool.false_eq_true, if_false, Bool.not_true]
    exact ⟨_, _, rfl⟩
  obtain ⟨n, leaf, hex⟩ := hex
  refine ⟨_, hex, rfl, fun q hq => State.setPart_part_ne _ _ hq, ?_, ?_, fun a ha => ?_⟩
  · rw [State.setPart_part_self]
  · exact (num_writeN_self ..).trans (Nat.mod_eq_of_lt (s.part p).tuval.isLt)
  · exact read_writeN_outside _ _ (by rwa [length_leBytes])

theorem tableUpdateDone_next {s : State} {p : Nat} (hb : (s.part p).tuBusy = true) :
    ∃ t, exec (.tableUpdateDone p) s = .next t ∧
      t.part p = { s.part p with tuBusy := false, tuRange := (0, 0), tuLeaf := false } ∧ (∀ q, q ≠ p → t.part q = s.part q) ∧
      ∀ r, s.inPart p r = true → ∀ x ∈ (t.region r).tlb,
        meets (x.page * levelBytes x.level) (levelBytes x.level) (s.part p).tuRange.1 (s.part p).tuRange.2 = false := by
  have hparts := dropRange_parts s p (s.part p).tuRange.1 (s.part p).tuRange.2 (s.part p).tuLeaf
  have htlb : ∀ r, s.inPart p r = true →
      ∀ x ∈ ((s.dropRange p (s.part p).tuRange.1 (s.part p).tuRange.2 (s.part p).tuLeaf).region r).tlb,
      meets (x.page * levelBytes x.level) (levelBytes x.level) (s.part p).tuRange.1 (s.part p).tuRange.2 = false :=
    fun r hr x hx => meets_of_mem_dropRange hr hx
  have hex : exec (.tableUpdateDone p) s =
      .next (let u := s.dropRange p (s.part p).tuRange.1 (s.part p).tuRange.2 (s.part p).tuLeaf
        u.setPart p { u.part p with tuBusy := false, tuRange := (0, 0), tuLeaf := false }) := by
    change execTableUpdateDone p s = _
    unfold execTableUpdateDone
    simp only [hb, if_true]
  generalize s.dropRange p (s.part p).tuRange.1 (s.part p).tuRange.2 (s.part p).tuLeaf = u at hparts htlb hex
  have hpart : ∀ q, u.part q = s.part q := fun q => by simp only [State.part, hparts]
  refine ⟨_, hex, ?_, fun q hq => ?_, htlb⟩
  · rw [State.setPart_part_self, hpart]
  · rw [State.setPart_part_ne _ _ hq, hpart]

theorem tccfgWrite_next {s : State} {p : Nat} {v : Word} (h31 : v.getLsbD 31 = false) (h1 : (s.part p).state = 1)
    (h8 : v.toNat % 16 ≤ 8) : ∃ t, exec (.tccfgWrite p v) s = .next t ∧
      t.part p = { s.part p with tccfg := v.toNat % 16 } ∧ (∀ q, q ≠ p → t.part q = s.part q) ∧
      ∀ r ∈ s.regionsOf p, (t.region r).rspDraw ≠ none := by
  obtain ⟨u, hu, hex⟩ := tccfgWrite_ok h31 h1 h8
  refine ⟨_, hex, State.setPart_part_self .., fun q hq => ?_, fun r hr => drawScratches_draw hr u⟩
  rw [State.setPart_part_ne _ _ hq, State.part, drawScratches_parts, hu]
  rfl

theorem tccfgWrite_refused {s : State} {p : Nat} {v : Word} (h31 : v.getLsbD 31 = false)
    (h : (s.part p).state ≠ 1 ∨ 8 < v.toNat % 16) :
    exec (.tccfgWrite p v) s = .next (s.setPart p { s.part p with tccfgErr := true }) := by
  have h' : ((s.part p).state != 1 || decide (8 < v.toNat % 16)) = true := by simpa using h
  change execTccfgWrite p v s = _
  unfold execTccfgWrite
  simp only [h31, Bool.false_eq_true, if_false, bits_zero, Nat.reduceAdd, Nat.reducePow, h', if_true]

theorem partitionSuspended_next {s : State} {p : Nat} (hb : (s.part p).busy = true) (hr : (s.part p).run = false)
    (hp : s.partBlocks p = []) :
    exec (.partitionSuspended p) s = .next (s.setPart p { s.part p with busy := false, state := 1 }) := by
  change execPartitionSuspended p s = _
  unfold execPartitionSuspended
  simp only [hb, hr, hp, Bool.not_false, List.isEmpty_nil, Bool.and_true, if_true]

theorem remapCopyDone_next {s : State} {p : Nat} (hb : (s.part p).prmapBusy = true) :
    exec (.remapCopyDone p) s = .next (s.setPart p { s.part p with prmapBusy := false, committed := true }) := by
  change execRemapCopyDone p s = _
  unfold execRemapCopyDone
  simp only [hb, if_true]

theorem tableUpdate_refused {s : State} {p : Nat} (h : (s.part p).tuRefused = true) :
    exec (.tableUpdate p) s = .next (s.setPart p { s.part p with tuErr := true }) := by
  change execTableUpdate p s = _
  unfold execTableUpdate
  simp only [h, if_true]

theorem polbaseWrite_next (p : Nat) (v : Word) (s : State) : ∃ t, exec (.polbaseWrite p v) s = .next t ∧
    t.part p = { s.part p with polbase := v, polLines := [] } ∧ SameMemory s t :=
  ⟨_, rfl, State.setPart_part_self .., sameMemory_of rfl rfl (fun _ => rfl) fun _ => rfl⟩

theorem partitionEvents : PartitionEvents := by
  intro p s hr
  refine ⟨fun v h31 h3 hsh => ⟨fun hok => ⟨_, ?_, reshape_parts s p _⟩, fun hok => ?_⟩,
    fun h8 hrun hst => partitionRun_next hr h8 hrun hst, fun h8 hrun h3 => partitionSuspend_next hr h8 hrun h3,
    partitionSuspended_next, ⟨fun h1 h hne => remapCommit_ok (remapOk_of h1 h hne), remapCommit_refused⟩, remapCopyDone_next,
    tableUpdate_refused, tableUpdate_next, tableUpdateDone_next,
    fun v h31 => ⟨tccfgWrite_refused h31, tccfgWrite_next h31⟩, fun v => polbaseWrite_next p v s⟩
  · rw [partitionShape_ok hr h31 h3 hsh, if_pos hok]
  · rw [partitionShape_ok hr h31 h3 hsh, if_neg (by simp [hok])]

end Sys2Proof.Machine
end

section
/-! SUPPORT. A region that is reset (R425, R426), its windows (R421-R423), and the ports (R446). -/

namespace Sys2Proof.Machine

open Sys2Proof.Claims

/-! ## Work that is wound down -/

theorem unwinds_of_fields {s t : State} (hl : t.launches = s.launches) (hb : t.blocks = s.blocks) (hr : t.regions = s.regions)
    (hp : t.parts = s.parts) : Unwinds s t := (Strips.of_fields hl hb hr hp).unwinds

theorem unwinds_endPart (s : State) (p status : Nat) : Unwinds s (s.endPart p status) :=
  Unwinds.foldl (fun s l => unwinds_endLaunch s l _) _ s

/-- R428: what a MACHINE fault makes of the partition. -/
theorem unwinds_faulted (s : State) (p : Nat) : Unwinds s
    ((s.setPart p { s.part p with fault := true, state := 1, run := false, busy := false }).signal none 0) :=
  (Strips.setPart s p { s.part p with fault := true, state := 1, run := false, busy := false } rfl).unwinds.trans
    (unwinds_of_fields rfl rfl rfl rfl)

theorem unwinds_machineFault (s : State) (p r : Nat) : Unwinds s (s.machineFault p r) :=
  (Strips.setRegion s r { s.region r with fault := true } rfl).unwinds.trans
    ((unwinds_endPart _ p 0x1F).trans (unwinds_faulted _ p))

theorem unwinds_putWarp (s : State) (w : Nat) (W : Warp) : Unwinds s (s.putWarp w W) := by
  unfold State.putWarp
  cases W.shr <;> exact unwinds_of_fields rfl rfl rfl rfl

theorem unwinds_deferCause (s : State) (a : Access) : Unwinds s (s.deferCause a) := by
  unfold State.deferCause
  split
  · exact .refl s
  · split
    · exact .refl s
    · split
      · exact .refl s
      · dsimp only
        split <;> exact unwinds_putWarp ..
      · split
        · exact unwinds_machineFault ..
        · exact unwinds_putWarp ..

theorem unwinds_settleStore (s : State) (n : Nat) : Unwinds s (s.settleStore n) := by
  unfold State.settleStore
  split
  · exact .refl s
  · split
    · exact (unwinds_deferCause s _).trans (unwinds_of_fields rfl rfl rfl rfl)
    · exact .refl s

theorem unwinds_modOp (s : State) (n : Nat) (f : EngOp → EngOp) : Unwinds s (s.modOp n f) := unwinds_of_fields rfl rfl rfl rfl

theorem unwinds_answerOp (s : State) (n key : Nat) (bs : List Byte) (bad : Option Nat) : Unwinds s (s.answerOp n key bs bad) := by
  unfold State.answerOp
  cases bad with
  | none => exact unwinds_modOp ..
  | some st =>
    dsimp only
    by_cases hk : stampKey key = true
    · rw [if_pos hk]; exact unwinds_modOp ..
    · rw [if_neg hk]
      split
      · exact (unwinds_modOp ..).trans (unwinds_modOp ..)
      · exact unwinds_modOp ..

theorem unwinds_answerLane (s : State) (n sub : Nat) (res : Option Nat) (bad : Option (Nat × Nat)) :
    Unwinds s (s.answerLane n sub res bad) := by
  refine Unwinds.trans ?_ (unwinds_settleStore _ n)
  exact unwinds_of_fields rfl rfl rfl rfl

theorem unwinds_answer (s : State) (a : Asker) (res : Option Nat) (bs : List Byte) (bad : Option (Nat × Nat)) :
    Unwinds s (s.answer a res bs bad) := by
  unfold State.answer
  split
  · exact unwinds_answerLane ..
  · split
    · exact unwinds_answerOp ..
    · split
      · exact unwinds_of_fields rfl rfl rfl rfl
      · exact .refl s

theorem unwinds_storePerformed (s : State) (dev part seq : Nat) : Unwinds s (s.storePerformed dev part seq) := by
  unfold State.storePerformed
  dsimp only
  refine Unwinds.trans ?_ (Unwinds.foldl (fun _ _ => ?_) _ _) <;> exact unwinds_of_fields rfl rfl rfl rfl

theorem unwinds_parkedLost (s : State) (rq : InReq) : Unwinds s (s.parkedLost rq) := by
  unfold State.parkedLost
  split
  · exact unwinds_answer ..
  · split
    · refine (unwinds_storePerformed s (rq.src / 2 ^ 6 % 4096) (rq.src / 2 ^ 18 % 256) (rq.src / 2 ^ 26 % 2 ^ 32)).trans ?_
      dsimp only
      split <;> exact unwinds_of_fields rfl rfl rfl rfl
    · exact .refl s

theorem unwinds_dropParked (s : State) (r : Nat) : Unwinds s (s.dropParked r) :=
  (Strips.setRegion s r { s.region r with parking := [] } rfl).unwinds.trans (Unwinds.foldl unwinds_parkedLost _ _)

/-- A launch of a list that is ended has ended. -/
theorem endLaunches_ends {ls : List Nat} {l : Nat} (hl : l ∈ ls) (e : EndCause) {s : State} {L : Launch}
    (hL : tfind (ls.foldl (fun s l => s.endLaunch l e) s).launches l = some L) : L.phase.live = false := by
  induction ls generalizing s with
  | nil => cases hl
  | cons k ls ih =>
    rcases List.mem_cons.mp hl with rfl | h
    · obtain ⟨K, hK, -, -⟩ := (Unwinds.foldl (fun s k => unwinds_endLaunch s k e) (l :: ls) s).before hL
      cases hlive : K.phase.live with
      | false =>
        rw [(Unwinds.foldl (fun s k => unwinds_endLaunch s k e) (l :: ls) s).ended hK hlive] at hL
        cases hL; exact hlive
      | true =>
        obtain ⟨hend, -⟩ := endLaunch_live hK hlive e
        rw [List.foldl_cons, (Unwinds.foldl (fun s k => unwinds_endLaunch s k e) ls _).ended hend rfl] at hL
        cases hL; rfl
    · exact ih h hL

/-- No launch of a partition is live once the partition's work has ended. -/
theorem endPart_ends {s : State} {p status l : Nat} {L : Launch} (hL : tfind (s.endPart p status).launches l = some L)
    (hp : L.part = p) : L.phase.live = false := by
  cases hlive : L.phase.live with
  | false => rfl
  | true =>
    obtain ⟨K, hK, -, hkeep⟩ := (unwinds_endPart s p status).before hL
    have hKL := hkeep hlive
    subst hKL
    have hmem : l ∈ (s.launches.filter fun e => e.2.part = p && e.2.phase.live).map (·.1) :=
      List.mem_map.mpr ⟨(l, L), List.mem_filter.mpr ⟨mem_of_tfind hK, by simp [hp, hlive]⟩, rfl⟩
    exact hlive.symm.trans (endLaunches_ends hmem _ hL)

theorem endWork_unwinds (s : State) (p status : Nat) : Unwinds (s.endPart p status) (s.endWork p status) :=
  (strips_dropOps (s.endPart p status) fun _ o =>
    decide (((tfind (s.endPart p status).launches o.launch).map (·.part)) = some p) &&
      (match o.kind with | .child _ => false | _ => true)).unwinds.trans (unwinds_of_fields rfl rfl rfl rfl)

theorem unwinds_endWork (s : State) (p status : Nat) : Unwinds s (s.endWork p status) :=
  (unwinds_endPart s p status).trans (endWork_unwinds s p status)

theorem endWork_ends {s : State} {p status l : Nat} {L : Launch} (hL : tfind (s.endWork p status).launches l = some L)
    (hp : L.part = p) : L.phase.live = false := by
  obtain ⟨K, hK, hpart, hkeep⟩ := (endWork_unwinds s p status).before hL
  cases hlive : L.phase.live with
  | false => rfl
  | true =>
    have hend := endPart_ends hK (hpart.symm.trans hp)
    rw [← hkeep hlive] at hend
    exact hlive.symm.trans hend

/-! ## A region reset (R425) -/

/-- The partition of a region is of the shapes alone. -/
theorem Unwinds.regionPart {s t : State} (h : Unwinds s t) (r : Nat) : t.regionPart r = s.regionPart r := by
  simp only [State.regionPart, State.inPart, h.partRegions]

theorem tget_filter_none {α : Type} (d : α) (t : Tab α) (p : Nat → Bool) {i : Nat} (h : p i = false) :
    tget d (t.filter fun e => p e.1) i = d := by
  simp [tget, tfind_filter, h]

/-- R425 step 4: what a scrub leaves of its region. -/
theorem scrub_region (s : State) (r : Nat) :
    ((s.scrub r).region r).standing = (s.region r).standing ∧
      ((s.scrub r).region r).pwr = if (s.region r).hot = true then 1 else 0 := by
  have h : (s.scrub r).region r = { Region.reset with
      pwr := if (s.region r).hot then 1 else 0, fault := (s.region r).fault, gate := (s.region r).gate
      resetting := (s.region r).resetting, wins := (s.region r).wins, hot := (s.region r).hot
      railOff := (s.region r).railOff, pll := ((s.scrub r).region r).pll } := by
    unfold State.scrub State.setPower
    simp only [State.region, State.setRegion, tget_tset_self]
  rw [h]
  exact ⟨rfl, rfl⟩

theorem scrub_mem (s : State) (r a : Nat) (h1 : r * 0x800000000 ≤ a) (h2 : a < r * 0x800000000 + hbmBytes) :
    Memory.read (s.scrub r).mem a = 0 := by
  have hm : (s.scrub r).mem = Memory.zeroN s.mem (r * 0x800000000) hbmBytes := rfl
  rw [hm, Memory.read_zeroN, if_pos ⟨h1, h2⟩]

theorem scrub_cluster (s : State) {r c : Nat} (h : clusterRegion c = r) : (s.scrub r).cluster c = Cluster.reset :=
  tget_filter_none _ _ (fun i => clusterRegion i != r) (by simp [h])

theorem scrub_core (s : State) {r k : Nat} (h : coreRegion k = r) : (s.scrub r).core k = Core.reset :=
  tget_filter_none _ _ (fun i => coreRegion i != r) (by simp [h])

/-- R425 steps 1 and 2: the state from which a region with a partition is scrubbed. -/
def State.quiesced (s : State) (r p : Nat) : State :=
  ((s.setRegion r { s.region r with gate := false, resetting := true }).dropParked r).endWork p stReset

theorem unwinds_quiesced (s : State) (r p : Nat) :
    Unwinds (s.setRegion r { s.region r with gate := false, resetting := true }) (s.quiesced r p) :=
  (unwinds_dropParked _ r).trans (unwinds_endWork _ p stReset)

/-- R426: what becomes of the partition of a region that is reset. -/
def State.broken (s : State) (p : Nat) : State :=
  s.setPart p { s.part p with run := false, busy := false, state := if s.partRegions p = 1 then 1 else 3 }

theorem regionReset_eq {s : State} {r p : Nat} (hr : (s.region r).resetting = false) (hp : s.regionPart r = some p) :
    exec (.regionReset r) s = .next ((((s.quiesced r p).broken p).scrub r).drawKey p) := by
  have hpart : ((s.setRegion r { s.region r with gate := false, resetting := true }).dropParked r).regionPart r = some p :=
    ((unwinds_dropParked _ r).regionPart r).trans hp
  change execRegionReset r s = _
  unfold execRegionReset
  simp only [hr, Bool.false_eq_true, if_false, hpart]
  rfl

theorem regionReset_next {s : State} {r p : Nat} (hr : (s.region r).resetting = false) (hp : s.regionPart r = some p) :
    ∃ t, exec (.regionReset r) s = .next t ∧ (t.region r).gate = false ∧ (t.region r).resetting = true ∧
      (t.region r).pwr = (if (s.region r).hot = true then 1 else 0) ∧ (t.part p).run = false ∧
      (t.part p).state = (if s.partRegions p = 1 then 1 else 3) ∧
      (∀ a, r * 0x800000000 ≤ a → a < r * 0x800000000 + hbmBytes → Memory.read t.mem a = 0) ∧
      (∀ c, clusterRegion c = r → t.cluster c = Cluster.reset) ∧ (∀ k, coreRegion k = r → t.core k = Core.reset) ∧
      ∀ l L, tfind t.launches l = some L → L.part = p → L.phase.live = false := by
  have hu := unwinds_quiesced s r p
  have hends : ∀ l L, tfind (s.quiesced r p).launches l = some L → L.part = p → L.phase.live = false :=
    fun l L hL hLp => endWork_ends hL hLp
  refine ⟨_, regionReset_eq hr hp, ?_⟩
  generalize s.quiesced r p = u at hu hends
  have hstand : (u.region r).standing = (false, true, (s.region r).hot) :=
    (hu.regions r).trans (congrArg Region.standing (State.setRegion_region_self ..))
  have hn : u.partRegions p = s.partRegions p := hu.partRegions p
  obtain ⟨hs, hpwr⟩ := scrub_region (u.broken p) r
  have hs' : (((u.broken p).scrub r).region r).standing = (false, true, (s.region r).hot) := hs.trans hstand
  have hhot : (u.region r).hot = (s.region r).hot := congrArg (fun x => x.2.2) hstand
  have hpart : (((u.broken p).scrub r).drawKey p).part p = { (u.broken p).part p with tchashk := Config.hashKey u.draws } :=
    State.setPart_part_self ..
  have hbroken : (u.broken p).part p =
      { u.part p with run := false, busy := false, state := if s.partRegions p = 1 then 1 else 3 } := by
    rw [← hn]; exact State.setPart_part_self ..
  refine ⟨congrArg Prod.fst hs', congrArg (fun x => x.2.1) hs', ?_, ?_, ?_, fun a h1 h2 => scrub_mem _ r a h1 h2,
    fun c hc => scrub_cluster (u.broken p) hc, fun k hk => scrub_core (u.broken p) hk, fun l L hL => hends l L hL⟩
  · exact hhot ▸ hpwr
  · rw [hpart, hbroken]
  · rw [hpart, hbroken]

theorem regionReset_again {s : State} {r : Nat} (hr : (s.region r).resetting = true) :
    exec (.regionReset r) s = .next s ∧ ∃ t, exec (.regionResetDone r) s = .next t ∧
      t.region r = { s.region r with resetting := false, wins := [], gate := true, fault := false } ∧
      t.msi = if (s.region r).fault = true then s.msi ++ [{ vf := none, vector := 0 }] else s.msi := by
  refine ⟨?_, ?_⟩
  · change execRegionReset r s = _
    unfold execRegionReset
    simp only [hr, if_true]
  · change ∃ t, execRegionResetDone r s = _ ∧ _
    unfold execRegionResetDone
    simp only [hr, if_true]
    refine ⟨_, rfl, ?_⟩
    split
    · exact ⟨State.setRegion_region_self .., rfl⟩
    · exact ⟨State.setRegion_region_self .., rfl⟩

/-! ## Windows (R421-R423) -/

theorem winOk_iff (s : State) (r : Nat) (y : Win) :
    s.winOk r y = true ↔ 1 ≤ y.len ∧ r * 0x800000000 ≤ y.base ∧ y.base + y.len * 65536 ≤ r * 0x800000000 + hbmBytes ∧
      y.borrower < 24 ∧ (s.part y.borrower).shape ≠ 0 := by
  simp only [State.winOk, Bool.and_eq_true, decide_eq_true_eq, bne_iff_ne, ne_eq, and_assoc]

theorem windowOpen_next {s : State} {r w : Nat} (hw : w < 16) {v : Word} (hv : v.getLsbD 0 = true) :
    let x := tget Win.reset (s.region r).wins w
    let y : Win := { x with borrower := bits v.toNat 7 3, w := v.getLsbD 1, valid := true, closing := false }
    exec (.windowOpen r w v) s = .next
      (if 1 ≤ x.len ∧ r * 0x800000000 ≤ x.base ∧ x.base + x.len * 65536 ≤ r * 0x800000000 + hbmBytes ∧
          y.borrower < 24 ∧ (s.part y.borrower).shape ≠ 0 then
        (s.setWin r w y).shareRange ((s.regionPart r).getD r) x.base (x.len * 65536) else s) := by
  change execWindowOpen r w v s = _
  unfold execWindowOpen
  simp only [hw, hv, decide_true, Bool.and_true, if_true]
  unfold State.winWrite Win.withCtl
  simp only [hv, if_true, winOk_iff]

theorem windowClose_next {s : State} {r w : Nat} (hw : w < 16) (hv : (tget Win.reset (s.region r).wins w).valid = true) :
    exec (.windowClose r w) s = .next
      (s.setWin r w { tget Win.reset (s.region r).wins w with valid := false, closing := true }) := by
  change execWindowClose r w s = _
  unfold execWindowClose
  simp only [hw, hv, decide_true, Bool.and_true, if_true]

theorem windowCloseDone_next {s : State} {r w : Nat} (hw : w < 16)
    (hc : (tget Win.reset (s.region r).wins w).closing = true) :
    exec (.windowCloseDone r w) s = .next (s.setWin r w { tget Win.reset (s.region r).wins w with closing := false }) := by
  change execWindowCloseDone r w s = _
  unfold execWindowCloseDone
  simp only [hw, hc, decide_true, Bool.and_true, if_true]

/-! ## Ports (R446) -/

theorem portAssign_next {n : Nat} {v : Word} {s : State} (h31 : v.getLsbD 31 = false)
    (hne : v.getLsbD 7 ≠ (s.port n).valid ∨ v.getLsbD 6 ≠ (s.port n).mode ∨ bits v.toNat 4 0 ≠ (s.port n).owner) :
    exec (.portAssign n v) s = .next
      (if s.ownerIdle (s.port n).valid (s.port n).mode (s.port n).owner = true ∧
          s.ownerIdle (v.getLsbD 7) (v.getLsbD 6) (bits v.toNat 4 0) = true then
        s.setPort n { s.port n with valid := v.getLsbD 7, mode := v.getLsbD 6, owner := bits v.toNat 4 0 }
       else s.setPort n { s.port n with err := true }) := by
  have hch : (decide (v.getLsbD 7 = (s.port n).valid) && decide (v.getLsbD 6 = (s.port n).mode) &&
      decide (bits v.toNat 4 0 = (s.port n).owner)) = false := by
    rw [← Bool.not_eq_true]
    simp only [Bool.and_eq_true, decide_eq_true_eq]
    rintro ⟨⟨h1, h2⟩, h3⟩
    rcases hne with h | h | h
    · exact h h1
    · exact h h2
    · exact h h3
  change execPortAssign n v s = _
  unfold execPortAssign
  simp only [h31, Bool.false_eq_true, if_false, hch, Bool.and_eq_true]

theorem regionEvents : RegionEvents :=
  ⟨fun _ _ => ⟨fun _ hr hp => regionReset_next hr hp, regionReset_again,
    fun _ hw => ⟨fun _ hv => windowOpen_next hw hv, windowClose_next hw, windowCloseDone_next hw⟩⟩,
   fun _ _ _ h31 hne => portAssign_next h31 hne⟩

/-- Settles O51: each event of a partition, a region or a port by the rule that accepts or refuses it. -/
theorem partitionsAndRegions : Obligations.PartitionsAndRegions := ⟨partitionEvents, regionEvents⟩

end Sys2Proof.Machine
end

section
/-! SUPPORT. Decode of encode (R58-R68, R73-R77): every instruction by the lemma of its constructor. -/

namespace Sys2Proof.Laws

/-- The round trip of every instruction, constructor by constructor; an event has no words. -/
theorem roundTrip_of_encode (i : Instr) : Encoding.Statement i := by
  cases i with
  | iadd f => exact Encoding.iadd f
  | isub f => exact Encoding.isub f
  | imul f => exact Encoding.imul f
  | imulh f => exact Encoding.imulh f
  | imulhu f => exact Encoding.imulhu f
  | imin f => exact Encoding.imin f
  | imax f => exact Encoding.imax f
  | iminu f => exact Encoding.iminu f
  | imaxu f => exact Encoding.imaxu f
  | iabs f => exact Encoding.iabs f
  | and f => exact Encoding.and f
  | or f => exact Encoding.or f
  | xor f => exact Encoding.xor f
  | andn f => exact Encoding.andn f
  | shl f => exact Encoding.shl f
  | shr f => exact Encoding.shr f
  | sar f => exact Encoding.sar f
  | rol f => exact Encoding.rol f
  | popc f => exact Encoding.popc f
  | clz f => exact Encoding.clz f
  | brev f => exact Encoding.brev f
  | leaw f => exact Encoding.leaw f
  | lead f => exact Encoding.lead f
  | icmp f => exact Encoding.icmp f
  | fadd f => exact Encoding.fadd f
  | fsub f => exact Encoding.fsub f
  | fmul f => exact Encoding.fmul f
  | fmar f => exact Encoding.fmar f
  | fmin f => exact Encoding.fmin f
  | fmax f => exact Encoding.fmax f
  | fabs f => exact Encoding.fabs f
  | fneg f => exact Encoding.fneg f
  | fcmp f => exact Encoding.fcmp f
  | frnd f => exact Encoding.frnd f
  | frcp f => exact Encoding.frcp f
  | frsq f => exact Encoding.frsq f
  | fsqrt f => exact Encoding.fsqrt f
  | fexp2 f => exact Encoding.fexp2 f
  | flog2 f => exact Encoding.flog2 f
  | fsin f => exact Encoding.fsin f
  | fcos f => exact Encoding.fcos f
  | ftanh f => exact Encoding.ftanh f
  | hadd2 f => exact Encoding.hadd2 f
  | hmul2 f => exact Encoding.hmul2 f
  | hmax2 f => exact Encoding.hmax2 f
  | cvt f => exact Encoding.cvt f
  | k4dec f => exact Encoding.k4dec f
  | imad f => exact Encoding.imad f
  | bfx f => exact Encoding.bfx f
  | bfi f => exact Encoding.bfi f
  | sel f => exact Encoding.sel f
  | ffma f => exact Encoding.ffma f
  | ffman f => exact Encoding.ffman f
  | hfma2 f => exact Encoding.hfma2 f
  | faddcb f => exact Encoding.faddcb f
  | fmulcb f => exact Encoding.fmulcb f
  | fmarcb f => exact Encoding.fmarcb f
  | movcb f => exact Encoding.movcb f
  | ldbs f => exact Encoding.ldbs f
  | ldbu f => exact Encoding.ldbu f
  | ldhs f => exact Encoding.ldhs f
  | ldhu f => exact Encoding.ldhu f
  | ldw f => exact Encoding.ldw f
  | ldd f => exact Encoding.ldd f
  | ldq f => exact Encoding.ldq f
  | ldp f => exact Encoding.ldp f
  | ldacq f => exact Encoding.ldacq f
  | stb f => exact Encoding.stb f
  | sth f => exact Encoding.sth f
  | stw f => exact Encoding.stw f
  | std f => exact Encoding.std f
  | stq f => exact Encoding.stq f
  | strel f => exact Encoding.strel f
  | ldlf f => exact Encoding.ldlf f
  | ldlc f => exact Encoding.ldlc f
  | stlf f => exact Encoding.stlf f
  | atadd f => exact Encoding.atadd f
  | atmin f => exact Encoding.atmin f
  | atmax f => exact Encoding.atmax f
  | atand f => exact Encoding.atand f
  | ator f => exact Encoding.ator f
  | atxor f => exact Encoding.atxor f
  | atxch f => exact Encoding.atxch f
  | atcas f => exact Encoding.atcas f
  | atfadd f => exact Encoding.atfadd f
  | tldg f => exact Encoding.tldg f
  | shfli f => exact Encoding.shfli f
  | shflu f => exact Encoding.shflu f
  | shfld f => exact Encoding.shfld f
  | shflx f => exact Encoding.shflx f
  | vote f => exact Encoding.vote f
  | ballot f => exact Encoding.ballot f
  | redadd f => exact Encoding.redadd f
  | redmin f => exact Encoding.redmin f
  | redmax f => exact Encoding.redmax f
  | redfadd f => exact Encoding.redfadd f
  | readlane f => exact Encoding.readlane f
  | bcast f => exact Encoding.bcast f
  | plop f => exact Encoding.plop f
  | brd f => exact Encoding.brd f
  | jmpv f => exact Encoding.jmpv f
  | csrv f => exact Encoding.csrv f
  | faddk f => exact Encoding.faddk f
  | fmulk f => exact Encoding.fmulk f
  | fmovk f => exact Encoding.fmovk f
  | iaddk f => exact Encoding.iaddk f
  | imovk f => exact Encoding.imovk f
  | andk f => exact Encoding.andk f
  | ork f => exact Encoding.ork f
  | xork f => exact Encoding.xork f
  | sadd f => exact Encoding.sadd f
  | ssub f => exact Encoding.ssub f
  | smul f => exact Encoding.smul f
  | smulh f => exact Encoding.smulh f
  | sand f => exact Encoding.sand f
  | sor f => exact Encoding.sor f
  | sxor f => exact Encoding.sxor f
  | sshl f => exact Encoding.sshl f
  | sshr f => exact Encoding.sshr f
  | ssar f => exact Encoding.ssar f
  | smin f => exact Encoding.smin f
  | smax f => exact Encoding.smax f
  | sminu f => exact Encoding.sminu f
  | smaxu f => exact Encoding.smaxu f
  | scmp f => exact Encoding.scmp f
  | slea f => exact Encoding.slea f
  | spopc f => exact Encoding.spopc f
  | sclz f => exact Encoding.sclz f
  | ssel f => exact Encoding.ssel f
  | qlop f => exact Encoding.qlop f
  | sldw f => exact Encoding.sldw f
  | sldd f => exact Encoding.sldd f
  | sldq f => exact Encoding.sldq f
  | sstw f => exact Encoding.sstw f
  | sstd f => exact Encoding.sstd f
  | sldcb f => exact Encoding.sldcb f
  | cbset f => exact Encoding.cbset f
  | sldacq f => exact Encoding.sldacq f
  | sstrel f => exact Encoding.sstrel f
  | satadd f => exact Encoding.satadd f
  | satcas f => exact Encoding.satcas f
  | waitv f => exact Encoding.waitv f
  | bra f => exact Encoding.bra f
  | jmp f => exact Encoding.jmp f
  | call f => exact Encoding.call f
  | callr f => exact Encoding.callr f
  | ret f => exact Encoding.ret f
  | loop f => exact Encoding.loop f
  | trap f => exact Encoding.trap f
  | eret f => exact Encoding.eret f
  | yield f => exact Encoding.yield f
  | bkpt f => exact Encoding.bkpt f
  | exit f => exact Encoding.exit f
  | nop f => exact Encoding.nop f
  | sleep f => exact Encoding.sleep f
  | csrr f => exact Encoding.csrr f
  | csrw f => exact Encoding.csrw f
  | setfmt f => exact Encoding.setfmt f
  | bar f => exact Encoding.bar f
  | bara f => exact Encoding.bara f
  | barw f => exact Encoding.barw f
  | cbara f => exact Encoding.cbara f
  | cbarw f => exact Encoding.cbarw f
  | tbinit f => exact Encoding.tbinit f
  | tbarv f => exact Encoding.tbarv f
  | tbwait f => exact Encoding.tbwait f
  | fenceAcq f => exact Encoding.fenceAcq f
  | fenceRel f => exact Encoding.fenceRel f
  | fenceAr f => exact Encoding.fenceAr f
  | fenceEng f => exact Encoding.fenceEng f
  | ftest f => exact Encoding.ftest f
  | fmove f => exact Encoding.fmove f
  | fcancel f => exact Encoding.fcancel f
  | fwait f => exact Encoding.fwait f
  | shrmap f => exact Encoding.shrmap f
  | sqrd f => exact Encoding.sqrd f
  | copy f => exact Encoding.copy f
  | copyx f => exact Encoding.copyx f
  | copyl f => exact Encoding.copyl f
  | mcast f => exact Encoding.mcast f
  | fillz f => exact Encoding.fillz f
  | mma f => exact Encoding.mma f
  | mmaz f => exact Encoding.mmaz f
  | accrd f => exact Encoding.accrd f
  | accst f => exact Encoding.accst f
  | accld f => exact Encoding.accld f
  | osld f => exact Encoding.osld f
  | topkr f => exact Encoding.topkr f
  | tlook f => exact Encoding.tlook f
  | tpref f => exact Encoding.tpref f
  | thalo f => exact Encoding.thalo f
  | tinv f => exact Encoding.tinv f
  | twb f => exact Encoding.twb f
  | tdead f => exact Encoding.tdead f
  | tview f => exact Encoding.tview f
  | launch f => exact Encoding.launch f
  | join f => exact Encoding.join f
  | reprint f => exact Encoding.reprint f
  | wqpush f => exact Encoding.wqpush f
  | wqpop f => exact Encoding.wqpop f
  | wqwait f => exact Encoding.wqwait f
  | tracex f => exact Encoding.tracex f
  | saddk f => exact Encoding.saddk f
  | smovk f => exact Encoding.smovk f
  | sandk f => exact Encoding.sandk f
  | sork f => exact Encoding.sork f
  | sxork f => exact Encoding.sxork f
  | smulk f => exact Encoding.smulk f
  | sshlk f => exact Encoding.sshlk f
  | sshrk f => exact Encoding.sshrk f
  | _ => exact fun _ _ h => nomatch h

/-- Settles O56: the fields of each format read back from the word that the encoder builds of them. -/
theorem decodeOfEncode : Obligations.DecodeOfEncode := by
  intro i c hw hc
  obtain ⟨hdecode, hlit⟩ := roundTrip_of_encode i hw c hc
  exact ⟨hdecode 0, hlit⟩

/-- Settles O55: each word is what the encoder makes of the instruction that the spec names beside it. -/
theorem decodeWords : Obligations.DecodeWords := by
  have h : ∀ (i : Instr) (w : Word) (l : Option Word), wellFormed i = true → encode i = some ⟨w, l⟩ →
      decode w (l.getD 0) = .ok i := fun i w l hw he => (decodeOfEncode i _ hw he).1
  exact ⟨h _ _ none rfl rfl, h _ _ (some _) rfl rfl, h _ _ none rfl rfl, h _ _ (some _) rfl rfl, h _ _ none rfl rfl,
    h _ _ none rfl rfl, h _ _ none rfl rfl, h _ _ none rfl rfl, h _ _ none rfl rfl, h _ _ (some _) rfl rfl⟩

end Sys2Proof.Laws

end

section
/-! SUPPORT. Encode of decode (R58-R69): what a format's reader answers, its encoder writes back, bit for bit; then row by
row through the opcode maps. -/

namespace Sys2Proof.Laws

/-- Fields side by side are one field. -/
theorem fld_append (w : Word) {hi lo n m : Nat} (h : hi = lo + n) : fld w hi m ++ fld w lo n = fld w lo (m + n) :=
  BitVec.extractLsb'_append_extractLsb'_eq_extractLsb' h

theorem wordR_eq {w : Word} {op : BitVec 8} {g : BitVec 3} {wA wB l : BitVec 1} {d a b : BitVec 6} (hop : op = fld w 24 8)
    (hg : g = fld w 21 3) (hwA : wA = fld w 20 1) (hwB : wB = fld w 19 1) (hl : l = fld w 18 1) (hd : d = fld w 12 6)
    (ha : a = fld w 6 6) (hb : b = fld w 0 6) : wordR op g wA wB l d a b = w := by
  subst hop hg hwA hwB hl hd ha hb
  change (fld w 24 8 ++ fld w 21 3 ++ fld w 20 1 ++ fld w 19 1 ++ fld w 18 1 ++ fld w 12 6 ++ fld w 6 6 ++ fld w 0 6 :
    BitVec (8 + 3 + 1 + 1 + 1 + 6 + 6 + 6)) = w
  simp (disch := rfl) only [fld_append, BitVec.extractLsb'_eq_self]

theorem wordF_eq {w : Word} {op : BitVec 8} {c d a b : BitVec 6} (hop : op = fld w 24 8) (hc : c = fld w 18 6)
    (hd : d = fld w 12 6) (ha : a = fld w 6 6) (hb : b = fld w 0 6) : wordF op c d a b = w := by
  subst hop hc hd ha hb
  change (fld w 24 8 ++ fld w 18 6 ++ fld w 12 6 ++ fld w 6 6 ++ fld w 0 6 : BitVec (8 + 6 + 6 + 6 + 6)) = w
  simp (disch := rfl) only [fld_append, BitVec.extractLsb'_eq_self]

theorem wordM_eq {w : Word} {op : BitVec 8} {g : BitVec 3} {wA : BitVec 1} {d a : BitVec 6} {k : BitVec 8}
    (hop : op = fld w 24 8) (hg : g = fld w 21 3) (hwA : wA = fld w 20 1) (hd : d = fld w 14 6) (ha : a = fld w 8 6)
    (hk : k = fld w 0 8) : wordM op g wA d a k = w := by
  subst hop hg hwA hd ha hk
  change (fld w 24 8 ++ fld w 21 3 ++ fld w 20 1 ++ fld w 14 6 ++ fld w 8 6 ++ fld w 0 8 :
    BitVec (8 + 3 + 1 + 6 + 6 + 8)) = w
  simp (disch := rfl) only [fld_append, BitVec.extractLsb'_eq_self]

theorem wordVB_eq {w : Word} {op : BitVec 8} {p : BitVec 3} {n x m : BitVec 1} {t : BitVec 18} (hop : op = fld w 24 8)
    (hp : p = fld w 21 3) (hn : n = fld w 20 1) (hx : x = fld w 19 1) (hm : m = fld w 18 1) (ht : t = fld w 0 18) :
    wordVB op p n x m t = w := by
  subst hop hp hn hx hm ht
  change (fld w 24 8 ++ fld w 21 3 ++ fld w 20 1 ++ fld w 19 1 ++ fld w 18 1 ++ fld w 0 18 :
    BitVec (8 + 3 + 1 + 1 + 1 + 18)) = w
  simp (disch := rfl) only [fld_append, BitVec.extractLsb'_eq_self]

theorem wordUB_eq {w : Word} {op : BitVec 8} {q : BitVec 3} {n : BitVec 1} {o : BitVec 20} (hop : op = fld w 24 8)
    (hq : q = fld w 21 3) (hn : n = fld w 20 1) (ho : o = fld w 0 20) : wordUB op q n o = w := by
  subst hop hq hn ho
  change (fld w 24 8 ++ fld w 21 3 ++ fld w 20 1 ++ fld w 0 20 : BitVec (8 + 3 + 1 + 20)) = w
  simp (disch := rfl) only [fld_append, BitVec.extractLsb'_eq_self]

theorem wordK_eq {w : Word} {k d : BitVec 6} {i : BitVec 20} (hk : k = fld w 26 6) (hd : d = fld w 20 6)
    (hi : i = fld w 0 20) : wordK k d i = w := by
  subst hk hd hi
  change (fld w 26 6 ++ fld w 20 6 ++ fld w 0 20 : BitVec (6 + 6 + 20)) = w
  simp (disch := rfl) only [fld_append, BitVec.extractLsb'_eq_self]

theorem wordUC_eq {w : Word} {op : BitVec 8} {q z : BitVec 3} {d : BitVec 6} {i : BitVec 12} (hop : op = fld w 24 8)
    (hq : q = fld w 21 3) (hz : z = fld w 18 3) (hd : d = fld w 12 6) (hi : i = fld w 0 12) : wordUC op q z d i = w := by
  subst hop hq hz hd hi
  change (fld w 24 8 ++ fld w 21 3 ++ fld w 18 3 ++ fld w 12 6 ++ fld w 0 12 : BitVec (8 + 3 + 3 + 6 + 12)) = w
  simp (disch := rfl) only [fld_append, BitVec.extractLsb'_eq_self]

theorem wordFence_eq {w : Word} {op : BitVec 8} {s : BitVec 3} {k : BitVec 2} {z : BitVec 19} (hop : op = fld w 24 8)
    (hs : s = fld w 21 3) (hk : k = fld w 19 2) (hz : z = fld w 0 19) : wordFence op s k z = w := by
  subst hop hs hk hz
  change (fld w 24 8 ++ fld w 21 3 ++ fld w 19 2 ++ fld w 0 19 : BitVec (8 + 3 + 2 + 19)) = w
  simp (disch := rfl) only [fld_append, BitVec.extractLsb'_eq_self]

theorem ofBool_bit (w : Word) (n : Nat) : BitVec.ofBool (bit w n) = fld w n 1 := by
  rcases BitVec.eq_zero_or_eq_one (fld w n 1) with h | h <;> rw [bit, h] <;> rfl

/-! ## What a reader that answers an instruction has checked -/

theorem want_eq_ok {α : Type} {ok : Bool} {r : Reject} {k : Except Reject α} {i : α} :
    want ok r k = .ok i ↔ ok = true ∧ k = .ok i := by
  cases ok <;> simp [want]

theorem noLit_eq_ok {w : Word} {k : Except Reject Instr} {i : Instr} :
    noLit w k = .ok i ↔ fld w 18 1 = 0 ∧ fld w 19 1 = 0 ∧ k = .ok i := by
  simp only [noLit, want_eq_ok, beq_iff_eq]

theorem noWait_eq_ok {w : Word} {k : Except Reject Instr} {i : Instr} :
    noWait w k = .ok i ↔ fld w 18 1 = 0 ∧ fld w 19 1 = 0 ∧ fld w 20 1 = 0 ∧ k = .ok i := by
  simp only [noWait, noLit_eq_ok, want_eq_ok, beq_iff_eq]

theorem noD_eq_ok {w : Word} {k : Except Reject Instr} {i : Instr} : noD w k = .ok i ↔ fld w 12 6 = 63 ∧ k = .ok i := by
  simp only [noD, want_eq_ok, beq_iff_eq]

theorem noA_eq_ok {w : Word} {k : Except Reject Instr} {i : Instr} : noA w k = .ok i ↔ fld w 6 6 = 63 ∧ k = .ok i := by
  simp only [noA, want_eq_ok, beq_iff_eq]

theorem noB_eq_ok {w : Word} {k : Except Reject Instr} {i : Instr} : noB w k = .ok i ↔ fld w 0 6 = 63 ∧ k = .ok i := by
  simp only [noB, want_eq_ok, beq_iff_eq]

/-- The literal of a word whose format has an L bit, where l follows it (R58). -/
def litOf (w l : Word) : Option Word := if fld w 18 1 = 1 then some l else none

theorem litOf_none {w l : Word} (h : fld w 18 1 = 0) : none = litOf w l := by simp [litOf, h]
theorem litOf_some {w l : Word} (h : fld w 18 1 = 1) : some l = litOf w l := by simp [litOf, h]

/-- The second source b stands in w and in the literal l (R59, R67). -/
structure SecondSource (w l : Word) (b : SrcB) : Prop where
  waitBit : b.waitBit = fld w 19 1
  litBit : b.litBit = fld w 18 1
  field : b.field = fld w 0 6
  literal : b.literal = litOf w l

/-- The second source beside another literal word. -/
def relitB (l : Word) : SrcB → SrcB
  | .reg w r => .reg w r
  | .lit _ => .lit l

theorem readB_ok {w l : Word} {k : SrcB → Except Reject Instr} {i : Instr} (h : readB w l k = .ok i) :
    ∃ b, SecondSource w l b ∧ k b = .ok i ∧ ∀ l', readB w l' k = k (relitB l' b) := by
  unfold readB at h
  split at h
  · next hL =>
    obtain ⟨hz, hk⟩ := want_eq_ok.1 h
    obtain ⟨hwB, hb⟩ := (Bool.and_eq_true _ _).mp hz
    refine ⟨.lit l, ⟨(beq_iff_eq.1 hwB).symm, hL.symm, (beq_iff_eq.1 hb).symm, litOf_some hL⟩, hk, fun l' => ?_⟩
    rw [readB, if_pos hL, want, if_pos hz]
    rfl
  · next hL =>
    have hL0 : fld w 18 1 = 0 := (BitVec.eq_zero_or_eq_one _).resolve_right hL
    refine ⟨.reg (bit w 19) (fld w 0 6), ⟨ofBool_bit w 19, hL0.symm, rfl, litOf_none hL0⟩, h, fun l' => ?_⟩
    rw [readB, if_neg hL]
    rfl

/-! ## Each reader is inverted by the encoder of its format -/

/-- What rd reads from a word and its literal, code writes back; hasL: the format has an L bit. Beside another literal word rd
reads the same operands with that literal, as relit puts it. -/
def Inverts {F : Type} (hasL : Bool) (relit : Word → F → F) (rd : (F → Instr) → Reader) (code : BitVec 8 → F → Code) : Prop :=
  ∀ mk w l i, rd mk w l = .ok i → ∃ f, mk f = i ∧
    code (fld w 24 8) f = ⟨w, if hasL = true then litOf w l else none⟩ ∧ ∀ l', rd mk w l' = .ok (mk (relit l' f))

/-- A format that takes no literal. -/
def keep {F : Type} (_ : Word) (f : F) : F := f

/-- A reader that does not look at the literal word need only be inverted. -/
theorem Inverts.of_const {F : Type} {hasL : Bool} {rd : (F → Instr) → Reader} {code : BitVec 8 → F → Code}
    (hconst : ∀ mk w l l', rd mk w l = rd mk w l') (h : ∀ mk w l i, rd mk w l = .ok i →
      ∃ f, mk f = i ∧ code (fld w 24 8) f = ⟨w, if hasL = true then litOf w l else none⟩) : Inverts hasL keep rd code := by
  intro mk w l i hi
  obtain ⟨f, rfl, hc⟩ := h mk w l i hi
  exact ⟨f, rfl, hc, fun l' => hconst mk w l' l ▸ hi⟩

theorem code_eq {w w' : Word} {o o' : Option Word} (hw : w = w') (ho : o = o') : Code.mk w o = ⟨w', o'⟩ := by rw [hw, ho]

theorem R3_inverts : Inverts true (fun l f => { f with b := relitB l f.b }) readR3 R3.code := by
  intro mk w l i h
  obtain ⟨b, hb, hi, hre⟩ := readB_ok h
  exact ⟨_, Except.ok.inj hi,
    code_eq (wordR_eq rfl rfl (ofBool_bit w 20) hb.waitBit hb.litBit rfl rfl hb.field) hb.literal, hre⟩

theorem R2_inverts : Inverts true keep readR2 R2.code := .of_const (fun _ _ _ _ => rfl) <| by
  intro mk w l i h
  obtain ⟨hL, hwB, h⟩ := noLit_eq_ok.1 h
  obtain ⟨hb, hi⟩ := noB_eq_ok.1 h
  exact ⟨_, Except.ok.inj hi, code_eq (wordR_eq rfl rfl (ofBool_bit w 20) hwB.symm hL.symm rfl rfl hb.symm) (litOf_none hL)⟩

theorem R1_inverts : Inverts true keep readR1 R1.code := .of_const (fun _ _ _ _ => rfl) <| by
  intro mk w l i h
  obtain ⟨hL, hwB, h⟩ := noLit_eq_ok.1 h
  obtain ⟨hd, h⟩ := noD_eq_ok.1 h
  obtain ⟨hb, hi⟩ := noB_eq_ok.1 h
  exact ⟨_, Except.ok.inj hi,
    code_eq (wordR_eq rfl rfl (ofBool_bit w 20) hwB.symm hL.symm hd.symm rfl hb.symm) (litOf_none hL)⟩

theorem G_inverts : Inverts true keep readG G.code := .of_const (fun _ _ _ _ => rfl) <| by
  intro mk w l i h
  obtain ⟨hL, hwB, hwA, h⟩ := noWait_eq_ok.1 h
  obtain ⟨hd, h⟩ := noD_eq_ok.1 h
  obtain ⟨ha, h⟩ := noA_eq_ok.1 h
  obtain ⟨hb, hi⟩ := noB_eq_ok.1 h
  exact ⟨_, Except.ok.inj hi,
    code_eq (wordR_eq rfl rfl hwA.symm hwB.symm hL.symm hd.symm ha.symm hb.symm) (litOf_none hL)⟩

theorem RCmp_inverts : Inverts true (fun l f => { f with b := relitB l f.b }) readRCmp RCmp.code := by
  intro mk w l i h
  obtain ⟨b, hb, hi, hre⟩ := readB_ok h
  exact ⟨_, Except.ok.inj hi,
    code_eq (wordR_eq rfl rfl (ofBool_bit w 20) hb.waitBit hb.litBit (fld_append w rfl) rfl hb.field) hb.literal, hre⟩

/-- A field whose high part is the constant z. -/
theorem const_append {w : Word} {hi lo n m : Nat} {z : BitVec m} (hz : fld w hi m = z) (h : hi = lo + n) :
    z ++ fld w lo n = fld w lo (m + n) := hz ▸ fld_append w h

theorem RFrnd_inverts : Inverts true keep readRFrnd RFrnd.code := .of_const (fun _ _ _ _ => rfl) <| by
  intro mk w l i h
  obtain ⟨hL, hwB, h⟩ := noLit_eq_ok.1 h
  obtain ⟨hz, hi⟩ := want_eq_ok.1 h
  exact ⟨_, Except.ok.inj hi, code_eq (wordR_eq rfl rfl (ofBool_bit w 20) hwB.symm hL.symm rfl rfl
    (const_append (beq_iff_eq.1 hz) rfl)) (litOf_none hL)⟩

theorem RCvt_inverts : Inverts true keep readRCvt RCvt.code := .of_const (fun _ _ _ _ => rfl) <| by
  intro mk w l i h
  obtain ⟨hL, hwB, hi⟩ := noLit_eq_ok.1 h
  exact ⟨_, Except.ok.inj hi, code_eq (wordR_eq rfl rfl (ofBool_bit w 20) hwB.symm hL.symm rfl rfl rfl) (litOf_none hL)⟩

theorem F4_inverts : Inverts false keep readF4 F4.code := .of_const (fun _ _ _ _ => rfl) <| fun _ _ _ _ h =>
  ⟨_, Except.ok.inj h, code_eq (wordF_eq rfl rfl rfl rfl rfl) rfl⟩

theorem C3_inverts : Inverts false keep readC3 C3.code := .of_const (fun _ _ _ _ => rfl) <| fun _ w _ _ h =>
  ⟨_, Except.ok.inj h, code_eq (wordM_eq rfl rfl (ofBool_bit w 20) rfl rfl rfl) rfl⟩

theorem CMov_inverts : Inverts false keep readCMov CMov.code := .of_const (fun _ _ _ _ => rfl) <| by
  intro mk w l i h
  obtain ⟨hwA, h⟩ := want_eq_ok.1 h
  obtain ⟨ha, hi⟩ := want_eq_ok.1 h
  exact ⟨_, Except.ok.inj hi, code_eq (wordM_eq rfl rfl (beq_iff_eq.1 hwA).symm rfl (beq_iff_eq.1 ha).symm rfl) rfl⟩

theorem M_inverts : Inverts false keep readM M.code := .of_const (fun _ _ _ _ => rfl) <| fun _ w _ _ h =>
  ⟨_, Except.ok.inj h, code_eq (wordM_eq rfl rfl (ofBool_bit w 20) rfl rfl rfl) rfl⟩

theorem MS_inverts : Inverts false keep readMS MS.code := .of_const (fun _ _ _ _ => rfl) <| by
  intro mk w l i h
  obtain ⟨hz, hi⟩ := want_eq_ok.1 h
  have hs : fld w 5 3 ++ (0 : BitVec 5) = fld w 0 8 := beq_iff_eq.1 hz ▸ fld_append w rfl
  exact ⟨_, Except.ok.inj hi, code_eq (wordM_eq rfl rfl (ofBool_bit w 20) rfl rfl hs) rfl⟩

theorem CbSet_inverts : Inverts false keep readCbSet CbSet.code := .of_const (fun _ _ _ _ => rfl) <| by
  intro mk w l i h
  obtain ⟨hd, h⟩ := want_eq_ok.1 h
  obtain ⟨hz, hi⟩ := want_eq_ok.1 h
  exact ⟨_, Except.ok.inj hi, code_eq (wordM_eq rfl rfl (ofBool_bit w 20) (beq_iff_eq.1 hd).symm rfl
    (const_append (beq_iff_eq.1 hz) rfl)) rfl⟩

theorem Vote_inverts : Inverts true keep readVote Vote.code := .of_const (fun _ _ _ _ => rfl) <| by
  intro mk w l i h
  obtain ⟨hL, hwB, hwA, h⟩ := noWait_eq_ok.1 h
  obtain ⟨hb, h⟩ := noB_eq_ok.1 h
  obtain ⟨hz, hi⟩ := want_eq_ok.1 h
  exact ⟨_, Except.ok.inj hi, code_eq (wordR_eq rfl rfl hwA.symm hwB.symm hL.symm (fld_append w rfl)
    (const_append (beq_iff_eq.1 hz) rfl) hb.symm) (litOf_none hL)⟩

theorem Ballot_inverts : Inverts true keep readBallot Ballot.code := .of_const (fun _ _ _ _ => rfl) <| by
  intro mk w l i h
  obtain ⟨hL, hwB, hwA, h⟩ := noWait_eq_ok.1 h
  obtain ⟨hb, h⟩ := noB_eq_ok.1 h
  obtain ⟨hz, hi⟩ := want_eq_ok.1 h
  exact ⟨_, Except.ok.inj hi, code_eq (wordR_eq rfl rfl hwA.symm hwB.symm hL.symm rfl
    (const_append (beq_iff_eq.1 hz) rfl) hb.symm) (litOf_none hL)⟩

theorem Red_inverts : Inverts true keep readRed Red.code := .of_const (fun _ _ _ _ => rfl) <| by
  intro mk w l i h
  obtain ⟨hL, hwB, h⟩ := noLit_eq_ok.1 h
  obtain ⟨hb, h⟩ := noB_eq_ok.1 h
  obtain ⟨hz, hi⟩ := want_eq_ok.1 h
  exact ⟨_, Except.ok.inj hi, code_eq (wordR_eq rfl rfl (ofBool_bit w 20) hwB.symm hL.symm
    (const_append (beq_iff_eq.1 hz) rfl) rfl hb.symm) (litOf_none hL)⟩

theorem PLop_inverts : Inverts true keep readPLop PLop.code := .of_const (fun _ _ _ _ => rfl) <| by
  intro mk w l i h
  obtain ⟨hL, hwB, hwA, h⟩ := noWait_eq_ok.1 h
  obtain ⟨hz, hi⟩ := want_eq_ok.1 h
  obtain ⟨ht, hu⟩ := (Bool.and_eq_true _ _).mp hz
  exact ⟨_, Except.ok.inj hi, code_eq (wordR_eq rfl rfl hwA.symm hwB.symm hL.symm (fld_append w rfl)
    (const_append (beq_iff_eq.1 ht) rfl) (const_append (beq_iff_eq.1 hu) rfl)) (litOf_none hL)⟩

theorem BrdOps_inverts : Inverts true (fun l f => { f with j := l }) readBrdOps BrdOps.code := by
  intro mk w l i h
  obtain ⟨hm, hi⟩ := want_eq_ok.1 h
  have h18 : fld w 18 1 = 1 := beq_iff_eq.1 hm
  exact ⟨_, Except.ok.inj hi,
    code_eq (wordVB_eq rfl rfl (ofBool_bit w 20) (ofBool_bit w 19) h18.symm rfl) (litOf_some h18),
    fun _ => want_eq_ok.2 ⟨hm, rfl⟩⟩

theorem JmpV_inverts : Inverts true (fun l f => { f with b := relitB l f.b }) readJmpV JmpV.code := by
  intro mk w l i h
  obtain ⟨hg, h⟩ := want_eq_ok.1 h
  obtain ⟨hd, h⟩ := noD_eq_ok.1 h
  obtain ⟨b, hb, hi, hre⟩ := readB_ok h
  exact ⟨_, Except.ok.inj hi, code_eq (wordR_eq rfl (beq_iff_eq.1 hg).symm (ofBool_bit w 20) hb.waitBit hb.litBit hd.symm rfl
    hb.field) hb.literal, fun l' => want_eq_ok.2 ⟨hg, noD_eq_ok.2 ⟨hd, hre l'⟩⟩⟩

theorem CsrV_inverts : Inverts true keep readCsrV CsrV.code := .of_const (fun _ _ _ _ => rfl) <| by
  intro mk w l i h
  obtain ⟨hL, hwB, hwA, h⟩ := noWait_eq_ok.1 h
  obtain ⟨ha, hi⟩ := noA_eq_ok.1 h
  exact ⟨_, Except.ok.inj hi, code_eq (wordR_eq rfl rfl hwA.symm hwB.symm hL.symm rfl ha.symm rfl) (litOf_none hL)⟩

theorem UB_inverts : Inverts false keep readUB UB.code := .of_const (fun _ _ _ _ => rfl) <| fun _ w _ _ h =>
  ⟨_, Except.ok.inj h, code_eq (wordUB_eq rfl rfl (ofBool_bit w 20) rfl) rfl⟩

theorem LoopOps_inverts : Inverts true (fun l f => { f with o := l }) readLoopOps LoopOps.code := by
  intro mk w l i h
  obtain ⟨hm, h⟩ := want_eq_ok.1 h
  obtain ⟨hz, h⟩ := want_eq_ok.1 h
  obtain ⟨hwB, hb⟩ := (Bool.and_eq_true _ _).mp hz
  obtain ⟨hwA, h⟩ := want_eq_ok.1 h
  obtain ⟨ha, hi⟩ := noA_eq_ok.1 h
  have hL : fld w 18 1 = 1 := beq_iff_eq.1 hm
  exact ⟨_, Except.ok.inj hi, code_eq (wordR_eq rfl rfl (beq_iff_eq.1 hwA).symm (beq_iff_eq.1 hwB).symm hL.symm rfl ha.symm
    (beq_iff_eq.1 hb).symm) (litOf_some hL),
    fun _ => want_eq_ok.2 ⟨hm, want_eq_ok.2 ⟨hz, want_eq_ok.2 ⟨hwA, noA_eq_ok.2 ⟨ha, rfl⟩⟩⟩⟩⟩

theorem TrapOps_inverts : Inverts true keep readTrapOps TrapOps.code := .of_const (fun _ _ _ _ => rfl) <| by
  intro mk w l i h
  obtain ⟨hL, hwB, h⟩ := noLit_eq_ok.1 h
  obtain ⟨hd, hi⟩ := noD_eq_ok.1 h
  exact ⟨_, Except.ok.inj hi, code_eq (wordR_eq rfl rfl (ofBool_bit w 20) hwB.symm hL.symm hd.symm rfl rfl) (litOf_none hL)⟩

theorem SleepOps_inverts : Inverts true (fun l f => { f with b := relitB l f.b }) readSleepOps SleepOps.code := by
  intro mk w l i h
  obtain ⟨hwA, h⟩ := want_eq_ok.1 h
  obtain ⟨hd, h⟩ := noD_eq_ok.1 h
  obtain ⟨ha, h⟩ := noA_eq_ok.1 h
  obtain ⟨b, hb, hi, hre⟩ := readB_ok h
  exact ⟨_, Except.ok.inj hi, code_eq (wordR_eq rfl rfl (beq_iff_eq.1 hwA).symm hb.waitBit hb.litBit hd.symm ha.symm hb.field)
    hb.literal, fun l' => want_eq_ok.2 ⟨hwA, noD_eq_ok.2 ⟨hd, noA_eq_ok.2 ⟨ha, hre l'⟩⟩⟩⟩

theorem UC_inverts : Inverts false keep readUC UC.code := .of_const (fun _ _ _ _ => rfl) <| by
  intro mk w l i h
  obtain ⟨hz, hi⟩ := want_eq_ok.1 h
  exact ⟨_, Except.ok.inj hi, code_eq (wordUC_eq rfl rfl (beq_iff_eq.1 hz).symm rfl rfl) rfl⟩

theorem SetFmtOps_inverts : Inverts true (fun l f => { f with b := relitB l f.b }) readSetFmtOps SetFmtOps.code := by
  intro mk w l i h
  obtain ⟨hwA, h⟩ := want_eq_ok.1 h
  obtain ⟨ha, h⟩ := noA_eq_ok.1 h
  obtain ⟨b, hb, hi, hre⟩ := readB_ok h
  exact ⟨_, Except.ok.inj hi, code_eq (wordR_eq rfl rfl (beq_iff_eq.1 hwA).symm hb.waitBit hb.litBit rfl ha.symm hb.field)
    hb.literal, fun l' => want_eq_ok.2 ⟨hwA, noA_eq_ok.2 ⟨ha, hre l'⟩⟩⟩

theorem TbOps_inverts : Inverts true (fun l f => { f with b := relitB l f.b }) readTbOps TbOps.code := by
  intro mk w l i h
  obtain ⟨hd, h⟩ := noD_eq_ok.1 h
  obtain ⟨b, hb, hi, hre⟩ := readB_ok h
  exact ⟨_, Except.ok.inj hi,
    code_eq (wordR_eq rfl rfl (ofBool_bit w 20) hb.waitBit hb.litBit hd.symm rfl hb.field) hb.literal,
    fun l' => noD_eq_ok.2 ⟨hd, hre l'⟩⟩

theorem FTestOps_inverts : Inverts true keep readFTestOps FTestOps.code := .of_const (fun _ _ _ _ => rfl) <| by
  intro mk w l i h
  obtain ⟨hL, hwB, hwA, h⟩ := noWait_eq_ok.1 h
  obtain ⟨hb, h⟩ := noB_eq_ok.1 h
  obtain ⟨hz, hi⟩ := want_eq_ok.1 h
  exact ⟨_, Except.ok.inj hi, code_eq (wordR_eq rfl rfl hwA.symm hwB.symm hL.symm (const_append (beq_iff_eq.1 hz) rfl) rfl
    hb.symm) (litOf_none hL)⟩

theorem FMoveOps_inverts : Inverts true keep readFMoveOps FMoveOps.code := .of_const (fun _ _ _ _ => rfl) <| by
  intro mk w l i h
  obtain ⟨hL, hwB, hwA, h⟩ := noWait_eq_ok.1 h
  obtain ⟨hb, hi⟩ := noB_eq_ok.1 h
  exact ⟨_, Except.ok.inj hi, code_eq (wordR_eq rfl rfl hwA.symm hwB.symm hL.symm rfl rfl hb.symm) (litOf_none hL)⟩

theorem Shr_inverts : Inverts true keep readShr Shr.code := .of_const (fun _ _ _ _ => rfl) <| by
  intro mk w l i h
  obtain ⟨hL, hwB, h⟩ := noLit_eq_ok.1 h
  split at h
  · next h63 =>
    obtain ⟨hd, ha, hb⟩ := h63
    obtain ⟨hwA, hi⟩ := want_eq_ok.1 h
    exact ⟨.unmap _, Except.ok.inj hi, code_eq (wordR_eq rfl rfl (beq_iff_eq.1 hwA).symm hwB.symm hL.symm hd.symm ha.symm
      hb.symm) (litOf_none hL)⟩
  · obtain ⟨hz, hi⟩ := want_eq_ok.1 h
    exact ⟨.map _ _ _ _ _, Except.ok.inj hi, code_eq (wordR_eq rfl rfl (ofBool_bit w 20) hwB.symm hL.symm rfl rfl
      (const_append (beq_iff_eq.1 hz) rfl)) (litOf_none hL)⟩

theorem SqRdOps_inverts : Inverts true (fun l f => { f with b := relitB l f.b }) readSqRdOps SqRdOps.code := by
  intro mk w l i h
  obtain ⟨hwA, h⟩ := want_eq_ok.1 h
  obtain ⟨hz, h⟩ := want_eq_ok.1 h
  obtain ⟨b, hb, hi, hre⟩ := readB_ok h
  exact ⟨_, Except.ok.inj hi, code_eq (wordR_eq rfl rfl (beq_iff_eq.1 hwA).symm hb.waitBit hb.litBit rfl
    (const_append (beq_iff_eq.1 hz) rfl) hb.field) hb.literal, fun l' => want_eq_ok.2 ⟨hwA, want_eq_ok.2 ⟨hz, hre l'⟩⟩⟩

theorem E2_inverts : Inverts false keep readE2 E2.code := .of_const (fun _ _ _ _ => rfl) <| by
  intro mk w l i h
  obtain ⟨hb, h⟩ := noA_eq_ok.1 h
  obtain ⟨hc, hi⟩ := noB_eq_ok.1 h
  exact ⟨_, Except.ok.inj hi, code_eq (wordF_eq rfl rfl rfl hb.symm hc.symm) rfl⟩

theorem E3_inverts : Inverts false keep readE3 E3.code := .of_const (fun _ _ _ _ => rfl) <| by
  intro mk w l i h
  obtain ⟨hc, hi⟩ := noB_eq_ok.1 h
  exact ⟨_, Except.ok.inj hi, code_eq (wordF_eq rfl rfl rfl rfl hc.symm) rfl⟩

theorem E4_inverts : Inverts false keep readE4 E4.code := .of_const (fun _ _ _ _ => rfl) <| fun _ _ _ _ h =>
  ⟨_, Except.ok.inj h, code_eq (wordF_eq rfl rfl rfl rfl rfl) rfl⟩

theorem EDC_inverts : Inverts false keep readEDC EDC.code := .of_const (fun _ _ _ _ => rfl) <| by
  intro mk w l i h
  obtain ⟨ha, h⟩ := noD_eq_ok.1 h
  obtain ⟨hb, hi⟩ := noA_eq_ok.1 h
  exact ⟨_, Except.ok.inj hi, code_eq (wordF_eq rfl rfl ha.symm hb.symm rfl) rfl⟩

theorem EDAC_inverts : Inverts false keep readEDAC EDAC.code := .of_const (fun _ _ _ _ => rfl) <| by
  intro mk w l i h
  obtain ⟨hb, hi⟩ := noA_eq_ok.1 h
  exact ⟨_, Except.ok.inj hi, code_eq (wordF_eq rfl rfl rfl hb.symm rfl) rfl⟩

/-! ## Each row of the opcode maps -/

/-- The key of the tables by [31:24] (R73, R76). -/
def opKey (w : Word) : Nat := (fld w 24 8).toNat
/-- The key of the VK and UK table (R75), where bits [30:29] are 0b11. -/
def kKey (w : Word) : Nat := (fld w 31 1 ++ fld w 26 3 : BitVec 4).toNat

/-- What a reader answers an instruction for, it does beside any literal word, and the checks of R47 and R69 do not tell the
two apart. -/
def LitFree (r : Reader) : Prop := ∀ w l l' i, r w l = .ok i → ∃ j, r w l' = .ok j ∧ check j = check i

theorem LitFree.of_const {r : Reader} (h : ∀ w l l', r w l = r w l') : LitFree r :=
  fun w l l' i hi => ⟨i, h w l' l ▸ hi, rfl⟩

/-- Under its key, a row's reader answers only instructions whose encoding is what was read, whatever the literal. -/
def RowOk (e : Nat × Reader) : Prop :=
  LitFree e.2 ∧ ∀ w l i, opKey w = e.1 → e.2 w l = .ok i →
    encode i = some ⟨w, if takesLiteral w = true then some l else none⟩

theorem takesLiteral_eq (w l : Word) (h : opKey w ≠ 0x5D) : (if takesLiteral w = true then some l else none) =
    if formatHasL (opKey w) = true then litOf w l else none := by
  have h5 : (opKey w == 0x5D) = false := beq_eq_false_iff_ne.2 h
  have ht : takesLiteral w = (opKey w == 0x5D || (formatHasL (opKey w) && fld w 18 1 == 1)) := rfl
  rw [ht, h5, litOf]
  cases formatHasL (opKey w) <;> simp

theorem op_of_opKey {w : Word} {k : Nat} (h : opKey w = k) : fld w 24 8 = BitVec.ofNat 8 k := by
  rw [← h, opKey, BitVec.ofNat_toNat, BitVec.setWidth_eq]

theorem Inverts.litFree {F : Type} {rd : (F → Instr) → Reader} {code : BitVec 8 → F → Code} {hasL : Bool}
    {relit : Word → F → F} {mk : F → Instr} (h : Inverts hasL relit rd code)
    (hcheck : ∀ l f, check (mk (relit l f)) = check (mk f)) : LitFree (rd mk) := by
  intro w l l' i hr
  obtain ⟨f, rfl, -, hre⟩ := h mk w l i hr
  exact ⟨_, hre l', hcheck l' f⟩

/-- A row whose reader and encoder are of one format. -/
theorem row {F : Type} {rd : (F → Instr) → Reader} {code : BitVec 8 → F → Code} {hasL : Bool} {relit : Word → F → F} {k : Nat}
    {mk : F → Instr} (hinv : Inverts hasL relit rd code)
    (henc : ∀ f, encode (mk f) = some (code (BitVec.ofNat 8 k) f) := by intro _; rfl)
    (hcheck : ∀ l f, check (mk (relit l f)) = check (mk f) := by intro _ _; rfl)
    (hl : formatHasL k = hasL := by rfl) (h5 : k ≠ 0x5D := by decide) : RowOk (k, rd mk) := by
  refine ⟨hinv.litFree hcheck, fun w l i (hk : opKey w = k) hr => ?_⟩
  obtain ⟨f, rfl, hc, -⟩ := hinv mk w l i hr
  rw [henc, ← op_of_opKey hk, hc, takesLiteral_eq w l (hk ▸ h5), hk, hl]

theorem brd_row : RowOk (0x5D, readBrdOps .brd) := by
  refine ⟨BrdOps_inverts.litFree fun _ _ => rfl, fun w l i (hk : opKey w = 0x5D) hr => ?_⟩
  have h18 : fld w 18 1 = 1 := beq_iff_eq.1 (want_eq_ok.1 hr).1
  have ht : takesLiteral w = true := by simp only [takesLiteral, show (fld w 24 8).toNat = 0x5D from hk]; rfl
  obtain ⟨f, rfl, hc, -⟩ := BrdOps_inverts .brd w l i hr
  rw [op_of_opKey hk] at hc
  rw [ht, if_pos rfl, litOf_some h18]
  exact congrArg some hc

theorem sfu_row : RowOk (0x22, readSfu) := by
  refine ⟨.of_const fun _ _ _ => rfl, fun w l i (hk : opKey w = 0x22) hr => ?_⟩
  obtain ⟨hL, hwB, hr⟩ := noLit_eq_ok.1 hr
  rw [takesLiteral_eq w l (hk ▸ by decide), hk]
  have hcode : ∀ {n : Nat}, (fld w 0 6).toNat = n →
      R2.sfuCode (BitVec.ofNat 6 n) ⟨fld w 21 3, bit w 20, fld w 12 6, fld w 6 6⟩ = ⟨w, litOf w l⟩ := by
    rintro n rfl
    exact code_eq (wordR_eq (op_of_opKey hk).symm rfl (ofBool_bit w 20) hwB.symm hL.symm rfl rfl
      (by rw [BitVec.ofNat_toNat, BitVec.setWidth_eq])) (litOf_none hL)
  dsimp only at hr
  iterate 8
    split at hr
    · next hn => cases hr; exact congrArg some (hcode hn)
  cases hr

theorem fence_row : RowOk (0xB8, readFence) := by
  refine ⟨.of_const fun _ _ _ => rfl, fun w l i (hk : opKey w = 0xB8) hr => ?_⟩
  obtain ⟨hz, hr⟩ := want_eq_ok.1 hr
  rw [takesLiteral_eq w l (hk ▸ by decide), hk]
  have hcode : ∀ {k : BitVec 2}, fld w 19 2 = k → Sc.code k ⟨fld w 21 3⟩ = ⟨w, none⟩ := fun h =>
    code_eq (wordFence_eq (op_of_opKey hk).symm rfl h.symm (beq_iff_eq.1 hz).symm) rfl
  iterate 3
    split at hr
    · next hn => cases hr; exact congrArg some (hcode hn)
  next h0 h1 h2 =>
    have h3 : ∀ k : BitVec 2, k ≠ 0 → k ≠ 1 → k ≠ 2 → k = 3 := by decide
    cases hr
    exact congrArg some (hcode (h3 _ h0 h1 h2))

/-- The six high bits of a VK or UK word whose key is k (R75). -/
def opOfKKey (k : Nat) : BitVec 6 := BitVec.ofNat 6 (k / 8 * 32 + 24 + k % 8)

theorem opOfKKey_kKey {w : Word} (h : fld w 29 2 = 3) : opOfKKey (kKey w) = fld w 26 6 := by
  have hcut : fld w 31 1 ++ fld w 29 2 ++ fld w 26 3 = fld w 26 6 := by
    simp (disch := rfl) only [fld_append]
  have hall : ∀ (x : BitVec 1) (y : BitVec 3), opOfKKey (x ++ y : BitVec 4).toNat = (x ++ 3#2 ++ y : BitVec 6) := by decide
  rw [← hcut, h]
  exact hall _ _

theorem takesLiteral_of_3 {w : Word} (h : fld w 29 2 = 3) : takesLiteral w = false := by
  have hall : ∀ op : BitVec 8, op.extractLsb' 5 2 = 3 → (op.toNat == 0x5D) = false ∧ formatHasL op.toNat = false := by decide
  obtain ⟨h5, hl⟩ := hall (fld w 24 8) (fld_29 w ▸ h)
  rw [takesLiteral, h5, hl]
  rfl

/-- As RowOk, for the table of VK and UK. -/
def KRowOk (e : Nat × Reader) : Prop :=
  LitFree e.2 ∧ ∀ w l i, fld w 29 2 = 3 → kKey w = e.1 → e.2 w l = .ok i → encode i = some ⟨w, none⟩

/-- A row of VK or UK. -/
theorem kRow {k : Nat} {mk : K → Instr} (henc : ∀ f, encode (mk f) = some (f.code (opOfKKey k)) := by intro _; rfl) :
    KRowOk (k, readK mk) := by
  refine ⟨.of_const fun _ _ _ => rfl, fun w l i h3 (hk : kKey w = k) hr => ?_⟩
  obtain rfl := Except.ok.inj hr
  rw [henc, ← hk, opOfKKey_kKey h3]
  exact congrArg some (code_eq (wordK_eq rfl rfl rfl) rfl)

/-! The four tables by [31:24] and the one by op3: the proof of each row by the format that the row names, in the order of
the table. -/

theorem rowsV0_ok : ∀ e ∈ rowsV0, RowOk e := by
  simp only [rowsV0, List.forall_mem_cons]
  exact ⟨row R3_inverts, row R3_inverts, row R3_inverts, row R3_inverts, row R3_inverts, row R3_inverts,
    row R3_inverts, row R3_inverts, row R3_inverts, row R2_inverts, row R3_inverts, row R3_inverts, row R3_inverts,
    row R3_inverts, row R3_inverts, row R3_inverts, row R3_inverts, row R3_inverts, row R2_inverts, row R2_inverts,
    row R2_inverts, row R3_inverts, row R3_inverts, row RCmp_inverts, row R3_inverts, row R3_inverts, row R3_inverts,
    row R3_inverts, row R3_inverts, row R3_inverts, row R2_inverts, row R2_inverts, row RCmp_inverts,
    row RFrnd_inverts, sfu_row, row R3_inverts, row R3_inverts, row R3_inverts, row RCvt_inverts, row R3_inverts,
    row F4_inverts, row F4_inverts, row F4_inverts, row F4_inverts, row F4_inverts, row F4_inverts, row F4_inverts,
    nofun⟩

theorem rowsV1_ok : ∀ e ∈ rowsV1, RowOk e := by
  simp only [rowsV1, List.forall_mem_cons]
  exact ⟨row C3_inverts, row C3_inverts, row C3_inverts, row CMov_inverts, row M_inverts, row M_inverts,
    row M_inverts, row M_inverts, row M_inverts, row M_inverts, row M_inverts, row M_inverts, row MS_inverts,
    row M_inverts, row M_inverts, row M_inverts, row M_inverts, row M_inverts, row MS_inverts, row M_inverts,
    row M_inverts, row M_inverts, row MS_inverts, row MS_inverts, row MS_inverts, row MS_inverts, row MS_inverts,
    row MS_inverts, row MS_inverts, row MS_inverts, row MS_inverts, row M_inverts, row R3_inverts, row R3_inverts,
    row R3_inverts, row R3_inverts, row Vote_inverts, row Ballot_inverts, row Red_inverts, row Red_inverts,
    row Red_inverts, row Red_inverts, row R3_inverts, row R2_inverts, row PLop_inverts, brd_row, row JmpV_inverts,
    row CsrV_inverts, nofun⟩

theorem rowsU0_ok : ∀ e ∈ rowsU0, RowOk e := by
  simp only [rowsU0, List.forall_mem_cons]
  exact ⟨row R3_inverts, row R3_inverts, row R3_inverts, row R3_inverts, row R3_inverts, row R3_inverts,
    row R3_inverts, row R3_inverts, row R3_inverts, row R3_inverts, row R3_inverts, row R3_inverts, row R3_inverts,
    row R3_inverts, row RCmp_inverts, row R3_inverts, row R2_inverts, row R2_inverts, row R3_inverts,
    row PLop_inverts, row M_inverts, row M_inverts, row M_inverts, row M_inverts, row M_inverts, row M_inverts,
    row CbSet_inverts, row MS_inverts, row MS_inverts, row MS_inverts, row MS_inverts, row MS_inverts, row UB_inverts,
    row R1_inverts, row UB_inverts, row R1_inverts, row G_inverts, row LoopOps_inverts, row TrapOps_inverts,
    row G_inverts, row G_inverts, row G_inverts, row G_inverts, row G_inverts, row SleepOps_inverts, row UC_inverts,
    row UC_inverts, row SetFmtOps_inverts, nofun⟩

theorem rowsU1_ok : ∀ e ∈ rowsU1, RowOk e := by
  simp only [rowsU1, List.forall_mem_cons]
  exact ⟨row G_inverts, row G_inverts, row G_inverts, row G_inverts, row G_inverts, row TbOps_inverts, row R3_inverts,
    row TbOps_inverts, fence_row, row FTestOps_inverts, row FMoveOps_inverts, row FTestOps_inverts,
    row FMoveOps_inverts, row Shr_inverts, row SqRdOps_inverts, row E2_inverts, row E2_inverts, row E2_inverts,
    row E4_inverts, row E4_inverts, row E4_inverts, row EDC_inverts, row E4_inverts, row EDAC_inverts,
    row EDAC_inverts, row E4_inverts, row EDAC_inverts, row E2_inverts, row E3_inverts, row E4_inverts,
    row EDAC_inverts, row E3_inverts, row E4_inverts, row E4_inverts, row E3_inverts, row E2_inverts, row E3_inverts,
    row E3_inverts, row E3_inverts, row E2_inverts, row E4_inverts, nofun⟩

theorem rowsK_ok : ∀ e ∈ rowsK, KRowOk e := by
  simp only [rowsK, List.forall_mem_cons]
  exact ⟨kRow, kRow, kRow, kRow, kRow, kRow, kRow, kRow, kRow, kRow, kRow, kRow, kRow, kRow, kRow, kRow, nofun⟩

theorem findRow_mem {k : Nat} {r : Reader} {rows : List (Nat × Reader)} (h : findRow k rows = some r) : (k, r) ∈ rows := by
  induction rows with
  | nil => cases h
  | cons e rows ih =>
    obtain ⟨n, r'⟩ := e
    unfold findRow at h
    split at h
    · next hn => cases h; exact hn ▸ List.mem_cons_self
    · exact List.mem_cons_of_mem _ (ih h)

/-- What every row of the maps is, said of the reader that a word chooses. -/
theorem row_of_readerOf {w : Word} {r : Reader} (hr : readerOf w = some r) :
    LitFree r ∧ ∀ l i, r w l = .ok i → encode i = some ⟨w, if takesLiteral w = true then some l else none⟩ := by
  have hrow : RowOk (opKey w, r) → LitFree r ∧ ∀ l i, r w l = .ok i →
      encode i = some ⟨w, if takesLiteral w = true then some l else none⟩ := fun h => ⟨h.1, fun l i => h.2 w l i rfl⟩
  unfold readerOf at hr
  split at hr
  · next h3 =>
    obtain ⟨hlit, henc⟩ := rowsK_ok _ (findRow_mem hr)
    exact ⟨hlit, fun l i h => takesLiteral_of_3 h3 ▸ henc w l i h3 rfl h⟩
  · dsimp only at hr
    split at hr
    · exact hrow (rowsV0_ok _ (findRow_mem hr))
    split at hr
    · exact hrow (rowsV1_ok _ (findRow_mem hr))
    split at hr
    · exact hrow (rowsU0_ok _ (findRow_mem hr))
    · exact hrow (rowsU1_ok _ (findRow_mem hr))

theorem decode_eq_ok {w l : Word} {i : Instr} :
    decode w l = .ok i ↔ ∃ r, readerOf w = some r ∧ r w l = .ok i ∧ check i = none := by
  unfold decode readWord
  cases hr : readerOf w with
  | none => simp
  | some r =>
    cases hi : r w l with
    | error e => simp [hi]
    | ok j =>
      simp only [Option.some.injEq, exists_eq_left', hi, Except.ok.injEq]
      split
      · next e he => simp only [reduceCtorEq, false_iff, not_and]; rintro rfl; simp [he]
      · next he => simp only [Except.ok.injEq, iff_self_and]; rintro rfl; exact he

/-- Whether a word decodes does not depend on the literal that follows it (R69). -/
theorem decode_beside {w l : Word} {i : Instr} (h : decode w l = .ok i) (l' : Word) : ∃ j, decode w l' = .ok j := by
  obtain ⟨r, hr, hi, hcheck⟩ := decode_eq_ok.1 h
  obtain ⟨j, hj, hjc⟩ := (row_of_readerOf hr).1 w l l' i hi
  exact ⟨j, decode_eq_ok.2 ⟨r, hr, hj, hjc.trans hcheck⟩⟩

/-- Settles O57: every row of the opcode maps answers only instructions whose words are those that were read. -/
theorem encodeOfDecode : Obligations.EncodeOfDecode := by
  intro w l i h
  obtain ⟨r, hr, hi, hcheck⟩ := decode_eq_ok.1 h
  exact ⟨by rw [wellFormed, hcheck]; rfl, (row_of_readerOf hr).2 l i hi⟩

end Sys2Proof.Laws

end

section
/-! SUPPORT. The step (R58, R72, R114): what is at the PC runs, and around it nothing happens where no stack has spilled, no
warp is halted and no gate's buffer is full (R151, R185, R431). -/

namespace Sys2Proof.Machine
open Sys2Proof.Laws

/-! ## The issue of what the words decode to -/

/-- The words at a split's PC, inside the code, that decode to i (R58, R71). -/
def wordsAt (c : Ctx) (x : Word) (i : Instr) : Prop :=
  (takesLiteral x = false ∧ c.sp.pc.toNat < c.image.codeLen ∧ decode x 0 = .ok i) ∨
    ∃ l, takesLiteral x = true ∧ c.sp.pc.toNat + 4 < c.image.codeLen ∧ tfind c.sp.ibuf (c.sp.pc.toNat + 4) = some l ∧
      decode x l = .ok i

theorem fetched_of_wordsAt {s : State} {c : Ctx} {x : Word} {i : Instr} (hs : issuer s = some c) (hm : c.mayIssue = true)
    (hx : tfind c.sp.ibuf c.sp.pc.toNat = some x) (hw : wordsAt c x i) : fetched s = .instr i := by
  unfold fetched
  rcases hw with ⟨ht, hlen, hd⟩ | ⟨l, ht, hlen, hl, hd⟩
  · simp only [hs, hm, hx, Nat.not_le.2 hlen, hd, ht, if_true, if_false, Bool.false_eq_true]
  · obtain ⟨j, hj⟩ := decode_beside hd 0
    have hpc : ¬c.image.codeLen ≤ c.sp.pc.toNat := by omega
    simp only [hs, hm, hx, hpc, Nat.not_le.2 hlen, hj, hl, hd, ht, if_true, if_false]

theorem step_of_nextAct {s t : State} {a : Act} {rest : List Act} (h : nextAct s = some (a, rest))
    (ht : actRaw a { s with agenda := rest } = .next t) :
    step s = .next (followHalted { s with agenda := rest } (followSpill { s with agenda := rest } t)).overflowed := by
  unfold step
  rw [h]
  show afterAct _ (actRaw _ _) = _
  rw [ht]
  rfl

/-! ## What a step adds around the instruction, where there is nothing to add -/

theorem foldl_eq_self {α β : Type} {f : β → α → β} {b : β} {xs : List α} (h : ∀ x ∈ xs, f b x = b) : xs.foldl f b = b := by
  induction xs with
  | nil => rfl
  | cons x xs ih =>
    rw [List.foldl_cons, h x List.mem_cons_self]
    exact ih fun y hy => h y (List.mem_cons_of_mem x hy)

/-- No local split of the warps has more entries on its stack than the chip holds (R151). -/
def shallow (t : Tab Warp) : Prop := ∀ e ∈ t, ∀ X ∈ e.2.splits, X.isLocal = true → X.stack.length ≤ 8

theorem spills_eq_zero {X : Split} (h : X.isLocal = true → X.stack.length ≤ 8) : X.spills = 0 := by
  unfold Split.spills
  split
  · next hl => exact Nat.sub_eq_zero_of_le (h hl)
  · rfl

theorem spillSplit_of_shallow {V : Warp} {X : Split} (hX : X.isLocal = true → X.stack.length ≤ 8)
    (hV : ∀ Y ∈ V.splits, Y.isLocal = true → Y.stack.length ≤ 8) (s : State) (w : Nat) : s.spillSplit w V X = s := by
  have hY : ((V.splits.find? fun Y => Y.id = X.id && Y.uid = X.uid && Y.isLocal).getD (blankSplit X.id)).spills = 0 := by
    cases hf : V.splits.find? fun Y => Y.id = X.id && Y.uid = X.uid && Y.isLocal with
    | none => rfl
    | some Y => exact spills_eq_zero (hV Y (List.mem_of_find?_eq_some hf))
  unfold State.spillSplit
  simp only [hY, spills_eq_zero hX, decide_true, Bool.and_self, if_true]

theorem followSpill_of_shallow {s t : State} (hs : shallow s.warps) (ht : shallow t.warps) : followSpill s t = t := by
  refine foldl_eq_self fun e he => ?_
  split
  · rfl
  · next V hV =>
    exact foldl_eq_self fun X hX => spillSplit_of_shallow (ht e he X hX) (hs _ (mem_of_tfind hV)) t e.1

theorem followHalted_of_running {s t : State} (h : ∀ e ∈ t.warps, e.2.halted = false) : followHalted s t = t := by
  unfold followHalted
  rw [List.filter_eq_nil_iff.2 fun e he => by simp [h e he]]
  rfl

theorem overflowed_of_le {t : State} (h : ∀ e ∈ t.regions, e.2.parking.length ≤ 64) : t.overflowed = t := by
  unfold State.overflowed
  rw [List.filter_eq_nil_iff.2 fun e he => by simpa using h e he]
  rfl

/-- Settles O54: the words in the buffer decode to the instruction that exec gets; an event of the agenda is run as it stands. -/
theorem stepRunsDecoded : Obligations.StepRunsDecoded := by
  refine ⟨fun s w sp rest c x i hn hs hm hx hw t ht => step_of_nextAct hn ?_,
    fun s i rest ha he t ht => step_of_nextAct (a := .event i) (by rw [nextAct, ha]) ?_,
    fun s t ht hs hr => ?_, fun s w sp ha hp => by rw [nextAct, ha, hp]; rfl⟩
  · show stepIssue _ = _
    rw [stepIssue, fetched_of_wordsAt hs hm hx hw]
    exact ht
  · show (if isEvent i then _ else _) = _
    rw [isEvent, he]
    exact ht
  · rw [followSpill_of_shallow hs fun e he => (ht e he).2, followHalted_of_running fun e he => (ht e he).1, overflowed_of_le hr]

end Sys2Proof.Machine

end

section
/-! SUPPORT. Scalar operands that are not ready (R51, R52, R122, R172): what an issue of a split at home comes to where it
waits or raises. -/

namespace Sys2Proof.Machine

/-! ## A split at home -/

theorem isLocal_of_home {X : Split} (h : X.home = .wcore) : X.isLocal = true := by rw [Split.isLocal, h]

theorem scalarSide_of_home {c : Ctx} (h : c.sp.home = .wcore) : c.scalarSide = true := by rw [Ctx.scalarSide, h]

theorem scal_of_home {c : Ctx} (h : c.sp.home = .wcore) : c.scal = c.W.sc := by rw [Ctx.scal, h]

/-- At home the scalar side is always at hand. -/
theorem UReady.scal_home {s : State} {c : Ctx} {q : BitVec 3} {neg b : Bool} {srcs dsts : List Src}
    (h : UReady s c q neg b srcs dsts) (hh : c.sp.home = .wcore) (b' : Bool) : UReady s c q neg b' srcs dsts := by
  obtain ⟨hi, hq, hg, hr⟩ := h
  refine ⟨hi, hq, hg, ?_⟩
  simpa only [Ctx.ready, scalarSide_of_home hh, Bool.or_true] using hr

theorem consume_scalar {c : Ctx} {srcs : List Src} (hv : ∀ x ∈ srcs, x.vec = false) : c.consume srcs = c :=
  foldl_eq_self fun x hx => if_neg (by simp [Ctx.consuming, hv x hx])

/-! ## Scalar operands (R51, R52, R172) -/

theorem group_one {vec : Bool} {r : BitVec 6} {w : Bool} (h : r ≠ 63) : group vec r 1 w = [⟨vec, r, w⟩] := by
  rw [group, if_neg h]
  simp

theorem srcWaits_scalar (c : Ctx) (r : BitVec 6) (w : Bool) :
    c.srcWaits ⟨false, r, w⟩ = (w && c.sstate r != .full && !c.smark r) := by
  simp [Ctx.srcWaits, Ctx.consuming, Ctx.srcState]

theorem srcCause_scalar (c : Ctx) (r : BitVec 6) (w : Bool) : c.srcCause ⟨false, r, w⟩ =
    if c.smark r = true then some (cCancelled, 64 + r.toNat, 0)
    else if (!w && c.sstate r != .full) = true then some (cRegEmpty, 64 + r.toNat, 0) else none := by
  simp [Ctx.srcCause, Ctx.consuming, Ctx.srcState]

theorem dstWaits_scalar (c : Ctx) (r : BitVec 6) (w : Bool) :
    c.dstWaits ⟨false, r, w⟩ = (c.sp.isLocal && c.sstate r != .full) := by
  simp [Ctx.dstWaits, Ctx.srcState]

theorem sstate_63 (c : Ctx) : c.sstate 63 = .full := by rw [Ctx.sstate, Scal.sstate, if_pos rfl]

theorem srcWaits_of_readable {c : Ctx} {x : Src} (h : c.readable x = true) : c.srcWaits x = false := by
  simp only [Ctx.readable, Bool.and_eq_true, beq_iff_eq] at h
  simp [Ctx.srcWaits, h.1]

theorem srcCause_of_readable {c : Ctx} {x : Src} (h : c.readable x = true) : c.srcCause x = none := by
  simp only [Ctx.readable, Bool.and_eq_true, beq_iff_eq] at h
  obtain ⟨hfull, hx⟩ := h
  cases hv : x.vec with
  | true => simp [Ctx.srcCause, hfull, hv]
  | false =>
    simp only [hv, Bool.false_eq_true, if_false, Bool.and_eq_true, Bool.not_eq_true'] at hx
    simp [Ctx.srcCause, hfull, hx.1]

theorem waiting_of_readable {c : Ctx} {xs : List Src} (h : ∀ x ∈ xs, c.readable x = true) : c.waiting xs = false := by
  induction xs with
  | nil => rfl
  | cons x xs ih =>
    obtain ⟨hx, hxs⟩ := List.forall_mem_cons.1 h
    simp [Ctx.waiting, srcWaits_of_readable hx, srcCause_of_readable hx, ih hxs]

/-! ## What an issue at home comes to where it does not act -/

/-- R122: a source that waits, or, where no source raises a cause, a destination. -/
def Ctx.mustWait (c : Ctx) (srcs dsts : List Src) : Bool :=
  c.waiting srcs || (!srcs.any (fun x => (c.srcCause x).isSome) && dsts.any c.dstWaits)

theorem check_hold {c : Ctx} {P : Mask} {srcs dsts : List Src} {scal : Bool} {extra : Ctx → List Met} {early : Early}
    (hh : c.sp.home = .wcore) (hw : c.mustWait srcs dsts = true) : c.check P srcs dsts scal extra early = .hold c.s := by
  unfold Ctx.mustWait at hw
  simp only [Ctx.check, Ctx.askAgain, hh, hw, if_true]

theorem check_raise {c : Ctx} {P : Mask} {srcs dsts : List Src} {scal : Bool} {extra : Ctx → List Met} {early : Early}
    {code aux addr : Nat} (hh : c.sp.home = .wcore) (hw : c.mustWait srcs dsts = false)
    (hm : lowest (c.meets srcs extra early) = some (code, aux, addr)) :
    c.check P srcs dsts scal extra early = .raise code aux addr := by
  unfold Ctx.mustWait at hw
  simp only [Ctx.check, hh, hw, hm, Bool.false_eq_true, if_false]

theorem mustWait_of_ready {c : Ctx} {P : Mask} {srcs dsts : List Src} {scal : Bool}
    (h : c.ready P srcs dsts scal = true) : c.mustWait srcs dsts = false := by
  simp only [Ctx.ready, Bool.and_eq_true, List.all_eq_true] at h
  obtain ⟨⟨hs, hd⟩, -⟩ := h
  have hdst : dsts.any c.dstWaits = false := by
    rw [List.any_eq_false]
    intro x hx
    have := hd x hx
    simp only [Ctx.writable, Bool.and_eq_true, Bool.not_eq_true'] at this
    simp [this.1]
  rw [Ctx.mustWait, waiting_of_readable hs, hdst, Bool.and_false, Bool.or_false]

/-- The guard of a split at home is at hand (R53). -/
theorem guard_home {c : Ctx} (hh : c.sp.home = .wcore) (q : BitVec 3) :
    (if q = 7 then Ready.go else c.check 0 [] [] true noCause) = .go := by
  split
  · rfl
  · exact check_go (by simp [Ctx.ready, scalarSide_of_home hh]) rfl (by simp)

theorem uIssue_hold {c : Ctx} {q : BitVec 3} {neg scal : Bool} {words : Nat} {srcs dsts : List Src} {extra : Ctx → List Met}
    {early : Early} (hh : c.sp.home = .wcore) (hg : c.qreg q = !neg) (hw : c.mustWait srcs dsts = true) (k : Ctx → State) :
    c.uIssue q neg words scal srcs dsts extra k early = c.s := by
  have hneg : (c.qreg q == neg) = false := by rw [hg]; cases neg <;> rfl
  simp only [Ctx.uIssue, guard_home hh, hneg, check_hold hh hw, Bool.false_eq_true, if_false, Option.isSome_none]

theorem uIssue_raise {c : Ctx} {q : BitVec 3} {neg scal : Bool} {words : Nat} {srcs dsts : List Src}
    {extra : Ctx → List Met} {early : Early} {code aux : Nat} (hh : c.sp.home = .wcore) (hg : c.qreg q = !neg)
    (hw : c.mustWait srcs dsts = false) (hm : lowest (c.meets srcs extra early) = some (code, aux, 0))
    (hx : code ≠ cXlate) (ho : code ≠ cAccOwner) (k : Ctx → State) :
    c.uIssue q neg words scal srcs dsts extra k early = c.raise code aux := by
  have hneg : (c.qreg q == neg) = false := by rw [hg]; cases neg <;> rfl
  have hraise : c.raiseAt code aux 0 = c.raise code aux := if_neg (by simp [hx, ho])
  simp only [Ctx.uIssue, guard_home hh, hneg, check_raise hh hw hm, Bool.false_eq_true, if_false, Option.isSome_none, hraise]

/-! ## SADD whose source or destination is not FULL -/

theorem sadd_issues {f : R3} {s : State} {c : Ctx} (h : Issues s c) (hb : f.b = .lit 0) (ha : f.a ≠ 63) :
    exec (.sadd f) s = .next (c.uIssue f.g false 2 false [⟨false, f.a, f.wA⟩] (group false f.d 1 true) noCause fun c =>
      ((c.setS f.d (c.sreg f.a + 0)).advance 2).finish true) := by
  change execSadd f s = _
  rw [execSadd, sArith, run_of_issues h, hb, group_one ha]
  rfl

/-- What one scalar source meets. -/
theorem lowest_meets_one {c : Ctx} {x : Src} {z : Met} (h : c.srcCause x = some z) :
    lowest (c.meets [x] noCause []) = some z := by
  simp [Ctx.meets, noCause, h, lowest]

theorem mustWait_of_cause {c : Ctx} {x : Src} {z : Met} (hw : c.srcWaits x = false) (h : c.srcCause x = some z)
    (dsts : List Src) : c.mustWait [x] dsts = false := by
  simp [Ctx.mustWait, Ctx.waiting, hw, h]

/-- Settles O31: the source is looked at before the destination, its cancel mark before its state. -/
theorem sourceAndDestinationRules : Obligations.SourceAndDestinationRules := by
  rintro f r s c hi hh hg hb rfl ha
  rw [sadd_issues hi hb ha, ← issuer_s hi.1]
  refine ⟨fun hs hw hm => ?_, fun hd hs hm => ?_, fun hw hm hs => ?_, fun hm => ?_⟩
  · rw [uIssue_hold hh hg]
    simp [Ctx.mustWait, Ctx.waiting, srcWaits_scalar, hs, hw, hm]
  · have h63 : f.d ≠ 63 := fun h => hd (h ▸ sstate_63 c)
    rw [uIssue_hold hh hg]
    simp [Ctx.mustWait, group_one h63, srcCause_scalar, dstWaits_scalar, isLocal_of_home hh, hs, hm, hd]
  · have hcause : c.srcCause ⟨false, f.a, f.wA⟩ = some (cRegEmpty, 64 + f.a.toNat, 0) := by
      simp [srcCause_scalar, hw, hm, hs]
    have hwait : c.srcWaits ⟨false, f.a, f.wA⟩ = false := by rw [srcWaits_scalar, hw]; rfl
    rw [uIssue_raise hh hg (mustWait_of_cause hwait hcause _) (lowest_meets_one hcause) (by decide) (by decide)]
    rfl
  · have hcause : c.srcCause ⟨false, f.a, f.wA⟩ = some (cCancelled, 64 + f.a.toNat, 0) := by
      simp [srcCause_scalar, hm]
    have hwait : c.srcWaits ⟨false, f.a, f.wA⟩ = false := by simp [srcWaits_scalar, hm]
    rw [uIssue_raise hh hg (mustWait_of_cause hwait hcause _) (lowest_meets_one hcause) (by decide) (by decide)]
    rfl

end Sys2Proof.Machine

end

section
/-! SUPPORT. CSRs (R54-R57, R173, R174, R181): where each is, what a write of it keeps, and the instructions that read and
write them. -/

namespace Sys2Proof.Machine

open Sys2Proof.Claims

/-! ## The CSRs of a warp (R54-R56) -/

theorem Csrs.read_write_ne {i j : Nat} (h : j ≠ i) (q : Csrs) (v : Word) : (q.write i v).read j = q.read j := by
  unfold Csrs.write
  iterate 10
    split
    · next hi => subst hi; simp only [Csrs.read, h, if_false]
  rfl

@[simp] theorem Csrs.write_cycleh (q : Csrs) (i : Nat) (v : Word) : (q.write i v).cycleh = q.cycleh := by
  unfold Csrs.write
  iterate 10
    split
    · rfl
  rfl

/-- R54: a write of a read-only CSR is ignored. -/
theorem Csrs.write_readOnly {i : Nat} (h : i ∈ csrReadOnly) (q : Csrs) (v : Word) : q.write i v = q := by
  have hall : ∀ i ∈ csrReadOnly, i ∉ [0x011, 0x012, 0x013, 0x018, 0x01A, 0x022, 0x031, 0x140, 0x141, 0x142] := by decide
  have hi := hall i h
  simp only [List.mem_cons, List.not_mem_nil, or_false, not_or] at hi
  simp only [Csrs.write, hi, if_false]

/-- R56: a write keeps the bits that are not reserved. -/
theorem Csrs.read_write_mask (q : Csrs) (v : Word) :
    ∀ e ∈ csrMasks, e.1 ≠ 0x010 → (q.write e.1 v).read e.1 = v &&& e.2 := by
  have hall : v = v &&& 0xFFFFFFFF := (BitVec.and_allOnes (x := v)).symm
  simp only [csrMasks, List.forall_mem_cons]
  exact ⟨fun h => absurd rfl h, fun _ => hall, fun _ => rfl, fun _ => rfl, fun _ => rfl, fun _ => hall, fun _ => rfl,
    fun _ => rfl, fun _ => rfl, nofun⟩

theorem Csrs.read_write_exthr (q : Csrs) (v : Word) : ((q.write 0x011 v).read 0x011).toNat = min 4 (v.toNat % 8) := by
  have hmod : (v &&& 7).toNat = v.toNat % 8 := by rw [BitVec.toNat_and]; exact Nat.and_two_pow_sub_one_eq_mod v.toNat 3
  show (if 4 < (v &&& 7).toNat then (4 : Word) else v &&& 7).toNat = _
  split
  · show 4 = _; omega
  · omega

theorem getLsbD_bit12 (k : Nat) : (1#32 <<< 12).getLsbD k = decide (k = 12) := by
  by_cases h : k < 32
  · have hall : ∀ k < 32, (1#32 <<< 12).getLsbD k = decide (k = 12) := by decide
    exact hall k h
  · rw [BitVec.getLsbD_of_ge _ _ (by omega), decide_eq_false (by omega)]

/-- R181: of STRAPC a write reaches UNMAP alone. -/
theorem Csrs.read_write_strapc (q : Csrs) (v : Word) {k : Nat} (hk : k < 32) :
    ((q.write 0x141 v).read 0x141).getLsbD k = if k = 12 then v.getLsbD 12 else (q.read 0x141).getLsbD k := by
  show ((q.strapc &&& ~~~(1#32 <<< 12)) ||| (v &&& (1#32 <<< 12))).getLsbD k = if k = 12 then _ else q.strapc.getLsbD k
  simp only [BitVec.getLsbD_or, BitVec.getLsbD_and, BitVec.getLsbD_not, getLsbD_bit12, hk]
  by_cases h : k = 12 <;> simp [h]

/-! ## CSRR and CSRW of a split at home -/

theorem csrCauses_nil {c : Ctx} {i : Nat} (h : 0x100 ≤ i → c.sp.sup = true) : c.csrCauses i = [] := by
  rw [Ctx.csrCauses, if_neg]
  simpa using h

theorem csrwCauses_nil {c : Ctx} {i : Nat} (hh : c.sp.home = .wcore) (h : 0x100 ≤ i → c.sp.sup = true)
    (ht : i = 0x018 → c.sp.sup = true ∨ c.W.sc.csr.trapc.getLsbD 11 = false) : c.csrwCauses i = [] := by
  rw [Ctx.csrwCauses, csrCauses_nil h, List.nil_append, if_neg]
  simp only [Bool.and_eq_true, decide_eq_true_eq, Bool.not_eq_true', scal_of_home hh, Csrs.inh]
  rintro ⟨⟨⟨hi, hinh⟩, hsup⟩, -⟩
  rcases ht hi with h | h
  · rw [h] at hsup; cases hsup
  · rw [h] at hinh; cases hinh

/-- R57: what CSRR makes of its context. -/
def Ctx.csrReadTo (c : Ctx) (d : BitVec 6) (i : Nat) : Ctx := ((c.setS d (c.csrRead i)).latchCycle i).advance 1

theorem csrr_go {f : UC} {s : State} {c : Ctx} (hh : c.sp.home = .wcore) (hp : 0x100 ≤ f.i.toNat → c.sp.sup = true)
    (h : UReady s c f.g false false [] (group false f.d 1 true)) :
    exec (.csrr f) s = .next ((c.csrReadTo f.d f.i.toNat).finish true) := by
  change execCsrr f s = _
  rw [execCsrr, run_of_issues h.1]
  exact congrArg _ (u_go (h.scal_home hh _) (by simp) 1 (csrCauses_nil hp) _)

theorem csrr_completes {f : UC} {s : State} {c : Ctx} {P : Ctx → Prop} (hh : c.sp.home = .wcore)
    (hp : 0x100 ≤ f.i.toNat → c.sp.sup = true) (h : UReady s c f.g false false [] (group false f.d 1 true))
    (hP : P (c.csrReadTo f.d f.i.toNat)) (hs : (c.csrReadTo f.d f.i.toNat).s = c.s) : completes (.csrr f) s true P :=
  ⟨_, csrr_go hh hp h, hP, issuer_s h.1.1 ▸ hs ▸ sameMemory_finish (c.csrReadTo f.d f.i.toNat) true⟩

theorem csrReadTo_of_ne (c : Ctx) (d : BitVec 6) {i : Nat} (h : i ≠ 0x020) :
    c.csrReadTo d i = (c.setS d (c.csrRead i)).advance 1 := by
  rw [Ctx.csrReadTo, Ctx.latchCycle, if_neg h]

/-- The context with other CSRs of its warp. -/
def Ctx.withCsr (c : Ctx) (q : Csrs) : Ctx := { c with W := { c.W with sc := { c.W.sc with csr := q } } }

theorem withCsr_sreg {c : Ctx} (hh : c.sp.home = .wcore) (q : Csrs) (r : BitVec 6) : (c.withCsr q).sreg r = c.sreg r := by
  have hh' : (c.withCsr q).sp.home = .wcore := hh
  rw [Ctx.sreg, Ctx.sreg, scal_of_home hh, scal_of_home hh']
  rfl

theorem withCsr_sstate {c : Ctx} (hh : c.sp.home = .wcore) (q : Csrs) (r : BitVec 6) :
    (c.withCsr q).sState r = c.sState r := by
  have hh' : (c.withCsr q).sp.home = .wcore := hh
  rw [Ctx.sState, Ctx.sState, Ctx.sstate, Ctx.sstate, scal_of_home hh, scal_of_home hh']
  rfl

theorem cycle_home {c : Ctx} (hh : c.sp.home = .wcore) : c.cycle = (c.s.core c.W.core).cycle := by rw [Ctx.cycle, hh]

theorem latchCycle_home {c : Ctx} (hh : c.sp.home = .wcore) :
    c.latchCycle 0x020 = c.withCsr { c.W.sc.csr with cycleh := (c.s.core c.W.core).cycle.extractLsb' 32 32 } := by
  rw [Ctx.latchCycle, if_pos rfl, hh, cycle_home hh]
  rfl

/-- R57: CSRR of CYCLE. -/
theorem csrReadTo_cycle {c : Ctx} (hh : c.sp.home = .wcore) (d : BitVec 6) {i : Nat} (hi : i = 0x020) :
    let c' := c.csrReadTo d i
    let cyc := (c.s.core c.W.core).cycle
    c'.s = c.s ∧ c'.w = c.w ∧ c'.sp = { c.sp with pc := c.sp.pc + 4 } ∧
    (∀ r, c'.sreg r = if r = d ∧ r ≠ 63 then cyc.extractLsb' 0 32 else c.sreg r) ∧
    c'.W.sc.csr = { c.W.sc.csr with cycleh := cyc.extractLsb' 32 32 } := by
  subst hi
  obtain ⟨hbegun, hs, hsp, -, -, -, hwrote⟩ := c.setS_spec d (c.cycle.extractLsb' 0 32)
  simp only [Ctx.wroteS, hh, List.mem_singleton] at hwrote
  obtain ⟨hreg, -, -, hsc, -⟩ := hwrote
  have hgo : c.csrReadTo d 0x020 = ((c.setS d (c.cycle.extractLsb' 0 32)).latchCycle 0x020).advance 1 := rfl
  dsimp only
  rw [hgo]
  generalize c.setS d (c.cycle.extractLsb' 0 32) = e at *
  have he : e.sp.home = .wcore := hsp ▸ hh
  have hrest : e.W.rest.core = c.W.rest.core := congrArg Warp.core hbegun.W
  have hcore : e.W.core = c.W.core := hrest
  have hcsr : e.W.sc.csr = c.W.sc.csr := by rw [hsc]
  rw [latchCycle_home he, hs, hcore, hcsr]
  refine ⟨hs, hbegun.w, ?_, fun r => ?_, rfl⟩
  · show ({ e.sp with pc := e.sp.pc + 4 } : Split) = _
    rw [hsp]
  · rw [← cycle_home hh, ← hreg r]
    exact withCsr_sreg he _ r

/-! ## What CSRW makes of its context -/

theorem csrWrite_fmt (c : Ctx) (v : Word) : c.csrWrite 0x010 v = { c with sp := { c.sp with fmt := v &&& fmtMask } } := rfl

/-- R267: the table of owners that CSRW of an ACCOWN leaves. -/
def Ctx.withOwner (c : Ctx) (n : Nat) (v : Word) : Ctx :=
  let cl := c.s.cluster (coreCluster c.W.core)
  { c with s := c.s.setCluster (coreCluster c.W.core) { cl with accown := tset cl.accown n (v &&& accownMask) } }

theorem csrWrite_accown (c : Ctx) {i : Nat} (h1 : 0x100 ≤ i) (h2 : i < 0x140) (v : Word) :
    c.csrWrite i v = c.withOwner (i - 0x100) v := by
  rw [Ctx.csrWrite, if_neg (by omega), if_pos (by simp [h1, h2])]
  rfl

theorem csrWrite_warp {c : Ctx} (hh : c.sp.home = .wcore) {i : Nat} (h10 : i ≠ 0x010) (ha : ¬(0x100 ≤ i ∧ i < 0x140)) (v : Word) :
    c.csrWrite i v = c.withCsr (c.W.sc.csr.write i v) := by
  rw [Ctx.csrWrite, if_neg h10, if_neg (by simpa using ha), Ctx.scalWrite, hh]
  rfl

/-- Where the CSR with index i is: FMT in the split, an ACCOWN in the cluster, the others in the warp. -/
theorem csr_place (i : Nat) : i = 0x010 ∨ (0x100 ≤ i ∧ i < 0x140) ∨ (i ≠ 0x010 ∧ ¬(0x100 ≤ i ∧ i < 0x140)) := by omega

theorem csrWrite_frame {c : Ctx} (hh : c.sp.home = .wcore) (i : Nat) (v : Word) :
    let d := c.csrWrite i v
    d.w = c.w ∧ d.sp.pc = c.sp.pc ∧ (∀ r, d.sreg r = c.sreg r ∧ d.sState r = c.sState r) ∧
      d.s = { c.s with clusters := d.s.clusters } := by
  rcases csr_place i with rfl | ⟨h1, h2⟩ | ⟨h10, ha⟩
  · exact ⟨rfl, rfl, fun _ => ⟨rfl, rfl⟩, rfl⟩
  · rw [csrWrite_accown c h1 h2]
    exact ⟨rfl, rfl, fun _ => ⟨rfl, rfl⟩, rfl⟩
  · rw [csrWrite_warp hh h10 ha]
    exact ⟨rfl, rfl, fun r => ⟨withCsr_sreg hh _ r, withCsr_sstate hh _ r⟩, rfl⟩

theorem csrRead_withCsr {c : Ctx} (hh : c.sp.home = .wcore) {q : Csrs} {j : Nat} (hq : q.read j = c.W.sc.csr.read j)
    (hc : q.cycleh = c.W.sc.csr.cycleh) : (c.withCsr q).csrRead j = c.csrRead j := by
  have hh' : (c.withCsr q).sp.home = .wcore := hh
  have hcsr : (c.withCsr q).scal.csr.read j = c.scal.csr.read j := by rw [scal_of_home hh, scal_of_home hh']; exact hq
  simp only [Ctx.csrRead, hcsr, hh, hh', cycle_home hh, cycle_home hh']
  rw [show (c.withCsr q).W.sc.csr.cycleh = c.W.sc.csr.cycleh from hc]
  rfl

theorem csrRead_accown (c : Ctx) {i : Nat} (h1 : 0x100 ≤ i) (h2 : i < 0x140) :
    c.csrRead i = tget 0 (c.s.cluster (coreCluster c.W.core)).accown (i - 0x100) := by
  rw [Ctx.csrRead, if_neg (by omega), if_neg (by omega), if_neg (by omega), if_neg (by omega), if_pos (by simp [h1, h2])]

/-- A write of an ACCOWN as CSRs read it. -/
theorem csrRead_withOwner (c : Ctx) (n j : Nat) (v : Word) :
    (c.withOwner n v).csrRead j = if 0x100 ≤ j ∧ j < 0x140 ∧ j - 0x100 = n then v &&& accownMask else c.csrRead j := by
  by_cases hj : 0x100 ≤ j ∧ j < 0x140
  · rw [csrRead_accown _ hj.1 hj.2, csrRead_accown _ hj.1 hj.2]
    simp only [hj, true_and]
    show tget 0 ((c.s.setCluster (coreCluster c.W.core) _).cluster (coreCluster c.W.core)).accown _ = _
    rw [State.setCluster_cluster_self, tget_tset]
  · rw [if_neg fun h => hj ⟨h.1, h.2.1⟩]
    have hj' : (decide (0x100 ≤ j) && decide (j < 0x140)) = false := by simpa using hj
    simp only [Ctx.csrRead, hj', Bool.false_eq_true, if_false]
    rfl

/-- R54: no other CSR reads otherwise. -/
theorem csrRead_csrWrite_ne {c : Ctx} (hh : c.sp.home = .wcore) {i j : Nat} (h : j ≠ i) (v : Word) :
    (c.csrWrite i v).csrRead j = c.csrRead j := by
  rcases csr_place i with rfl | ⟨h1, h2⟩ | ⟨h10, ha⟩
  · rw [csrWrite_fmt]
    simp only [Ctx.csrRead, h, if_false]
    rfl
  · rw [csrWrite_accown c h1 h2, csrRead_withOwner, if_neg (by omega)]
  · rw [csrWrite_warp hh h10 ha]
    exact csrRead_withCsr hh (Csrs.read_write_ne h _ v) (Csrs.write_cycleh _ i v)

/-- The index is of no place, FMT, clock or owner: the CSR is the warp's (R55). -/
abbrev InWarp (i : Nat) : Prop := 0x00A < i ∧ i ∉ [0x010, 0x020, 0x021] ∧ ¬(0x100 ≤ i ∧ i < 0x140)

theorem csrRead_warp {c : Ctx} (hh : c.sp.home = .wcore) {i : Nat} (hi : InWarp i) : c.csrRead i = c.W.sc.csr.read i := by
  obtain ⟨h1, h2, ha⟩ := hi
  simp only [List.mem_cons, List.not_mem_nil, or_false, not_or] at h2
  obtain ⟨h10, h20, h21⟩ := h2
  rw [Ctx.csrRead, if_neg (by omega), if_neg h10, if_neg h20, if_neg h21, if_neg (by simpa using ha), scal_of_home hh]

theorem csrRead_csrWrite_warp {c : Ctx} (hh : c.sp.home = .wcore) {i : Nat} (hi : InWarp i) (v : Word) :
    (c.csrWrite i v).csrRead i = (c.W.sc.csr.write i v).read i := by
  have h10 : i ≠ 0x010 := fun h => hi.2.1 (h ▸ List.mem_cons_self)
  have hh' : (c.withCsr (c.W.sc.csr.write i v)).sp.home = .wcore := hh
  rw [csrWrite_warp hh h10 hi.2.2, csrRead_warp hh' hi]
  rfl

theorem csrRead_csrWrite_readOnly {c : Ctx} (hh : c.sp.home = .wcore) {i : Nat} (h : i ∈ csrReadOnly) (v : Word) :
    (c.csrWrite i v).csrRead i = c.csrRead i := by
  have hplace : i ≠ 0x010 ∧ ¬(0x100 ≤ i ∧ i < 0x140) := by
    have hall : ∀ i ∈ csrReadOnly, i ≠ 0x010 ∧ ¬(0x100 ≤ i ∧ i < 0x140) := by decide
    exact hall i h
  rw [csrWrite_warp hh hplace.1 hplace.2, Csrs.write_readOnly h]
  rfl

theorem csrRead_csrWrite_mask {c : Ctx} (hh : c.sp.home = .wcore) (v : Word) {e : Nat × Word} (he : e ∈ csrMasks) :
    (c.csrWrite e.1 v).csrRead e.1 = v &&& e.2 := by
  by_cases h10 : e.1 = 0x010
  · have hall : ∀ e ∈ csrMasks, e.1 = 0x010 → e = (0x010, 0x000FBFFF) := by decide
    obtain rfl := hall e he h10
    rfl
  · have hall : ∀ e ∈ csrMasks, e.1 ≠ 0x010 → InWarp e.1 := by decide
    rw [csrRead_csrWrite_warp hh (hall e he h10), Csrs.read_write_mask _ v e he h10]

/-! ## The instructions -/

theorem csrw_go {f : UC} {s : State} {c : Ctx} (hh : c.sp.home = .wcore) (hp : 0x100 ≤ f.i.toNat → c.sp.sup = true)
    (ht : f.i = 0x018 → c.sp.sup = true ∨ c.W.sc.csr.trapc.getLsbD 11 = false) (hb : c.accownBusy f.i.toNat = false)
    (h : UReady s c f.g false false (group false f.d 1 true) []) :
    exec (.csrw f) s = .next (((c.csrWrite f.i.toNat (c.sreg f.d)).advance 1).finish true) := by
  have hx : c.csrwCauses f.i.toNat = [] := csrwCauses_nil hh hp fun h => ht (BitVec.eq_of_toNat_eq h)
  change execCsrw f s = _
  rw [execCsrw, run_of_issues h.1]
  simp only [Ctx.atHome, hh, ite_self]
  rw [uIssue_go h hx (by simpa using hx), consume_scalar (group_scalar _ _ _), hb, if_neg Bool.false_ne_true]

/-- R202: CSRW of GANGA and GANGB recalls a fragment first. -/
theorem csrw_recalls {f : UC} {s : State} {c : Ctx} {q : Slot} (h : Issues s c) (hq : c.sp.home = .ncore q)
    (hi : f.i = 0x012 ∨ f.i = 0x013) : exec (.csrw f) s = .next (recalled c q) := by
  have hi' : (decide (f.i.toNat = 0x012) || decide (f.i.toNat = 0x013)) = true := by rcases hi with h | h <;> rw [h] <;> rfl
  change execCsrw f s = _
  rw [execCsrw, run_of_issues h]
  simp only [hi', if_true, Ctx.atHome, hq]
  rfl

theorem csrw_completes {f : UC} {s : State} {c : Ctx} {P : Ctx → Prop} (hh : c.sp.home = .wcore)
    (hp : 0x100 ≤ f.i.toNat → c.sp.sup = true) (ht : f.i = 0x018 → c.sp.sup = true ∨ c.W.sc.csr.trapc.getLsbD 11 = false)
    (hb : c.accownBusy f.i.toNat = false) (h : UReady s c f.g false false (group false f.d 1 true) [])
    (hP : P ((c.csrWrite f.i.toNat (c.sreg f.d)).advance 1)) : completes (.csrw f) s true P := by
  obtain ⟨-, -, -, hs⟩ := csrWrite_frame hh f.i.toNat (c.sreg f.d)
  refine ⟨_, csrw_go hh hp ht hb h, hP, ?_⟩
  have hmem : SameMemory c.s (c.csrWrite f.i.toNat (c.sreg f.d)).s := by
    rw [hs]; exact sameMemory_of rfl rfl (fun _ => rfl) fun _ => rfl
  exact issuer_s h.1.1 ▸ hmem.trans (sameMemory_finish ((c.csrWrite f.i.toNat (c.sreg f.d)).advance 1) true)

/-- R173: SETFMT. -/
theorem setfmt_completes {f : SetFmtOps} {s : State} {c : Ctx} (hh : c.sp.home = .wcore)
    (h : UReady s c f.g false false (bSrcs f.b false) (group false f.d 1 true)) :
    completes (.setfmt f) s true fun c' =>
      c'.s = c.s ∧ c'.w = c.w ∧ c.wroteS c' [f.d] (fun _ => c.sp.fmt) ∧ c'.W.rest = c.W.rest ∧
      c'.sp = { c.sp with pc := c.sp.pc + BitVec.ofNat 32 (4 * bWords f.b), fmt := c.sB f.b &&& 0x000FBFFF } := by
  have hgo : exec (.setfmt f) s =
      .next ((((c.csrWrite 0x010 (c.sB f.b)).setS f.d c.sp.fmt).advance (bWords f.b)).finish true) := by
    change execSetfmt f s = _
    rw [execSetfmt, run_of_issues h.1, u_go h (bSrcs_scalar _) _ rfl]
    rfl
  obtain ⟨hbegun, hs, hsp, -, -, -, hwrote⟩ := (c.csrWrite 0x010 (c.sB f.b)).setS_spec f.d c.sp.fmt
  refine ⟨_, hgo, ⟨hs, hbegun.w, ?_, hbegun.W, ?_⟩, ?_⟩
  · have hh' : (c.csrWrite 0x010 (c.sB f.b)).sp.home = .wcore := hh
    unfold Ctx.wroteS at hwrote ⊢
    rw [hh'] at hwrote
    rw [hh]
    exact hwrote
  · show ({ ((c.csrWrite 0x010 (c.sB f.b)).setS f.d c.sp.fmt).sp with pc := _ } : Split) = _
    rw [hsp]
    rfl
  · have hs' : ((c.csrWrite 0x010 (c.sB f.b)).setS f.d c.sp.fmt).s = s :=
      hs.trans (issuer_s h.1.1 : c.s = s)
    exact hs' ▸ sameMemory_finish (((c.csrWrite 0x010 (c.sB f.b)).setS f.d c.sp.fmt).advance (bWords f.b)) true

theorem csrAccess : CsrAccess := by
  refine ⟨fun f s c hh _ hp => ⟨fun h => ⟨fun hi => ?_, fun hi => ?_⟩, fun h hb ht => ?_⟩,
    fun f s c q hi hq hg => csrw_recalls hi hq hg, fun f s c hh h => setfmt_completes hh h⟩
  · have hne : f.i.toNat ≠ 0x020 := fun h => hi (BitVec.eq_of_toNat_eq h)
    refine csrr_completes hh hp h ?_ ?_
    · rw [csrReadTo_of_ne c f.d hne]
      exact setS_effect c 1 f.d _
    · rw [csrReadTo_of_ne c f.d hne]
      exact (c.setS_spec f.d _).2.1
  · have hcycle := csrReadTo_cycle hh f.d (i := f.i.toNat) (by rw [hi]; rfl)
    exact csrr_completes hh hp h hcycle hcycle.1
  · refine csrw_completes hh hp ht hb h ?_
    obtain ⟨hw, hpc, hreg, hs⟩ := csrWrite_frame hh f.i.toNat (c.sreg f.d)
    refine ⟨hw, congrArg (· + 4) hpc, hreg, hs, fun j hj => csrRead_csrWrite_ne hh hj _, fun e he hi => ?_, fun hi => ?_,
      fun hi k hk => ?_, fun h1 h2 => ?_, fun hi => csrRead_csrWrite_readOnly hh hi _⟩
    · rw [← hi]; exact csrRead_csrWrite_mask hh _ he
    · rw [hi]
      exact (congrArg BitVec.toNat (csrRead_csrWrite_warp hh (i := 0x011) (by decide) _)).trans
        (Csrs.read_write_exthr _ _)
    · rw [hi, csrRead_warp hh (i := 0x141) (by decide), ← Csrs.read_write_strapc _ _ hk]
      exact congrArg (·.getLsbD k) (csrRead_csrWrite_warp hh (i := 0x141) (by decide) _)
    · rw [csrWrite_accown c h1 h2]
      exact (csrRead_withOwner ..).trans (if_pos ⟨h1, h2, rfl⟩)

/-! ## Accesses that are not allowed -/

theorem lowest_all {zs : List Met} {z : Met} (hne : zs ≠ []) (h : ∀ y ∈ zs, y = z) : lowest zs = some z := by
  induction zs with
  | nil => exact absurd rfl hne
  | cons y ys ih =>
    obtain ⟨rfl, hys⟩ := List.forall_mem_cons.1 h
    cases ys with
    | nil => rfl
    | cons x xs => rw [lowest, ih (by simp) hys]; simp

theorem meets_of_ready {c : Ctx} {P : Mask} {srcs dsts : List Src} {scal : Bool} (h : c.ready P srcs dsts scal = true)
    (extra : Ctx → List Met) : c.meets srcs extra [] = extra c ∧ c.meets srcs extra [([], extra)] = extra c ++ extra c := by
  simp only [Ctx.ready, Bool.and_eq_true, List.all_eq_true] at h
  obtain ⟨⟨hs, -⟩, -⟩ := h
  have hcause : srcs.filterMap c.srcCause = [] := List.filterMap_eq_nil_iff.2 fun x hx => srcCause_of_readable (hs x hx)
  have hfull : (srcs.all fun x => c.srcState x == .full) = true := List.all_eq_true.2 fun x hx => by
    have := hs x hx
    simp only [Ctx.readable, Bool.and_eq_true] at this
    exact this.1
  simp [Ctx.meets, hcause, hfull]

theorem mem_csrCauses {c : Ctx} {i : Nat} {z : Met} (h : z ∈ c.csrCauses i) : z = (cProt, 0x08, 0) := by
  rw [Ctx.csrCauses] at h
  split at h
  · exact List.mem_singleton.1 h
  · cases h

theorem mem_csrwCauses {c : Ctx} {i : Nat} {z : Met} (h : z ∈ c.csrwCauses i) : z = (cProt, 0x08, 0) := by
  rcases List.mem_append.1 h with h | h
  · exact mem_csrCauses h
  · split at h
    · exact List.mem_singleton.1 h
    · cases h

theorem csrCauses_ne_nil {c : Ctx} {i : Nat} (hs : c.sp.sup = false) (hi : 0x100 ≤ i) : c.csrCauses i ≠ [] := by
  rw [Ctx.csrCauses, if_pos (by simp [hs, hi])]
  simp

theorem csrwCauses_ne_nil {c : Ctx} {i : Nat} (hh : c.sp.home = .wcore) (hs : c.sp.sup = false)
    (hi : 0x100 ≤ i ∨ (i = 0x018 ∧ c.W.sc.csr.trapc.getLsbD 11 = true)) : c.csrwCauses i ≠ [] := by
  rw [Ctx.csrwCauses]
  rcases hi with hi | ⟨hi, ht⟩
  · exact List.append_ne_nil_of_left_ne_nil (csrCauses_ne_nil hs hi) _
  · refine List.append_ne_nil_of_right_ne_nil _ ?_
    rw [if_pos (by simp [hi, scal_of_home hh, Csrs.inh, ht, hs, isLocal_of_home hh])]
    simp

theorem csrPrivilege : CsrPrivilege := by
  refine fun f s c hs hh => ⟨fun hi h => ?_, fun hi h => ?_⟩
  · have hz := lowest_all (csrCauses_ne_nil hs hi) fun z hz => mem_csrCauses hz
    change execCsrr f s = _
    rw [execCsrr, run_of_issues h.1]
    exact congrArg _ (uIssue_raise hh h.2.2.1 (mustWait_of_ready h.2.2.2)
      ((congrArg lowest (meets_of_ready h.2.2.2 _).1).trans hz) (by decide) (by decide) _)
  · have hi' : 0x100 ≤ f.i.toNat ∨ (f.i.toNat = 0x018 ∧ c.W.sc.csr.trapc.getLsbD 11 = true) :=
      hi.imp_right fun h => ⟨by rw [h.1]; rfl, h.2⟩
    have hz : lowest (c.csrwCauses f.i.toNat ++ c.csrwCauses f.i.toNat) = some (cProt, 0x08, 0) :=
      lowest_all (List.append_ne_nil_of_left_ne_nil (csrwCauses_ne_nil hh hs hi') _) fun z hz =>
        mem_csrwCauses ((List.mem_append.1 hz).elim id id)
    change execCsrw f s = _
    rw [execCsrw, run_of_issues h.1]
    simp only [Ctx.atHome, hh, ite_self]
    exact congrArg _ (uIssue_raise hh h.2.2.1 (mustWait_of_ready h.2.2.2)
      ((congrArg lowest (meets_of_ready h.2.2.2 fun c => c.csrwCauses f.i.toNat).2).trans hz) (by decide) (by decide) _)

/-- Settles O30: CSRR, CSRW and SETFMT of a split at home, and the accesses that raise PROT 0x08. -/
theorem csrInstructions : Obligations.CsrInstructions := ⟨csrAccess, csrPrivilege⟩

end Sys2Proof.Machine

end

section
/-! SUPPORT. The join point (R362), the instructions that recall a fragment first (R202), and those that need a feature of
the VF (R384, R389). -/

namespace Sys2Proof.Machine

open Sys2Proof.Claims

/-! ## A fragment is recalled first -/

theorem atHome_home {c : Ctx} (hh : c.sp.home = .wcore) (k : Ctx → State) : c.atHome k = k c := by rw [Ctx.atHome, hh]

theorem atHome_fragment {c : Ctx} {q : Slot} (hq : c.sp.home = .ncore q) (k : Ctx → State) : c.atHome k = recalled c q := by
  rw [Ctx.atHome, hq]
  rfl

theorem engIssue_fragment {s : State} {c : Ctx} {q : Slot} (h : Issues s c) (hq : c.sp.home = .ncore q) {d : BitVec 6}
    {srcs : List Src} {extra : Ctx → List Met} {k : Ctx → State} {early : Early} {busy : Ctx → Bool} :
    engIssue true d srcs extra k s early busy = .next (recalled c q) := by
  rw [engIssue, run_of_issues h]
  simp only [if_true, atHome_fragment hq]

theorem join_fragment {f : E2} {s : State} {c : Ctx} {q : Slot} (h : Issues s c) (hq : c.sp.home = .ncore q) :
    exec (.join f) s = .next (recalled c q) := by
  change execJoin f s = _
  rw [execJoin, run_of_issues h, atHome_fragment hq]

/-- With RELAUNCH agreed to, REPRINT issues as LAUNCH does (R384). -/
theorem reprint_eq_launchIssue {f : E3} {s : State} {c : Ctx} (h : Issues s c) (hf : c.feature 0 = true) :
    exec (.reprint f) s = launchIssue true f s := by
  change execReprint f s = _
  simp only [execReprint, h.1, hf, if_true]

/-! ## Absent features -/

theorem withWorkq_absent {s : State} {c : Ctx} (h : Issues s c) (hf : c.feature 1 = false) (k : State → Out) :
    withWorkq s k = .next (c.raise cIllegal 0) := by
  simp only [withWorkq, h.1, hf, Bool.false_eq_true, if_false]
  exact run_of_issues h _

theorem reprint_absent {f : E3} {s : State} {c : Ctx} (h : Issues s c) (hf : c.feature 0 = false) :
    exec (.reprint f) s = .next (c.raise cIllegal 0) := by
  change execReprint f s = _
  simp only [execReprint, h.1, hf, Bool.false_eq_true, if_false]
  exact run_of_issues h _

/-! ## The join point -/

/-- What a block notes of the lanes m of warp w that arrive at its join point, naming children (R362). -/
def Block.joined (B : Block) (named : Word) (w : Nat) (m : Mask) : Block :=
  { B with joinMask := B.joinMask ||| named, joinArr := tset B.joinArr w (tget 0 B.joinArr w ||| m) }

/-- What JOIN makes of its context: a release, the arrival, and the wait. -/
def Ctx.joining (c : Ctx) (f : E2) : Ctx :=
  { c.release with
    s := { c.release.s with blocks := tmod c.release.s.blocks c.W.block fun B => B.joined (c.sreg f.a) c.w c.sp.mask }
    sp := { c.sp with wait := .joinPoint f.d.toNat } }

theorem join_go {f : E2} {s : State} {c : Ctx} (h : UReady s c 7 false false (e1 f.a) (group false f.d 1 true))
    (hh : c.sp.home = .wcore) (hset : c.settled = true) :
    exec (.join f) s = .next (((c.joining f).finish true).joinCheck c.W.block) := by
  change execJoin f s = _
  rw [execJoin, run_of_issues h.1, atHome_home hh]
  refine congrArg _ ((u_go h (group_scalar _ _ _) 1 rfl _).trans ?_)
  simp only [hset, Bool.not_true, Bool.false_eq_true, if_false]
  rfl

theorem blocks_joining (c : Ctx) (f : E2) {B : Block} (hB : tfind c.s.blocks c.W.block = some B) (b : Nat) :
    tfind (c.joining f).s.blocks b =
      if b = c.W.block then some (B.joined (c.sreg f.a) c.w c.sp.mask) else tfind c.s.blocks b := by
  obtain ⟨-, -, hblocks⟩ := releaseOf_frame c.s c.w c.W
  have hjoin : (c.joining f).s.blocks =
      tmod (releaseOf c.s c.w c.W).1.blocks c.W.block fun B => B.joined (c.sreg f.a) c.w c.sp.mask := rfl
  rw [hjoin, hblocks, tfind_tmod]
  split
  · next hb => rw [hb, hB]; rfl
  · rfl

/-- Settles O41: JOIN's arrival, what recalls a fragment before it issues, and what needs WORKQ or RELAUNCH. -/
theorem joinRecallAndFeatures : Obligations.JoinRecallAndFeatures := by
  refine ⟨fun f s c B h hh hset hB => ?_, fun s c q h hq => ?_, fun s c h => ⟨fun hf f g => ?_, fun hf f => reprint_absent h hf⟩⟩
  · exact ⟨c.joining f, join_go h hh hset, rfl, rfl, rfl, rfl, blocks_joining c f hB⟩
  · have heng : ∀ {d srcs extra k early busy}, engIssue true d srcs extra k s early busy = .next (recalled c q) :=
      engIssue_fragment h hq
    exact ⟨fun _ => ⟨heng, heng, heng⟩, fun _ => ⟨heng, heng, heng⟩, fun _ => heng, fun _ => join_fragment h hq,
      fun _ => ⟨heng, fun hf => (reprint_eq_launchIssue h hf).trans heng⟩⟩
  · have hwork : ∀ k, withWorkq s k = .next (c.raise 0x01 0) := withWorkq_absent h hf
    exact ⟨show execWqpush f s = _ from hwork _, show execWqpop f s = _ from hwork _, show execWqwait g s = _ from hwork _⟩

end Sys2Proof.Machine
end

section
/-! SUPPORT. Splits of a warp and their join entries: what the shared operations on them leave and change (R150-R155). -/

namespace Sys2Proof.Machine

/-! ## The split with an id -/

theorem split_id {W : Warp} {i : Nat} {X : Split} (h : W.split i = some X) : X.id = i := by
  simpa using List.find?_some h

theorem split_mem {W : Warp} {i : Nat} {X : Split} (h : W.split i = some X) : X ∈ W.splits := List.mem_of_find?_eq_some h

/-- A change of every split that keeps ids. -/
theorem split_mapSplits {W V : Warp} {g : Split → Split} (hV : V.splits = W.splits.map g) (hg : ∀ X, (g X).id = X.id)
    (i : Nat) : V.split i = (W.split i).map g := by
  simp only [Warp.split, hV, List.find?_map, Function.comp_def, hg]

theorem split_setSplit {W : Warp} {X Y : Split} (h : W.split X.id = some Y) : (W.setSplit X).split X.id = some X := by
  rw [split_mapSplits (W := W) (g := fun Y => if Y.id = X.id then X else Y) rfl fun Y => ?_, h]
  · simp [split_id h]
  · by_cases hY : Y.id = X.id <;> simp [hY]

theorem setSplit_setSplit (W : Warp) {X Y : Split} (h : X.id = Y.id) : (W.setSplit X).setSplit Y = W.setSplit Y := by
  simp only [Warp.setSplit, List.map_map, Warp.mk.injEq, and_true, true_and]
  refine List.map_congr_left fun Z _ => ?_
  by_cases hZ : Z.id = Y.id <;> simp [h, hZ]

theorem mem_setSplit {W : Warp} {X Y : Split} (h : Y ∈ (W.setSplit X).splits) : Y = X ∨ (Y ∈ W.splits ∧ Y.id ≠ X.id) := by
  obtain ⟨Z, hZ, rfl⟩ := List.mem_map.1 h
  by_cases hid : Z.id = X.id
  · exact .inl (if_pos hid)
  · exact .inr (by simp only [hid, if_false]; exact ⟨hZ, hid⟩)

theorem split_dropSplit (W : Warp) (i : Nat) : (W.dropSplit i).split i = none := by
  simp [Warp.split, Warp.dropSplit, List.find?_eq_none]

/-! ## Join entries -/

theorem stackEntry_modStack {f : JoinE → JoinE} (hf : ∀ E, (f E).id = E.id) (e : Nat) (st : List StackE) :
    stackEntry (modStack e f st) e = (stackEntry st e).map f := by
  induction st with
  | nil => rfl
  | cons x st ih =>
    cases x with
    | call r => exact ih
    | join E =>
      simp only [modStack] at ih
      by_cases hE : E.id = e
      · simp [modStack, stackEntry, hE, hf]
      · simp [modStack, stackEntry, hE, ih]

theorem entry_mem {W : Warp} {e o : Nat} {E : JoinE} (h : W.entry e = some (o, E)) :
    ∃ Y ∈ W.splits, Y.id = o ∧ stackEntry Y.stack e = some E := by
  obtain ⟨Y, hY, hE⟩ := List.exists_of_findSome?_eq_some h
  obtain ⟨F, hF, hp⟩ := Option.map_eq_some_iff.1 hE
  obtain ⟨rfl, rfl⟩ := Prod.mk.inj hp
  exact ⟨Y, hY, rfl, hF⟩

theorem split_modEntry (W : Warp) (e : Nat) (f : JoinE → JoinE) (i : Nat) :
    (W.modEntry e f).split i = (W.split i).map fun X => { X with stack := modStack e f X.stack } :=
  split_mapSplits (W := W) (g := fun X => { X with stack := modStack e f X.stack }) rfl (fun _ => rfl) i

theorem entry_modEntry (W : Warp) {e : Nat} {f : JoinE → JoinE} (hf : ∀ E, (f E).id = E.id) :
    (W.modEntry e f).entry e = (W.entry e).map fun z => (z.1, f z.2) := by
  simp only [Warp.entry, Warp.modEntry]
  induction W.splits with
  | nil => rfl
  | cons X xs ih =>
    simp only [List.map_cons, List.findSome?_cons, stackEntry_modStack hf]
    cases stackEntry X.stack e with
    | none => exact ih
    | some E => rfl

/-- An entry stays with its owner where another split, which holds none of that id afterwards, is changed or removed. -/
theorem entry_of_other {W V : Warp} {e o i : Nat} {E : JoinE} {g : Split → Option Split} (h : W.entry e = some (o, E))
    (ho : o ≠ i) (hV : V.splits = W.splits.filterMap g) (hsame : ∀ Y, Y.id ≠ i → g Y = some Y)
    (hgone : ∀ Y Z, Y.id = i → g Y = some Z → stackEntry Z.stack e = none) : V.entry e = some (o, E) := by
  simp only [Warp.entry, hV] at h ⊢
  generalize W.splits = xs at h
  induction xs with
  | nil => cases h
  | cons Y ys ih =>
    by_cases hY : Y.id = i
    · have htail : ys.findSome? (fun X => (stackEntry X.stack e).map fun E => (X.id, E)) = some (o, E) := by
        rw [List.findSome?_cons] at h
        cases hE : stackEntry Y.stack e with
        | none => simpa [hE] using h
        | some F =>
          simp only [hE, Option.map_some, Option.some.injEq, Prod.mk.injEq] at h
          exact absurd (h.1.symm.trans hY) ho
      cases hg : g Y with
      | none => simpa [hg] using ih htail
      | some Z => simpa [hg, hgone Y Z hY hg] using ih htail
    · rw [List.filterMap_cons_some (hsame Y hY), List.findSome?_cons]
      rw [List.findSome?_cons] at h
      cases hE : stackEntry Y.stack e with
      | none => rw [hE] at h; exact ih h
      | some F => rw [hE] at h; exact h

theorem entry_setSplit {W : Warp} {X : Split} {e o : Nat} {E : JoinE} (h : W.entry e = some (o, E)) (ho : o ≠ X.id)
    (hX : stackEntry X.stack e = none) : (W.setSplit X).entry e = some (o, E) := by
  refine entry_of_other (g := fun Y => some (if Y.id = X.id then X else Y)) h ho ?_ (fun Y hY => by simp [hY]) ?_
  · simp [Warp.setSplit]
  · intro Y Z hY hZ
    simp only [hY, if_true, Option.some.injEq] at hZ
    exact hZ ▸ hX

theorem entry_dropSplit {W : Warp} {i e o : Nat} {E : JoinE} (h : W.entry e = some (o, E)) (ho : o ≠ i) :
    (W.dropSplit i).entry e = some (o, E) := by
  refine entry_of_other (g := fun Y => if (Y.id != i) = true then some Y else none) h ho ?_ (fun Y hY => by simp [hY]) ?_
  · exact (congrFun (List.filterMap_eq_filter (p := fun Y : Split => Y.id != i)) W.splits).symm
  · intro Y Z hY hZ
    simp [hY] at hZ

/-! ## Settling (R153, R154) -/

/-- R205: while fragments are outstanding an entry does not merge. -/
theorem tryMerge_of_joins {W : Warp} {e : Nat} (h : ∀ o E, W.entry e = some (o, E) → E.joins ≠ 0) : W.tryMerge e = none := by
  unfold Warp.tryMerge
  split
  · rfl
  · next o E hE =>
    split
    · rfl
    · simp [h o E hE]

/-- A split that is not empty and stands at no J of its innermost join goes on. -/
theorem settle_of_stays {W : Warp} {i : Nat} {X : Split} (hX : W.split i = some X) (hm : X.mask ≠ 0)
    (hj : ∀ own e, X.innermost = some (own, e) → ∀ o E, W.entry e = some (o, E) → X.pc ≠ E.j) (n : Nat) :
    W.settle n i = W := by
  cases n with
  | zero => rfl
  | succ n =>
    simp only [Warp.settle, hX, hm, if_false]
    split
    · rfl
    · split
      · rfl
      · next own e hi =>
        split
        · rfl
        · next o E hE => simp [hj own e hi o E hE]

/-- R204: split X, in slot f, stands at the J of its link: another split holds that entry, and fragments are outstanding. -/
structure AtLink (W : Warp) (X : Split) (f : Slot) (e : Nat) : Prop where
  here : ∃ Y, W.split X.id = some Y
  home : X.home = .ncore f
  link : X.link = some e
  stack : X.stack = []
  sup : X.sup = false
  wait : X.wait = .none
  service : X.service = false
  mask : X.mask ≠ 0
  atJ : ∀ Y ∈ W.splits, ∀ E, stackEntry Y.stack e = some E → E.j = X.pc ∧ E.joins ≠ 0
  owner : ∃ Y ∈ W.splits, Y.id ≠ X.id ∧ (stackEntry Y.stack e).isSome = true

/-- A fragment with its slot replaced. -/
def Split.inSlot (X : Split) (f : Slot) : Split := { X with home := .ncore f }

/-- The fragment once it has started to rejoin. -/
def Split.rejoining (X : Split) (f : Slot) : Split := X.inSlot { f with stage := .rejoining }

theorem AtLink.rejoining {W : Warp} {X : Split} {f : Slot} {e : Nat} (h : AtLink W X f e) :
    AtLink W (X.rejoining f) { f with stage := .rejoining } e := { h with home := rfl }

theorem AtLink.entry {W : Warp} {X : Split} {f : Slot} {e : Nat} (h : AtLink W X f e) :
    ∃ o E, (W.setSplit X).entry e = some (o, E) := by
  obtain ⟨Y, hY, hid, hE⟩ := h.owner
  cases hent : (W.setSplit X).entry e with
  | some z => exact ⟨z.1, z.2, rfl⟩
  | none =>
    have hnone := List.findSome?_eq_none_iff.1 hent Y (List.mem_map.2 ⟨Y, hY, if_neg hid⟩)
    rw [Option.map_eq_none_iff] at hnone
    rw [hnone] at hE
    cases hE

theorem AtLink.entry_at {W : Warp} {X : Split} {f : Slot} {e o : Nat} {E : JoinE} (h : AtLink W X f e)
    (hE : (W.setSplit X).entry e = some (o, E)) : E.j = X.pc ∧ E.joins ≠ 0 := by
  obtain ⟨Y, hY, -, hYE⟩ := entry_mem hE
  rcases mem_setSplit hY with rfl | ⟨hY, -⟩
  · rw [h.stack] at hYE; cases hYE
  · exact h.atJ Y hY E hYE

/-- It starts to rejoin, and its warp is looked at again. -/
theorem AtLink.settle_succ {W : Warp} {X : Split} {f : Slot} {e : Nat} (h : AtLink W X f e) (n : Nat) :
    (W.setSplit X).settle (n + 1) X.id = (W.setSplit (X.rejoining f)).settle n X.id := by
  obtain ⟨Y, hY⟩ := h.here
  obtain ⟨o, E, hE⟩ := h.entry
  have hpc : X.pc = E.j := (h.entry_at hE).1.symm
  have hb : X.borrowed = false := by rw [Split.borrowed, decide_eq_false h.mask, Bool.false_and]
  have hin : X.innermost = some (false, e) := by simp [Split.innermost, h.stack, h.sup, h.link]
  have harrive : ((W.setSplit X).setSplit X).arrive X false E = W.setSplit (X.rejoining f) := by
    simp only [Warp.arrive, h.home, Bool.false_eq_true, if_false]
    rw [setSplit_setSplit W (rfl : X.id = X.id)]
    exact setSplit_setSplit W (X := X) (Y := X.rejoining f) rfl
  have hmerge : (W.setSplit (X.rejoining f)).tryMerge e = none :=
    tryMerge_of_joins fun o E hE => (h.rejoining.entry_at hE).2
  have hidle : (decide (X.wait ≠ .none) || X.service || X.borrowed) = false := by simp [h.wait, h.service, hb]
  simp only [Warp.settle, split_setSplit hY, hidle, h.mask, hin, hE, hpc, harrive, hmerge, Bool.false_eq_true, if_false,
    decide_true, Bool.or_true, if_true]

/-- A fragment at the J of its link starts to rejoin, and stays so as often as it is looked at. -/
theorem AtLink.settle {W : Warp} {X : Split} {f : Slot} {e : Nat} (h : AtLink W X f e) (n : Nat) :
    (W.setSplit X).settle (n + 1) X.id = W.setSplit (X.rejoining f) := by
  induction n generalizing X f with
  | zero => exact h.settle_succ 0
  | succ n ih => exact (h.settle_succ (n + 1)).trans (ih (f := { f with stage := .rejoining }) h.rejoining)

end Sys2Proof.Machine
end

section
/-! SUPPORT. The messages between a warp and its fragments (R190-R211), each by a lemma of its own. -/

namespace Sys2Proof.Machine

open Sys2Proof.Claims

/-! ## Single bits -/

theorem getLsbD_shiftOne {n k i : Nat} (hi : i < n) : (1#n <<< k).getLsbD i = (i == k) := by
  rw [← BitVec.twoPow_eq, BitVec.getLsbD_twoPow]
  by_cases h : i = k
  · subst h; simp [hi]
  · simp [h, Ne.symm h]

theorem getLsbD_clearBit {n : Nat} (x : BitVec n) (k : Nat) {i : Nat} (hi : i < n) :
    (x &&& ~~~(1#n <<< k)).getLsbD i = (x.getLsbD i && i != k) := by
  rw [BitVec.getLsbD_and, BitVec.getLsbD_not, getLsbD_shiftOne hi, decide_eq_true hi, Bool.true_and]
  rfl

theorem getLsbD_setBit {n : Nat} (x : BitVec n) (k : Nat) {i : Nat} (hi : i < n) :
    (x ||| (1#n <<< k)).getLsbD i = (x.getLsbD i || i == k) := by
  rw [BitVec.getLsbD_or, getLsbD_shiftOne hi]

/-- Lanes of P from y, the others from x. -/
theorem getLsbD_blend (x y P : Mask) {l : Nat} (hl : l < 32) :
    ((x &&& ~~~P) ||| (y &&& P)).getLsbD l = if P.getLsbD l = true then y.getLsbD l else x.getLsbD l := by
  simp only [BitVec.getLsbD_or, BitVec.getLsbD_and, BitVec.getLsbD_not, hl, decide_true, Bool.true_and]
  cases P.getLsbD l <;> simp

/-! ## A fragment and its warp -/

/-- The context of a split that runs in slot f of an N-core. -/
structure Ctx.Away (c : Ctx) (f : Slot) : Prop where
  warp : tfind c.s.warps c.w = some c.W
  split : c.W.split c.sp.id = some c.sp
  home : c.sp.home = .ncore f

theorem fragAt_away {s : State} {w sp : Nat} {c : Ctx} {f : Slot} (h : fragAt s w sp c f) :
    c.s = s ∧ c.w = w ∧ c.sp.id = sp ∧ c.Away f := by
  obtain ⟨hc, hhome⟩ := h
  unfold splitCtx at hc
  split at hc
  · cases hc
  · next W hW =>
    obtain ⟨X, hX, rfl⟩ := Option.map_eq_some_iff.1 hc
    obtain rfl := split_id hX
    exact ⟨rfl, rfl, rfl, hW, hX, hhome⟩

theorem tfind_putWarp (s : State) (w : Nat) (W : Warp) (h : W.shr = none) : tfind (s.putWarp w W).warps w = some W := by
  rw [State.putWarp_warps_alone s w W h, tfind_tset_self]

theorem putSlot_eq (c : Ctx) (f : Slot) : c.putSlot f = slotPut c f := rfl

section
variable {c : Ctx} {f : Slot}

theorem Ctx.Away.fragCtx_eq (h : c.Away f) : fragCtx c.s c.w c.sp.id = some (c, f) := by
  simp only [fragCtx, splitCtx, h.warp, h.split, Option.map_some, Split.slot?, h.home]

theorem Ctx.Away.message (h : c.Away f) (k : Ctx → Slot → State) : onFrag c.s c.w c.sp.id k = .next (k c f) := by
  rw [onFrag, h.fragCtx_eq]

theorem Ctx.Away.split_put (h : c.Away f) {X : Split} (hid : X.id = c.sp.id) : (c.W.setSplit X).split c.sp.id = some X :=
  hid ▸ split_setSplit (hid ▸ h.split)

/-- A fragment whose PC or mask has changed, and which stands at no join of its own, is left as it is. -/
theorem Ctx.Away.settle_staysOn (h : c.Away f) {X : Split} (hid : X.id = c.sp.id) (hstack : X.stack = c.sp.stack)
    (hs : staysOn c X) (n : Nat) : (c.W.setSplit X).settle n c.sp.id = c.W.setSplit X := by
  obtain ⟨hm, hj⟩ := hs
  refine settle_of_stays (h.split_put hid) hm (fun own e hi o E hE => ?_) n
  obtain ⟨Y, hY, -, hYE⟩ := entry_mem hE
  rcases mem_setSplit hY with rfl | ⟨hY, -⟩
  · exact hj own e hi c.sp (split_mem h.split) E (hstack ▸ hYE)
  · exact hj own e hi Y hY E hYE

/-! ## Export (R193, R194, R204) -/

/-- EXPORT starts the slot, and the fragment is looked at. -/
theorem Ctx.Away.exportMsg_go (h : c.Away f) (hstage : f.stage = .exporting) (holder : f.older = 0) :
    exec (.exportMsg c.w c.sp.id) c.s = .next (c.s.putWarp c.w
      ((c.W.setSplit (c.sp.inSlot { f with stage := .running })).settle settleFuel c.sp.id)) := by
  change execExportMsg c.w c.sp.id c.s = _
  rw [execExportMsg, h.message, if_pos (by simp [hstage, holder])]
  rfl

theorem Ctx.Away.exportMsg_runs (h : c.Away f) (hstage : f.stage = .exporting) (holder : f.older = 0) (hs : staysOn c c.sp) :
    exec (.exportMsg c.w c.sp.id) c.s = .next (slotPut c { f with stage := .running }) := by
  rw [h.exportMsg_go hstage holder, h.settle_staysOn (X := c.sp.inSlot { f with stage := .running }) rfl rfl hs]
  rfl

theorem Ctx.Away.exportMsg_rejoins (h : c.Away f) (hstage : f.stage = .exporting) (holder : f.older = 0) {e : Nat}
    (hat : AtLink c.W (c.sp.inSlot { f with stage := .running }) { f with stage := .running } e) :
    exec (.exportMsg c.w c.sp.id) c.s = .next (slotPut c { f with stage := .rejoining }) := by
  have hfuel : settleFuel = 511 + 1 := rfl
  rw [h.exportMsg_go hstage holder, hfuel]
  exact congrArg (fun W => Host.Outcome.next (c.s.putWarp c.w W)) (hat.settle 511)

/-! ## Registers (R195, R196, R198) -/

theorem Ctx.Away.pullreq_full (h : c.Away f) {r : Nat} {wait : Bool} (hr : tfind f.pulls r = some wait)
    (hp : f.pending.getLsbD r = true) (hfull : c.W.vstate r = .full) :
    let x : Xfer := { pushed := false, vals := c.W.vlanes r }
    ∃ f', exec (.pullreq c.w c.sp.id r) c.s = .next (slotPut c f') ∧
      f' = { f with pulls := tdel f.pulls r, pending := f'.pending, xfers := tset f.xfers r x } ∧
      ∀ i, i < 64 → f'.pending.getLsbD i = (f.pending.getLsbD i && i != r) := by
  refine ⟨{ f with pulls := tdel f.pulls r, pending := f.pending &&& ~~~(1#64 <<< r),
                   xfers := tset f.xfers r { pushed := false, vals := c.W.vlanes r } }, ?_, rfl,
    fun i hi => getLsbD_clearBit _ r hi⟩
  change execPullreq c.w c.sp.id r c.s = _
  rw [execPullreq, h.message]
  simp only [hr, hp, hfull, Bool.not_true, Bool.false_eq_true, if_false, if_true, putSlot_eq]

theorem Ctx.Away.pullreq_refused (h : c.Away f) {r : Nat} (hr : tfind f.pulls r = some false) (hp : f.pending.getLsbD r = true)
    (hfull : c.W.vstate r ≠ .full) :
    exec (.pullreq c.w c.sp.id r) c.s = .next (slotPut c { f with pulls := tdel f.pulls r, refused := some r }) := by
  change execPullreq c.w c.sp.id r c.s = _
  rw [execPullreq, h.message]
  simp only [hr, hp, hfull, Bool.not_true, Bool.false_eq_true, if_false, putSlot_eq]

theorem Ctx.Away.values_arrive (h : c.Away f) {r : Nat} {x : Xfer} (hx : tfind f.xfers r = some x)
    (hp : f.present.getLsbD r = false) :
    ∃ f', exec (if x.pushed = true then .overpush c.w c.sp.id r else .pulldata c.w c.sp.id r) c.s = .next (slotPut c f') ∧
      f' = { f with xfers := tdel f.xfers r, present := f'.present, v := f'.v } ∧
      (∀ i, i < 64 → f'.present.getLsbD i = (f.present.getLsbD i || i == r)) ∧
      (∀ q, q ≠ r → tget [] f'.v q = tget [] f.v q) ∧
      ∀ l, l < 32 → laneOf (tget [] f'.v r) l = if f.lanes.getLsbD l = true then laneOf x.vals l else 0 := by
  refine ⟨{ f with xfers := tdel f.xfers r, present := f.present ||| (1#64 <<< r),
                   v := tset f.v r (lanes32 fun l => if f.lanes.getLsbD l then laneOf x.vals l else 0) }, ?_, rfl,
    fun i hi => getLsbD_setBit _ r hi, fun q hq => tget_tset_ne _ _ _ hq, fun l hl => ?_⟩
  · have hexec : exec (if x.pushed = true then .overpush c.w c.sp.id r else .pulldata c.w c.sp.id r) c.s =
        deliver x.pushed c.w c.sp.id r c.s := by cases x.pushed <;> rfl
    rw [hexec, deliver, h.message]
    simp only [hx, hp, bne_self_eq_false, Bool.false_eq_true, if_false, putSlot_eq]
  · rw [tget_tset_self, laneOf_lanes32 _ hl]

/-! ## The way back (R199) -/

/-- What a write of register r at the parent makes of a slot that still lacks r (R198). -/
def Warp.pushTo (W : Warp) (r : Nat) (f : Slot) : Slot :=
  if f.pending.getLsbD r && W.vstate r = .full then
    { f with
      pending := f.pending &&& ~~~(1#64 <<< r)
      xfers := if (tfind f.xfers r).isSome then f.xfers else tset f.xfers r { pushed := true, vals := W.vlanes r } }
  else f

theorem split_backV (W : Warp) (f : Slot) (r i : Nat) :
    (W.backV f r).split i = (W.split i).map fun X => X.modSlot (W.pushTo r) :=
  split_mapSplits (W := W) (g := fun X => X.modSlot (W.pushTo r)) rfl (fun X => Split.modSlot_id X _) i

theorem Ctx.Away.backpush_register (h : c.Away f) (hs : c.W.shr = none) (hq : f.quiet = true) (hret : f.returning = true)
    {r : Nat} (hr : r < 63) (hd : f.dirty.getLsbD r = true) (hfull : c.W.vstate r = .full) :
    ∃ t W' f', exec (.backpush c.w c.sp.id r) c.s = .next t ∧ tfind t.warps c.w = some W' ∧
      ((W'.split c.sp.id).bind (·.slot?)) = some f' ∧ f'.dirty.getLsbD r = false ∧ W'.vstate r = .full ∧ W'.sc = c.W.sc ∧
      (∀ l, l < 32 → laneOf (W'.vlanes r) l =
        if f.lanes.getLsbD l = true then laneOf (tget [] f.v r) l else laneOf (c.W.vlanes r) l) ∧
      ∀ q, q ≠ r → W'.vlanes q = c.W.vlanes q ∧ W'.vstate q = c.W.vstate q := by
  have hmod : c.sp.modSlot (c.W.pushTo r) = c.sp.inSlot (c.W.pushTo r f) := by rw [Split.modSlot, h.home]; rfl
  have hsplit : (c.W.backV f r).split c.sp.id = some (c.sp.inSlot (c.W.pushTo r f)) := by
    rw [split_backV, h.split, Option.map_some, hmod]
  let g : Slot := { c.W.pushTo r f with dirty := (c.W.pushTo r f).dirty &&& ~~~(1#64 <<< r) }
  have hput : ((c.W.backV f r).setSplit (c.sp.inSlot g)).split c.sp.id = some (c.sp.inSlot g) := split_setSplit hsplit
  refine ⟨_, (c.W.backV f r).setSplit (c.sp.inSlot g), g, ?_, tfind_putWarp c.s c.w _ hs, by rw [hput]; rfl, ?_,
    tget_tset_self _ _ _ _, rfl, fun l hl => ?_, fun q hq => ⟨tget_tset_ne _ _ _ hq, tget_tset_ne _ _ _ hq⟩⟩
  · change execBackpush c.w c.sp.id r c.s = _
    rw [execBackpush, h.message]
    have h64 : r ≠ 64 := by omega
    simp only [hq, hret, h64, hd, Warp.takesBack, hfull, hsplit]
    rfl
  · change ((c.W.pushTo r f).dirty &&& ~~~(1#64 <<< r)).getLsbD r = false
    rw [getLsbD_clearBit _ _ (by omega)]
    simp
  · change laneOf (tget [] (tset c.W.v r _) r) l = _
    rw [tget_tset_self, laneOf_lanes32 _ hl]
    rfl

/-- Predicate n of a slot goes to the parent if it is dirty. -/
def Warp.backOne (f : Slot) (W : Warp) (n : Nat) : Warp :=
  if f.pDirty.getLsbD n then { W with p := tset W.p n ((tget 0 W.p n &&& ~~~f.lanes) ||| (tget 0 f.p n &&& f.lanes)) } else W

theorem foldl_backOne (f : Slot) {ns : List Nat} (hns : ns.Nodup) (W : Warp) :
    ∃ p, ns.foldl (Warp.backOne f) W = { W with p := p } ∧ ∀ n, tget 0 p n =
      if n ∈ ns ∧ f.pDirty.getLsbD n = true then (tget 0 W.p n &&& ~~~f.lanes) ||| (tget 0 f.p n &&& f.lanes)
      else tget 0 W.p n := by
  induction ns generalizing W with
  | nil => exact ⟨W.p, rfl, fun n => by simp⟩
  | cons m ns ih =>
    obtain ⟨hm, hns⟩ := List.nodup_cons.1 hns
    by_cases hd : f.pDirty.getLsbD m = true
    · have hone : Warp.backOne f W m =
          { W with p := tset W.p m ((tget 0 W.p m &&& ~~~f.lanes) ||| (tget 0 f.p m &&& f.lanes)) } := if_pos hd
      obtain ⟨p, hp, hval⟩ := ih hns (Warp.backOne f W m)
      refine ⟨p, by rw [List.foldl_cons, hp, hone], fun n => ?_⟩
      rw [hval n, hone, tget_tset]
      by_cases hnm : n = m
      · subst hnm; simp [hm, hd]
      · simp [hnm]
    · have hone : Warp.backOne f W m = W := if_neg hd
      obtain ⟨p, hp, hval⟩ := ih hns W
      refine ⟨p, by rw [List.foldl_cons, hone, hp], fun n => ?_⟩
      rw [hval n]
      by_cases hnm : n = m
      · subst hnm; simp [hm, hd]
      · simp [hnm]

/-- R199: the dirty predicates of a slot reach the parent, and nothing else of it changes. -/
theorem backP_spec (W : Warp) (f : Slot) : ∃ p, W.backP f = { W with p := p } ∧ ∀ n, n < 7 → tget 0 p n =
    if f.pDirty.getLsbD n = true then (tget 0 W.p n &&& ~~~f.lanes) ||| (tget 0 f.p n &&& f.lanes) else tget 0 W.p n := by
  obtain ⟨p, hp, hval⟩ := foldl_backOne f List.nodup_range W (ns := List.range 7)
  exact ⟨p, hp, fun n hn => by rw [hval n]; simp only [List.mem_range, hn, true_and]⟩

theorem Ctx.Away.backpush_predicates (h : c.Away f) (hs : c.W.shr = none) (hq : f.quiet = true) (hret : f.returning = true) :
    ∃ t W' f', exec (.backpush c.w c.sp.id 64) c.s = .next t ∧ tfind t.warps c.w = some W' ∧
      ((W'.split c.sp.id).bind (·.slot?)) = some f' ∧ f' = { f with pDirty := 0 } ∧
      ∀ n l, n < 7 → l < 32 → (tget 0 W'.p n).getLsbD l =
        if f.pDirty.getLsbD n = true ∧ f.lanes.getLsbD l = true then (tget 0 f.p n).getLsbD l
        else (tget 0 c.W.p n).getLsbD l := by
  obtain ⟨p, hp, hval⟩ := backP_spec c.W f
  let V : Warp := { c.W with p := p }
  let g : Slot := { f with pDirty := 0 }
  have hput : (V.setSplit (c.sp.inSlot g)).split c.sp.id = some (c.sp.inSlot g) :=
    split_setSplit (W := V) (X := c.sp.inSlot g) h.split
  refine ⟨_, V.setSplit (c.sp.inSlot g), g, ?_, tfind_putWarp c.s c.w _ hs, by rw [hput]; rfl, rfl, fun n l hn hl => ?_⟩
  · change execBackpush c.w c.sp.id 64 c.s = _
    rw [execBackpush, h.message, hp]
    simp only [hq, hret]
    rfl
  · change (tget 0 p n).getLsbD l = _
    rw [hval n hn]
    by_cases hd : f.pDirty.getLsbD n = true
    · simp only [hd, if_true, true_and, getLsbD_blend _ _ _ hl]
    · rw [if_neg hd, if_neg fun hb => hd hb.1]

/-! ## The scalar side (R190) -/

theorem Ctx.Away.sread_answers (h : c.Away f) {rs : Tab Bool} (hreq : f.sreq = some rs) (hw : c.W.swrites = [])
    (hall : ∀ e ∈ rs, c.W.sc.answers e.1 e.2 = true) :
    exec (.sread c.w c.sp.id) c.s = .next (slotPut c { f with sreq := none, snap := some c.W.sc }) := by
  change execSread c.w c.sp.id c.s = _
  rw [execSread, h.message]
  simp only [hreq, hw, List.isEmpty_nil, Bool.true_and, List.all_eq_true.2 hall, if_true, putSlot_eq]

theorem writesIn_of_landed {s : State} {w : Nat} {W : Warp} (hl : writesLanded s w W) : s.writesIn w W = true := by
  unfold State.writesIn
  split
  · rfl
  · next m ms hw => rw [hl m (by rw [hw]; rfl)]; rfl

/-! ## Barriers (R206, R239) -/

theorem Ctx.Away.bararr_arrives (h : c.Away f) {cl : Bool} {m : Mask} (hreq : f.barReq = some (cl, m)) (hq : f.queue = [])
    (hl : writesLanded c.s c.w c.W) :
    let marks := c.W.marks cl ||| (m &&& ~~~c.W.exited)
    let W := { c.W with barArr := if cl = true then c.W.barArr else marks, cbarArr := if cl = true then marks else c.W.cbarArr }
    let d : Ctx := { c with W := W }
    exec (.bararr c.w c.sp.id) c.s = .next ((slotPut d { f with barReq := none }).barCheck c.W.block cl) := by
  change execBararr c.w c.sp.id c.s = _
  rw [execBararr, h.message]
  simp only [hreq, hq, writesIn_of_landed hl, List.isEmpty_nil, Bool.not_true, Bool.or_self, Bool.false_eq_true, if_false]
  cases cl <;> rfl

/-- A split that its barrier lets go on. -/
def Split.pastBarrier (X : Split) : Split := { X with wait := .none, pc := X.pc + 4 }

/-- The barrier that the fragment waits at has completed: it goes on at its next instruction. -/
theorem Ctx.Away.barrier_passes (h : c.Away f) {ph : Nat} (hwait : c.sp.wait = .bar ph)
    (hph : c.s.barPhase c.W.block false ≠ ph) (hs : staysOn c { c.sp with pc := c.sp.pc + 4 }) :
    exec (.barrierCompletionMessage c.w c.sp.id) c.s =
      .next (putBack c c.W.sc { c.sp with wait := .none, pc := c.sp.pc + 4 }) := by
  have hrest : c.restDue = none := by rw [Ctx.restDue, hwait]
  have hdone : c.barDone = true := by simp [Ctx.barDone, hwait, hph]
  have hsettle := h.settle_staysOn (X := c.sp.pastBarrier) rfl rfl hs settleFuel
  change execBarrierCompletionMessage c.w c.sp.id c.s = _
  rw [execBarrierCompletionMessage, h.message]
  simp only [hrest, hdone, if_true]
  exact congrArg (fun W => Host.Outcome.next (c.s.putWarp c.w W)) hsettle

/-- The lanes that had arrived before arrive at the next phase. -/
theorem Ctx.Away.barrier_rests (h : c.Away f) {cl : Bool} {ph : Nat} {rest : Mask}
    (hwait : c.sp.wait = .barRest cl false ph rest) (hph : c.s.barPhase c.W.block cl ≠ ph) (hreq : f.barReq = none)
    (hs : staysOn c { c.sp with pc := c.sp.pc + 4 }) :
    exec (.barrierCompletionMessage c.w c.sp.id) c.s = .next (putBack c c.W.sc
      { c.sp with wait := .none, pc := c.sp.pc + 4, home := .ncore { f with barReq := some (cl, rest) } }) := by
  have hrest : c.restDue = some (cl, false, ph, rest) := by simp [Ctx.restDue, hwait, hph]
  have hsettle := h.settle_staysOn (X := c.sp.pastBarrier.inSlot { f with barReq := some (cl, rest) }) rfl rfl hs settleFuel
  change execBarrierCompletionMessage c.w c.sp.id c.s = _
  rw [execBarrierCompletionMessage, h.message]
  simp only [hrest, hreq, Option.isSome_none, Bool.false_eq_true, if_false]
  exact congrArg (fun W => Host.Outcome.next (c.s.putWarp c.w W)) hsettle

/-! ## Rejoin and recall (R203-R205, R211) -/

theorem Ctx.Away.fragmentRecall_stops (h : c.Away f) (hstage : f.stage = .running) (hwait : c.sp.wait ≠ .service)
    (hreq : f.barReq = none) (hstop : (tfind c.s.blocks c.W.block).bind (·.stop) ≠ none) :
    exec (.fragmentRecall c.w c.sp.id) c.s = .next (slotPut c
      { f with stage := .recalling, sreq := none, snap := none, pulls := [], refused := none }) := by
  have hmay : c.mayRecall f = true := by simp [Ctx.mayRecall, hstage, hwait, hreq, Option.isSome_iff_ne_none, hstop]
  change execFragmentRecall c.w c.sp.id c.s = _
  rw [execFragmentRecall, h.message, if_pos hmay]
  rfl

theorem slot_freed (s : State) (f : Slot) (w : Nat) (W : Warp) :
    f.slot ∉ (((s.freeSlot f).putWarp w W).core f.ncore).nslots := by
  simp [State.freeSlot]

/-- A join entry one of whose fragments has come back, with lanes m. -/
def JoinE.falls (m : Mask) (E : JoinE) : JoinE := { E with joins := E.joins - 1, arrived := E.arrived ||| m }

theorem entry_falls {W : Warp} {e o : Nat} {E : JoinE} (hE : W.entry e = some (o, E)) (m : Mask) :
    (W.modEntry e (JoinE.falls m)).entry e = some (o, E.falls m) := by
  rw [entry_modEntry W (f := JoinE.falls m) (fun _ => rfl), hE]
  rfl

/-- While other fragments are outstanding the join entry stays. -/
theorem joinDec_outstanding {W : Warp} {e o : Nat} {E : JoinE} (hE : W.entry e = some (o, E)) (hj : 2 ≤ E.joins) (m : Mask) :
    W.joinDec (some e) m = W.modEntry e (JoinE.falls m) := by
  have hmerge : (W.modEntry e (JoinE.falls m)).tryMerge e = none := by
    refine tryMerge_of_joins fun p F hF => ?_
    rw [entry_falls hE, Option.some.injEq, Prod.mk.injEq] at hF
    rw [← hF.2]
    change E.joins - 1 ≠ 0
    omega
  change (match (W.modEntry e (JoinE.falls m)).tryMerge e with | some (V, o) => V.settle settleFuel o | none => _) = _
  rw [hmerge]
  rfl

/-- R204: a fragment that has handed everything back is gone, and its lanes have arrived at its link. -/
theorem Ctx.Away.joindec_rejoins (h : c.Away f) (hs : c.W.shr = none) (hb : c.handedBack f = true) {e o k : Nat} {E : JoinE}
    (hstage : f.stage = .rejoining) (hlink : c.sp.link = some e) (hE : c.W.entry e = some (o, E)) (ho : o ≠ c.sp.id)
    (hj : E.joins = k + 2) :
    ∃ t W', exec (.joindec c.w c.sp.id) c.s = .next t ∧ tfind t.warps c.w = some W' ∧ W'.split c.sp.id = none ∧
      f.slot ∉ (t.core f.ncore).nslots ∧
      W'.entry e = some (o, { E with joins := k + 1, arrived := E.arrived ||| (c.sp.mask &&& ~~~c.W.exited) }) := by
  have hD : ((c.W.addHints f).dropSplit c.sp.id).entry e = some (o, E) := entry_dropSplit (W := c.W.addHints f) hE ho
  let V := ((c.W.addHints f).dropSplit c.sp.id).modEntry e (JoinE.falls (c.sp.mask &&& ~~~c.W.exited))
  refine ⟨(c.s.freeSlot f).putWarp c.w V, V, ?_, tfind_putWarp _ _ _ hs, ?_, slot_freed _ _ _ _, ?_⟩
  · change execJoindec c.w c.sp.id c.s = _
    rw [execJoindec, h.message]
    simp only [hb, hstage, Bool.not_true, Bool.false_eq_true, if_false, if_true]
    rw [Ctx.rejoin, hlink, joinDec_outstanding hD (by omega)]
  · rw [split_modEntry, split_dropSplit]
    rfl
  · rw [entry_falls hD, JoinE.falls, hj]
    rfl

/-- A fragment that has come home. -/
def Split.atHome (X : Split) (age : Nat) : Split := { X with home := .wcore, age := age }

/-- Its warp, before the join counter of its link falls. -/
def Ctx.homeWarp (c : Ctx) (f : Slot) : Warp :=
  ({ (c.W.addHints f) with nextAge := c.W.nextAge + 1 } : Warp).setSplit (c.sp.atHome c.W.nextAge)

theorem homeWarp_split {c : Ctx} (hX : c.W.split c.sp.id = some c.sp) (f : Slot) :
    (c.homeWarp f).split c.sp.id = some (c.sp.atHome c.W.nextAge) :=
  split_setSplit (W := { (c.W.addHints f) with nextAge := c.W.nextAge + 1 }) (X := c.sp.atHome c.W.nextAge) hX

/-- R203: a fragment that waits for nothing comes home where it stands. -/
theorem comeHome_eq {c : Ctx} {f : Slot} (hwait : c.sp.wait = .none) {W : Warp} (hW : (c.homeWarp f).joinDec c.sp.link 0 = W)
    (hX : W.split c.sp.id = some (c.sp.atHome c.W.nextAge)) :
    c.comeHome f = { c with s := c.s.freeSlot f, W := W, sp := c.sp.atHome c.W.nextAge } := by
  have hdone : c.barDone = false := by rw [Ctx.barDone, hwait]
  have hsp : (W.split (c.sp.atHome c.W.nextAge).id).getD (c.sp.atHome c.W.nextAge) = c.sp.atHome c.W.nextAge := by
    rw [show (c.sp.atHome c.W.nextAge).id = c.sp.id from rfl, hX]; rfl
  simp only [Ctx.comeHome, hdone, Bool.false_eq_true, if_false]
  rw [← hsp, ← hW]
  rfl

/-- Without an entry of its own the innermost join of a split is its link. -/
theorem link_of_innermost {X : Split} (hstack : X.stack = []) {own : Bool} {e : Nat} (hin : X.innermost = some (own, e)) :
    X.link = some e := by
  unfold Split.innermost at hin
  rw [hstack] at hin
  simp only [Option.ite_none_left_eq_some, Option.map_eq_some_iff, Prod.mk.injEq] at hin
  obtain ⟨-, e', hlink, -, rfl⟩ := hin
  exact hlink

/-- A warp whose fragment has come home without an entry of its own, and not at its J: it settles as it is. -/
theorem Ctx.Away.home_settled (h : c.Away f) (hstack : c.sp.stack = []) (hm : c.sp.mask ≠ 0)
    (hlink : c.sp.link = none ∨
      ∃ e o E, c.sp.link = some e ∧ c.W.entry e = some (o, E) ∧ o ≠ c.sp.id ∧ 2 ≤ E.joins ∧ c.sp.pc ≠ E.j) :
    ∃ V, (c.homeWarp f).joinDec c.sp.link 0 = V ∧ V.shr = c.W.shr ∧
      V.split c.sp.id = some (c.sp.atHome c.W.nextAge) ∧ V.settle settleFuel c.sp.id = V := by
  have hsplit := homeWarp_split h.split f
  have hstack' : (c.sp.atHome c.W.nextAge).stack = [] := hstack
  rcases hlink with hnone | ⟨e, o, E, hsome, hE, ho, hj, hpc⟩
  · refine ⟨c.homeWarp f, by rw [hnone]; rfl, rfl, hsplit, settle_of_stays hsplit hm (fun own e hin => ?_) _⟩
    exact absurd (hnone.symm.trans (link_of_innermost hstack' hin)) (by simp)
  · have hH : (c.homeWarp f).entry e = some (o, E) :=
      entry_setSplit (W := { (c.W.addHints f) with nextAge := c.W.nextAge + 1 }) (X := c.sp.atHome c.W.nextAge) hE ho
        (by rw [hstack']; rfl)
    have hX : ((c.homeWarp f).modEntry e (JoinE.falls 0)).split c.sp.id = some (c.sp.atHome c.W.nextAge) := by
      rw [split_modEntry, hsplit, Option.map_some, Split.atHome, hstack]
      rfl
    refine ⟨(c.homeWarp f).modEntry e (JoinE.falls 0), by rw [hsome, joinDec_outstanding hH hj], rfl, hX,
      settle_of_stays hX hm (fun own e' hin p F hF => ?_) _⟩
    obtain rfl : e = e' := Option.some.inj (hsome.symm.trans (link_of_innermost hstack' hin))
    rw [entry_falls hH, Option.some.injEq, Prod.mk.injEq] at hF
    rw [← hF.2]
    exact hpc

/-- R203, R211: a fragment that has handed everything back is a local split again, at the PC at which it stopped. -/
theorem Ctx.Away.joindec_recalls (h : c.Away f) (hs : c.W.shr = none) (hb : c.handedBack f = true)
    (hstage : f.stage = .recalling) (hwait : c.sp.wait = .none) (hstack : c.sp.stack = []) (hm : c.sp.mask ≠ 0)
    (hlink : c.sp.link = none ∨
      ∃ e o E, c.sp.link = some e ∧ c.W.entry e = some (o, E) ∧ o ≠ c.sp.id ∧ 2 ≤ E.joins ∧ c.sp.pc ≠ E.j) :
    ∃ t W' Y, exec (.joindec c.w c.sp.id) c.s = .next t ∧ tfind t.warps c.w = some W' ∧ W'.split c.sp.id = some Y ∧
      Y = { c.sp with home := .wcore, age := c.W.nextAge } ∧ f.slot ∉ (t.core f.ncore).nslots := by
  obtain ⟨V, hV, hshr, hX, hsettle⟩ := h.home_settled hstack hm hlink
  refine ⟨(c.s.freeSlot f).putWarp c.w V, V, _, ?_, tfind_putWarp _ _ _ (hshr.trans hs), hX, rfl, slot_freed _ _ _ _⟩
  change execJoindec c.w c.sp.id c.s = _
  rw [execJoindec, h.message]
  simp only [hb, hstage, Bool.not_true, Bool.false_eq_true, if_false, if_true, reduceCtorEq, comeHome_eq hwait hV hX, hsettle]

/-! ## Causes (R209) -/

theorem Ctx.Away.cause_held (h : c.Away f) {code addr aux : Nat} (hstage : f.stage = .stopped code addr aux false)
    (hv : c.W.sc.csr.trapv &&& 0xFFFFFFFC ≠ 0) (hinh : c.W.sc.csr.trapc.getLsbD 11 = false) (hreq : f.barReq = none)
    (hl : writesLanded c.s c.w c.W) :
    exec (.cause c.w c.sp.id) c.s = .next (slotPut c { f with stage := .stopped code addr aux true }) := by
  have hh : c.W.sc.csr.handler ≠ 0 := hv
  have hi : c.W.sc.csr.inh = false := hinh
  change execCause c.w c.sp.id c.s = _
  rw [execCause, h.message]
  simp only [hstage, hreq, writesIn_of_landed hl, hh, hi, Option.isSome_none, Bool.not_true, Bool.or_self, Bool.false_eq_true,
    decide_false, if_false, putSlot_eq]

/-- R199: of a fragment that has nothing dirty there is nothing to push back. -/
theorem pushAll_clean (hq : f.quiet = true) (hd : f.dirty = 0) (hp : f.pDirty = 0) (hw : c.W.swrites = [])
    (hst : c.storesDone = true) : c.pushAll f = some c := by
  have hregs : ((List.range 63).filter fun r => f.dirty.getLsbD r) = [] := by simp [hd]
  have hpreds : c.W.backP f = c.W := foldl_eq_self fun n _ => by simp [hp]
  simp only [Ctx.pushAll, hregs, hpreds, hq, hw, hst, List.isEmpty_nil, List.all_nil, Bool.and_self, if_true, List.foldl_nil]

theorem storesDone_of_none (hst : ∀ a ∈ c.s.accs, a.2.warp = c.w → a.2.frag = true → a.2.split ≠ c.sp.id) :
    c.storesDone = true := by
  have hnone : (c.s.accs.any fun e => e.2.warp = c.w && e.2.frag && e.2.split = c.sp.id) = false := by
    simpa [List.any_eq_false] using hst
  rw [Ctx.storesDone, hnone]
  rfl

/-- R177: with a handler that is free, a user cause of a local split enters it. -/
theorem trapLocal_enters {y : Ctx} (hv : y.W.sc.csr.handler ≠ 0) (hinh : y.W.sc.csr.inh = false)
    (hlen : y.W.sc.csr.handler.toNat < y.image.codeLen) (hsfu : y.s.sfuBusy y.w = false) (z : Cause) (frag : Bool) :
    y.trapLocal z frag = (y.enterUser z frag).put := by
  simp only [Ctx.trapLocal, hv, hinh, hsfu, Nat.not_le.mpr hlen, decide_false, Bool.or_self, Bool.false_eq_true, if_false]

theorem shr_enterUser (y : Ctx) (z : Cause) (frag : Bool) :
    ((y.enterUser z frag).W.setSplit (y.enterUser z frag).sp).shr = y.W.shr := by simp only [Ctx.enterUser, Warp.setSplit]

theorem split_withScal (W : Warp) (q : Scal) (i : Nat) : ({ W with sc := q } : Warp).split i = W.split i := rfl

theorem split_enterUser {y : Ctx} (hX : y.W.split y.sp.id = some y.sp) (z : Cause) (frag : Bool) :
    ((y.enterUser z frag).W.setSplit (y.enterUser z frag).sp).split y.sp.id = some (y.enterUser z frag).sp := by
  have hthere : (y.enterUser z frag).W.split (y.enterUser z frag).sp.id = some y.sp := by
    simp only [Ctx.enterUser, Split.stash, split_withScal, hX]
  exact split_setSplit hthere

/-- The warp's cause is about to be delivered. -/
def Ctx.undue (c : Ctx) : Ctx := { c with W := { c.W with causeDue := false } }

/-- A fragment without a link that has come home. -/
def Ctx.broughtHome (c : Ctx) (f : Slot) : Ctx :=
  { c with s := c.s.freeSlot f, W := c.homeWarp f, sp := c.sp.atHome c.W.nextAge }

theorem comeHome_unlinked {c : Ctx} (hX : c.W.split c.sp.id = some c.sp) (hwait : c.sp.wait = .none) (hlink : c.sp.link = none)
    (f : Slot) : c.comeHome f = c.broughtHome f := comeHome_eq hwait (by rw [hlink]; rfl) (homeWarp_split hX f)

theorem image_broughtHome {c : Ctx} (hsup : c.sp.sup = false) (f : Slot) : (c.broughtHome f).image = c.image := by
  have hsup' : (c.broughtHome f).sp.sup = false := hsup
  simp only [Ctx.image, hsup, hsup', Bool.false_eq_true, if_false]
  rfl

/-- R209: the fragment comes home at the instruction that caused, and the handler starts in it. -/
theorem Ctx.Away.cause_delivered (h : c.Away f) (hs : c.W.shr = none) {code addr aux : Nat}
    (hstage : f.stage = .stopped code addr aux true) (hfirst : c.W.firstCause = some c.sp.id)
    (hlink : c.sp.link = none) (hwait : c.sp.wait = .none) (hq : f.quiet = true)
    (hd : f.dirty = 0) (hp : f.pDirty = 0) (hw : c.W.swrites = []) (hhalt : c.W.halted = false) (hsup : c.sp.sup = false)
    (hv : c.W.sc.csr.trapv &&& 0xFFFFFFFC ≠ 0) (hinh : c.W.sc.csr.trapc.getLsbD 11 = false)
    (hlen : (c.W.sc.csr.trapv &&& 0xFFFFFFFC).toNat < c.image.codeLen) (hnow : c.s.deliverNow c.w c.W = true)
    (hst : ∀ a ∈ c.s.accs, a.2.warp = c.w → a.2.frag = true → a.2.split ≠ c.sp.id) (hsfu : ∀ e ∈ c.s.sfus, e.2.warp ≠ c.w) :
    ∃ t W' Y, exec (.fragmentCauseDelivery c.w) c.s = .next t ∧ tfind t.warps c.w = some W' ∧ W'.split c.sp.id = some Y ∧
      Y.isLocal = true ∧ Y.mask = c.sp.mask ∧ Y.pc = c.W.sc.csr.trapv &&& 0xFFFFFFFC ∧
      W'.sc.csr.trapc = BitVec.ofNat 32 (code + c.sp.id % 4 * 256 + 1024 + 2048) ∧
      W'.sc.csr.trappc = c.sp.pc &&& 0xFFFFFFFC ∧ W'.sc.csr.trapaux = BitVec.ofNat 32 aux := by
  let y : Ctx := c.undue.broughtHome f
  let z : Cause := { code := code, pc := c.sp.pc, addr := addr, aux := aux }
  have hX : y.W.split c.sp.id = some y.sp := homeWarp_split (c := c.undue) h.split f
  have hcome : c.undue.comeHome f = y := comeHome_unlinked (c := c.undue) h.split hwait hlink f
  have hlen' : y.W.sc.csr.handler.toNat < y.image.codeLen := by rw [image_broughtHome (c := c.undue) hsup f]; exact hlen
  have henter : y.trapLocal z true = (y.enterUser z true).put :=
    trapLocal_enters (y := y) hv hinh hlen' (sfuBusy_eq_false hsfu) z true
  have htrapc : (y.enterUser z true).W.sc.csr.trapc = BitVec.ofNat 32 (code + c.sp.id % 4 * 256 + 1024 + 2048) := by
    simp only [Ctx.enterUser, if_true, Nat.reducePow]
    rfl
  let V : Warp := (y.enterUser z true).W.setSplit (y.enterUser z true).sp
  refine ⟨_, V, _, ?_, tfind_putWarp y.s c.w V ((shr_enterUser y z true).trans hs), split_enterUser hX z true,
    rfl, rfl, rfl, htrapc, rfl, rfl⟩
  have hfree : (c.W.sc.csr.inh || c.W.halted || c.s.sfuBusy c.w || !c.s.deliverNow c.w c.W) = false := by
    rw [show c.W.sc.csr.inh = false from hinh, hhalt, sfuBusy_eq_false hsfu, hnow]
    rfl
  change execFragmentCauseDelivery c.w c.s = _
  rw [execFragmentCauseDelivery]
  simp only [h.warp, hfirst, h.fragCtx_eq, hstage, hfree, Bool.false_eq_true, if_false,
    pushAll_clean hq hd hp hw (storesDone_of_none hst)]
  exact congrArg Host.Outcome.next ((congrArg (fun x : Ctx => x.trapLocal { z with pc := x.sp.pc } true) hcome).trans henter)

/-! ## Scalar writes (R190) -/

theorem toNat_scalarName {r : Nat} (hr : r < 63) : (BitVec.ofNat 6 r).toNat = r := Nat.mod_eq_of_lt (by omega)

theorem scalarName_ne_sz {r : Nat} (hr : r < 63) : BitVec.ofNat 6 r ≠ 63 := fun hsz =>
  (show r ≠ 63 by omega) ((toNat_scalarName hr).symm.trans (congrArg BitVec.toNat hsz))

theorem scalarOf_user {r : Nat} (hr : r < 63) : scalarOf r = (false, BitVec.ofNat 6 r) := by
  simp [scalarOf, Nat.mod_eq_of_lt (show r < 64 by omega), show ¬64 ≤ r by omega]

theorem write_user (q : Scal) {r : Nat} (hr : r < 63) (v : Word) (st : RegState) :
    (q.write false (BitVec.ofNat 6 r) v st).s = tset q.s r v ∧ (q.write false (BitVec.ofNat 6 r) v st).st = tset q.st r st := by
  simp only [Scal.write, scalarName_ne_sz hr, toNat_scalarName hr, Bool.false_eq_true, if_false, and_self]

/-- A scalar write takes effect once its register is FULL. -/
theorem applySWrite_reg (s : State) (w : Nat) {q : Scal} {r : Nat} (hr : r < 63) (hfull : tget .full q.st r = .full) (v : Word)
    (st : RegState) : s.applySWrite w q (.reg r v st) = some (s, q.write false (BitVec.ofNat 6 r) v st) := by
  simp only [State.applySWrite, scalarOf_user hr, Scal.sstate, scalarName_ne_sz hr, toNat_scalarName hr, hfull,
    Bool.false_eq_true, if_false, if_true]

theorem swrite_lands {s : State} {w : Nat} {W : Warp} (hW : tfind s.warps w = some W) (hs : W.shr = none) {r : Nat} {v : Word}
    {st : RegState} {rest : List SWrite} (hr : r < 63) (hw : W.swrites = .reg r v st :: rest)
    (hfull : tget .full W.sc.st r = .full) :
    ∃ t W', exec (.swrite w) s = .next t ∧ tfind t.warps w = some W' ∧ W'.swrites = rest ∧ tget 0 W'.sc.s r = v ∧
      tget .full W'.sc.st r = st ∧ W'.v = W.v ∧ ∀ q, q ≠ r → tget 0 W'.sc.s q = tget 0 W.sc.s q := by
  obtain ⟨hvals, hstates⟩ := write_user W.sc hr v st
  refine ⟨_, { W with sc := W.sc.write false (BitVec.ofNat 6 r) v st, swrites := rest }, ?_, tfind_putWarp s w _ hs, rfl, ?_, ?_,
    rfl, fun i hi => ?_⟩
  · change execSwrite w s = _
    simp only [execSwrite, hW, hw, applySWrite_reg s w hr hfull]
  · simp only [hvals, tget_tset_self]
  · simp only [hstates, tget_tset_self]
  · simp only [hvals, tget_tset_ne _ _ _ hi]

end

/-! ## The obligation -/

/-- Settles O43: each message of a fragment by the lemma that says what it does. -/
theorem fragmentMessages : Obligations.FragmentMessages := by
  intro w sp s c f hf hs
  obtain ⟨rfl, rfl, rfl, h⟩ := fragAt_away hf
  refine ⟨fun hstage holder => ⟨h.exportMsg_runs hstage holder,
      fun e hlink hstack hsup hwait hserv hm hj hown => h.exportMsg_rejoins hstage holder
        ⟨⟨c.sp, h.split⟩, rfl, hlink, hstack, hsup, hwait, hserv, hm, hj, hown⟩⟩,
    fun r wait hr hp => ⟨h.pullreq_full hr hp, fun hfull hwait => h.pullreq_refused (hwait ▸ hr) hp hfull⟩,
    fun r x hx _ hp => h.values_arrive hx hp,
    fun hq hret => ⟨fun r hr hd hfull => h.backpush_register hs hq hret hr hd hfull, h.backpush_predicates hs hq hret⟩,
    fun rs => h.sread_answers,
    fun cl m => h.bararr_arrives,
    fun ph => h.barrier_passes,
    fun cl ph rest => h.barrier_rests,
    h.fragmentRecall_stops,
    fun hb => ⟨fun e o E k hstage hlink hE ho hj => h.joindec_rejoins hs hb hstage hlink hE ho hj,
      fun hstage hwait hstack hm _ hlink => h.joindec_recalls hs hb hstage hwait hstack hm hlink⟩,
    fun code addr aux => h.cause_held,
    fun code addr aux => h.cause_delivered hs,
    fun r v st rest hr hw hfull => swrite_lands h.warp hs hr hw hfull⟩

end Sys2Proof.Machine
end
